-- ==== Sys2Proof/Syntax.lean ====
section
/-! DEFINITION. The commands of the block, one constructor per row of spec/opcode_table.json, with
the operands the chapters give them, and the plain-data payloads those operands carry: block
schedules (ch. 4, 5), packets (ch. 12 to 17), link messages (ch. 11), DXP datagrams (ch. 19).
The rows give no bits, so an operand's width is the field width of its chapter (WellFormed.lean). -/
namespace Sys2Proof

/-! ### Block schedules (R64 to R101, R452) -/

/-- Floating-point and raw element formats (R44, R46). -/
inductive Fmt | fp32 | bf16 | e4m3 | e5m2 | fp4 | w64 | bytes
  deriving DecidableEq, Repr

/-- What a schedule names as the home of an operand: a slot of the command entry, a handle of the
image, the landed row of one token of the group being served, or the weights of the expert being
served (R24, R136). -/
inductive Place
  | input (i : Nat)
  | output (i : Nat)
  | handle (h : Nat)
  | landed (j : Nat)
  | served
  deriving DecidableEq, Repr

/-- A byte location of a schedule: `unit` bytes are added for each unit index of a unit-repeated replay, `group` bytes
for each served token before the replay's group (R98, R136). A location of block-scaled FP4 elements names the byte of
its first element code. `ws` places what is written there at an offset of the replaying tile's Working Store, where the
version's bytes then lie (R66, R70); without it they go to the version's HBM frames (log 115). -/
structure Loc where
  place : Place
  off : Nat
  unit : Nat := 0
  group : Nat := 0
  ws : Option Nat := none
  deriving DecidableEq, Repr

/-- The own operand of an issue (R64, R67): the one the row holds, the one its other buffer holds, or one loaded now. -/
inductive OwnSel
  | keep
  | swap
  | load (l : Loc)
  deriving DecidableEq, Repr

/-- The location an own operand is loaded from. -/
def OwnSel.loc : OwnSel → Option Loc
  | .load l => some l
  | _ => none

/-- One Lane Row issue (R64, R67, R68, R83). `fill` loads the other buffer of the own-operand registers during the
issue; `stride` is the distance between the own segments of neighbouring dot lanes; `lOwn`/`lSh` are the logical lengths
of a merge-sparse issue (R88); `token` is the token of its group whose unit mask decides the issue in a unit-repeated
replay, in A mode the token of lane 0 (R67, R96, log 45). -/
structure LaneIssue where
  row : Nat
  shape : Nat
  sparse : Nat
  acc : Nat
  own : OwnSel
  fill : Option Loc := none
  stride : Nat
  shared : Loc
  ownFmt : Fmt
  shFmt : Fmt
  target : Place
  lOwn : Nat := 0
  lSh : Nat := 0
  token : Option Nat := none
  deriving DecidableEq, Repr

/-- A drain of one accumulator index of a row (R66). `length` is the accumulation length, the terms the schedule enters
into the accumulator (R47); `token` the token of its group whose unit mask decides it, of lane 0 when `byLane` (R96). -/
structure Drain where
  row : Nat
  acc : Nat
  dst : Loc
  stride : Nat
  fmt : Fmt
  clear : Bool
  length : Nat := 0
  token : Option Nat := none
  byLane : Bool := false
  deriving DecidableEq, Repr

/-- Vector Unit operations (R60, R72, R92). `first` of a COMPACT is the position of its first element in the operand. -/
inductive VecFn
  | add | sub | mul | fma
  | cmpEq | cmpNe | cmpLt | cmpLe | cmpGt | cmpGe
  | select | min | max
  | exp2 | log2 | recip | rsqrt | tanh | sigmoid | sin | cos
  | convert (src dst : Fmt)
  | reduce (k : Nat) (square : Bool)
  | reduceOut (k : Nat) (dst : Fmt)
  | pairPack (fmt : Fmt) (span : Nat)
  | compact (fmt : Fmt) (span len first : Nat)
  deriving DecidableEq, Repr

/-- An operand of the Vector Unit (R72): from memory, or the output of the `n`-th issue of the block before this one. -/
inductive VecSrc
  | mem (l : Loc)
  | prior (n : Nat)
  deriving DecidableEq, Repr

/-- The location of an operand from memory. -/
def VecSrc.loc : VecSrc → Option Loc
  | .mem l => some l
  | .prior _ => none

/-- One Vector Unit issue on at most 512 elements (R72); without `dst` its output serves later operations only. `token` is
the token of its group whose unit mask decides it (R96). -/
structure VecIssue where
  fn : VecFn
  n : Nat
  dst : Option Loc
  srcs : List VecSrc
  token : Option Nat := none
  deriving DecidableEq, Repr

/-- Work of the Routing Engine and selection points inside a block (R98, R105, R109, R122, R136). -/
inductive HubOp
  | gate (layer : Nat) (hidden : Loc) (rows : Nat) (hfmt gfmt : Fmt) (out : Loc)
  | lookahead (layer : Nat) (hidden : Loc) (rows : Nat) (hfmt pfmt : Fmt)
  | selectP (layer : Nat) (scores : Loc)
  | selectN (layer : Nat) (acts : Loc)
  | selectServed (layer : Nat)
  deriving DecidableEq, Repr

/-- A near-stack stream request (R73, R75): its number, stack, bytes, and the rate requested in bytes per CCLK. -/
structure StreamReq where
  id : Nat
  stack : Nat
  bytes : Nat
  rate : Nat
  deriving DecidableEq, Repr

/-- The issue set of one CCLK of a segment (R73): `ports` lists the scheduled Working Store accesses as (port, offset)
(R71), `takes` the near-stack data consumed as (stream number, bytes of it consumed by the end of this CCLK) (R73), `wake`
the rows the schedule wakes as a mask (R79), `quiet` the near stacks for which a quiet mark begins, a mask of the first and
the second (R161). -/
structure IssueSet where
  at_ : Nat
  lanes : List LaneIssue := []
  drains : List Drain := []
  vec : Option VecIssue := none
  hub : List HubOp := []
  streams : List StreamReq := []
  ports : List (Nat × Nat) := []
  takes : List (Nat × Nat) := []
  wake : Nat := 0
  quiet : Nat := 0
  deriving DecidableEq, Repr

/-- Repeat marks of a segment (R452). -/
inductive Repeat
  | once | unitP | unitN | unitPN | unitRepair | served
  deriving DecidableEq, Repr

/-- A wait point that ends a segment (R74). -/
inductive WaitPoint
  | counter (i threshold : Nat)
  | farStream (stack : Nat)
  | codec (n : Nat)
  | fetch (handle : Nat)
  | fabric (n : Nat)
  deriving DecidableEq, Repr

/-- A segment of a block schedule (R73, R74, R79). -/
structure Segment where
  count : Nat
  mark : Repeat
  feather : Nat
  sets : List IssueSet
  wait : Option WaitPoint
  deriving DecidableEq, Repr

/-- The schedule one Tile Sequencer replays, with its assumed row offsets (R73, R78). -/
structure TileSched where
  tile : Nat
  assumed : List Nat
  segs : List Segment
  deriving DecidableEq, Repr

/-- A block of the BLOCKS section (R19). -/
structure Block where
  deadline : Nat
  gateLayer : Option Nat
  scheds : List TileSched
  deriving DecidableEq, Repr

/-! ### Fabric packets (R224 to R242, R255, R276, R315, R342) -/

/-- An address: a coordinate and its aux field (R224). -/
structure Addr where
  coord : Nat
  aux : Nat
  deriving DecidableEq, Repr

/-- One candidate or merge record (R109, R132). -/
structure Cand where
  biased : Int
  logit : Int
  expert : Nat
  flags : Nat
  deriving DecidableEq, Repr

/-- The scan value of a count exchange (R278). -/
structure ScanVal where
  counts : List Nat
  key : Nat
  hasTok : Bool
  deriving DecidableEq, Repr

/-- One element of collective data: a value and its special flags (R46, R276). -/
structure Elem where
  val : Int
  flags : Nat
  deriving DecidableEq, Repr

/-- Tags of an exchange delivery (R143); `origin` and `row` are the member that holds its token and the token's row there, which tell
deliveries of equal token keys apart and stand in a descriptor (R112, R129, log 34). -/
structure DelivTag where
  ctx : Nat
  step : Nat
  cmd : Nat
  sender : Nat
  origin : Nat
  row : Nat
  deriving DecidableEq, Repr

/-- What a packet carries, deliveries longer than 4 KiB split into pieces of byte `first` of `total`; a landing names its pairs as (expert, holder) (services of R228, R255, R276, R315, R342 and the exchange deliveries). -/
inductive Body
  | ack (streams : List (Nat × Nat × Nat))
  | heartbeat (tick : Nat)
  | linkState (port up coord : Nat)
  | memberLost (a : Addr) (copy tick : Nat)
  | takeover (rank : Nat) (spare : Addr) (copy tick : Nat)
  | ckptRequest (target origin reason copy tick : Nat)
  | planDigest (digest : Nat)
  | hint (layer expert : Nat)
  | skip
  | load (off len : Nat)
  | store (off : Nat) (data : List Byte)
  | atomic (off op size : Nat) (noReturn : Bool) (operand compare : Nat)
  | signal (counter increment : Nat)
  | loadData (txn status : Nat) (data : List Byte)
  | atomicData (txn status old : Nat)
  | landing (tag : DelivTag) (layer key : Nat) (pairs : List (Nat × Nat)) (relay : Bool) (first total : Nat) (row : List Byte)
  | mergeList (tag : DelivTag) (layer key : Nat) (down : Bool) (cands : List Cand)
  | retRow (tag : DelivTag) (layer key expert first total : Nat) (row : List Byte)
  | mirror (ctx layer rows step pass first total : Nat) (data : List Byte)
  | enter (crew round inst att sig : Nat)
  | stroke (crew stroke stage inst att first width : Nat) (elems : List Elem)
  | scan (crew round stroke stage inst att first : Nat) (vals : List ScanVal)
  | crewAbort (crew origin inst att code : Nat)
  | parityDelta (stripe gen slot row first total : Nat) (granules : List (List Byte))
  | decodeRead (stripe view index coeff req : Nat) (next : Addr) (pos : Nat)
  | decodeTerm (req stripe pos : Nat) (data : List Byte)
  | decodeData (req stripe index : Nat) (data : List Byte)
  | groupDone (gen index : Nat)
  | groupRecord (gen : Nat)
  | groupState (recorded open_ units index flags : Nat)
  | rebuildStart (gen view index layout : Nat) (ranks : List Nat) (spares : List Addr)
  | ckptTile (shard step tile piece : Nat) (data : List Byte)
  deriving DecidableEq, Repr

/-- A packet on a link or at the NI (R228). `dsts` pairs each destination with its stream number. -/
structure Packet where
  tag : Nat
  tc : Nat
  mode : Nat
  src : Addr
  dsts : List (Addr × Nat)
  lineDim : Nat := 0
  span : Nat := 0
  minus : Bool := false
  txn : Nat := 0
  attempt : Nat := 0
  ctx : Nat := 0
  hops : Nat := 0
  vc : Nat := 0
  body : Body
  deriving DecidableEq, Repr

/-- A CAPS message (R210, R212). -/
structure Caps where
  version : Nat
  features : Nat
  coord : Nat
  port : Nat
  role : Nat
  rateMax : Nat
  deriving DecidableEq, Repr

/-- Link control messages (R210). -/
inductive LinkMsg
  | caps (c : Caps)
  | boundary (tag : Nat)
  | boundaryAck (tag : Nat)
  | tagSet (tag : Nat)
  | tagSetAck (tag : Nat)
  | resync
  | resyncMark
  | creditSet (free : List Nat)
  | latProbe (seq : Nat)
  | latEcho (seq hold : Nat)
  deriving DecidableEq, Repr

/-- A beacon: the payload of an IDLE flit (R291). -/
structure Beacon where
  ticks : Nat
  fraction : Nat
  stratum : Nat
  state : Nat
  coord : Nat
  priority : Nat
  deriving DecidableEq, Repr

/-- What an arriving flit, or the flits of a packet, bring beside their content (R207, R208): the credits their headers return, as
(class·2 + VC, count), and the symbols the receiver corrected in them. -/
structure FlitIn where
  cr : List (Nat × Nat) := []
  fec : Nat := 0
  deriving DecidableEq, Repr

/-! ### DXP (R392 to R397) -/

/-- One operation record of a DXP request or response (R394). -/
structure DxpOp where
  index : Nat
  sub : Nat
  status : Nat
  off : Nat
  len : Nat
  value : List Byte
  deriving DecidableEq, Repr

/-- A DXP datagram as its header and payload fields; `good` is false when the CRC, the magic or the
length disagrees (R393); `src` is the source address as 16 bytes and a port. -/
structure Dgram where
  src : List Byte
  port : Nat
  good : Bool
  version : Nat
  flags : Nat
  session : Nat
  seq : Nat
  status : Nat
  ops : List DxpOp
  deriving DecidableEq, Repr

/-- What an error check on a read found, given by the surroundings (R156, R157, R164). -/
inductive Finding
  | clean
  | corrected (symbol : Nat)
  | uncorrectable
  | checkFail
  deriving DecidableEq, Repr

/-! ### The commands (spec/opcode_table.json) -/

/-- One command: a row of the opcode table with its operands. `dt` counts the ticks of the module's own
tick clock that passed before the command (R300); `found` and `find` give what error checks found. -/
inductive Instr
  /-- IMAGE_LOAD (R20). -/
  | imageLoad (blocks : List Block)
  /-- IMAGE_UNLOAD (R21). -/
  | imageUnload
  /-- DOORBELL (R30). -/
  | doorbell (c : Fin 4) (q : Fin 8) (tail : Nat)
  /-- BLOCK (R73). -/
  | block (c : Fin 4) (q : Fin 8) (found : List (Nat × Finding))
  /-- BROADCAST (R131). -/
  | broadcast (c : Fin 4) (q : Fin 8) (found : List (Nat × Finding))
  /-- DISPATCH (R128). -/
  | dispatch (c : Fin 4) (q : Fin 8) (found : List (Nat × Finding))
  /-- COMBINE (R140). -/
  | combine (c : Fin 4) (q : Fin 8) (found : List (Nat × Finding))
  /-- ALL_REDUCE (R271). -/
  | allReduce (c : Fin 4) (q : Fin 8) (found : List (Nat × Finding))
  /-- REDUCE_SCATTER (R271). -/
  | reduceScatter (c : Fin 4) (q : Fin 8) (found : List (Nat × Finding))
  /-- ALL_GATHER (R271). -/
  | allGather (c : Fin 4) (q : Fin 8) (found : List (Nat × Finding))
  /-- COLLECTIVE_BROADCAST (R271). -/
  | collectiveBroadcast (c : Fin 4) (q : Fin 8) (found : List (Nat × Finding))
  /-- ALL_TO_ALL (R271). -/
  | allToAll (c : Fin 4) (q : Fin 8) (found : List (Nat × Finding))
  /-- BARRIER (R271). -/
  | barrier (c : Fin 4) (q : Fin 8)
  /-- COPY_LOCAL (R260). -/
  | copyLocal (c : Fin 4) (q : Fin 8) (found : List (Nat × Finding))
  /-- PUT (R261). -/
  | put (c : Fin 4) (q : Fin 8) (found : List (Nat × Finding))
  /-- GET (R261). -/
  | get (c : Fin 4) (q : Fin 8)
  /-- ATOMIC_LIST (R261). -/
  | atomicList (c : Fin 4) (q : Fin 8) (found : List (Nat × Finding))
  /-- FETCH (R185). -/
  | fetch (c : Fin 4) (q : Fin 8)
  /-- COMMIT (R33). -/
  | commit (c : Fin 4) (q : Fin 8)
  /-- LAUNCH_TICK (R297). -/
  | launchTick (c : Fin 4) (q : Fin 8) (dt : Nat) (found : List (Nat × Finding))
  /-- COMMIT_POINT (R31). -/
  | commitPoint (c : Fin 4) (q : Fin 8) (found : List (Nat × Finding))
  /-- COMPLETION_ACK (R29). -/
  | completionAck (c : Fin 4) (n : Nat)
  /-- STEP_BOUNDARY (R33). -/
  | stepBoundary (c : Fin 4)
  /-- PREEMPT (R39). -/
  | preempt (mask : Nat)
  /-- RESUME (R40). -/
  | resume (mask : Nat)
  /-- BLOCK_BUDGET_EXPIRY (R36). -/
  | blockBudgetExpiry (c : Fin 4) (q : Fin 8)
  /-- COMMAND_BUDGET_EXPIRY (R36). -/
  | commandBudgetExpiry (c : Fin 4) (q : Fin 8) (dt : Nat)
  /-- TEARDOWN_COMPLETE (R360). -/
  | teardownComplete (c : Fin 4)
  /-- ACT_DETECTED (R41). -/
  | actDetected (c : Fin 4) (q : Fin 8) (handle addr : Nat)
  /-- BLOCK_WAIT_RESUME (R74). -/
  | blockWaitResume (c : Fin 4) (q : Fin 8) (tile : Fin 4) (dt : Nat) (found : List (Nat × Finding))
  /-- NEAR_STREAM_STALL_END (R73). -/
  | nearStreamStallEnd (c : Fin 4) (q : Fin 8) (tile : Fin 4) (found : List (Nat × Finding))
  /-- WAIT_FEATHER (R80). -/
  | waitFeather (c : Fin 4) (q : Fin 8) (tile : Fin 4) (dt : Nat)
  /-- HOST_MEM_READ (R148). -/
  | hostMemRead (addr len : Nat) (found : List (Nat × Finding))
  /-- HOST_MEM_WRITE (R148). -/
  | hostMemWrite (addr : Nat) (data : List Byte) (found : List (Nat × Finding))
  /-- REFRESH_SLOT (R161). -/
  | refreshSlot (stack : Fin 8) (dt : Nat) (found : List (Nat × Finding))
  /-- FORCED_REFRESH (R163). -/
  | forcedRefresh (stack : Fin 8) (dt : Nat)
  /-- TEMPERATURE_SAMPLE (R408). -/
  | temperatureSample (sensor : Fin 16) (mC : Int)
  /-- REFRESH_DOUBLED_CLEAR (R162). -/
  | refreshDoubledClear (stack : Fin 8) (dt : Nat)
  /-- SCRUB_READ (R164). -/
  | scrubRead (chan : Nat) (found : List (Nat × Finding))
  /-- SCRUB_WRITEBACK (R164). -/
  | scrubWriteback (addr : Nat)
  /-- ERROR_RATE_UPDATE (R165). -/
  | errorRateUpdate (dt : Nat)
  /-- PLAN_COMPLETE (R178). -/
  | planComplete
  /-- MOVE_COMPLETE (R178). -/
  | moveComplete (handle owner : Nat) (data : List Byte) (crcOk : Bool)
  /-- PLAN_DIGEST (R180). -/
  | planDigest (digest : Nat)
  /-- CODEC_TILE_DONE (R184). -/
  | codecTileDone (handle tile : Nat) (data : List Byte) (crcOk : Bool)
  /-- STAGING_HINT (R186). -/
  | stagingHint (layer expert : Nat)
  /-- LANDING (R133). -/
  | landing (port : Fin 16) (tag : DelivTag) (layer key : Nat) (experts : List Nat) (relay : Bool) (first total : Nat) (row : List Byte)
  /-- POOL_WAIT_GRANT (R194). -/
  | poolWaitGrant (pool : Fin 16)
  /-- MERGE_LIST (R132). -/
  | mergeList (tag : DelivTag) (layer key : Nat) (down : Bool) (cands : List Cand)
  /-- RETURN_ARRIVAL (R141). -/
  | returnArrival (port : Fin 16) (tag : DelivTag) (layer key expert first total : Nat) (row : List Byte)
  /-- MIRROR_ARRIVAL (R142). -/
  | mirrorArrival (ctx layer rows step pass : Nat) (data : List Byte)
  /-- PORT_ENABLE (R203). -/
  | portEnable (p : Fin 16)
  /-- PORT_DISABLE (R222). -/
  | portDisable (p : Fin 16)
  /-- DETECT_COMPLETE (R211). -/
  | detectComplete (p : Fin 16)
  /-- TRAIN_COMPLETE (R211). -/
  | trainComplete (p : Fin 16) (ppm skew inverted : Nat) (reversed : Bool)
  /-- CAPS (R212). -/
  | caps (p : Fin 16) (fl : FlitIn) (other : Caps)
  /-- VERIFY_END (R213). -/
  | verifyEnd (p : Fin 16) (crcFails corrected : Nat)
  /-- TRAIN_ATTEMPT_TIMEOUT (R211). -/
  | trainAttemptTimeout (p : Fin 16) (dt : Nat)
  /-- RETRY_WAIT_END (R211). -/
  | retryWaitEnd (p : Fin 16) (dt : Nat)
  /-- LINK_MSG_REPEAT (R210). -/
  | linkMsgRepeat (p : Fin 16) (dt : Nat)
  /-- BOUNDARY (R220). -/
  | boundary (p : Fin 16) (fl : FlitIn) (tag : Nat)
  /-- BOUNDARY_ACK (R220). -/
  | boundaryAck (p : Fin 16) (fl : FlitIn) (tag : Nat)
  /-- TAG_SET (R219). -/
  | tagSet (p : Fin 16) (fl : FlitIn) (tag : Nat)
  /-- TAG_SET_ACK (R219). -/
  | tagSetAck (p : Fin 16) (fl : FlitIn) (tag : Nat)
  /-- RESYNC (R216). -/
  | resync (p : Fin 16) (fl : FlitIn)
  /-- RESYNC_MARK (R216). -/
  | resyncMark (p : Fin 16) (fl : FlitIn)
  /-- CREDIT_SET (R216). -/
  | creditSet (p : Fin 16) (fl : FlitIn) (free : List Nat)
  /-- LAT_PROBE (R213). -/
  | latProbe (p : Fin 16) (fl : FlitIn) (seq hold : Nat)
  /-- LAT_ECHO (R213). -/
  | latEcho (p : Fin 16) (fl : FlitIn) (seq hold roundTrip : Nat)
  /-- LATENCY_REMEASURE (R213). -/
  | latencyRemeasure (p : Fin 16) (dt : Nat)
  /-- FLIT_CRC_FAIL (R214). -/
  | flitCrcFail (p : Fin 16) (kind corrected : Nat)
  /-- ABORT_FLIT (R214). -/
  | abortFlit (p : Fin 16) (fl : FlitIn)
  /-- ORPHAN_FLIT (R214). -/
  | orphanFlit (p : Fin 16) (fl : FlitIn) (tag tc vc : Nat)
  /-- BEACON (R293). -/
  | beacon (p : Fin 16) (fl : FlitIn) (b : Beacon)
  /-- LOCK_LOST (R217). -/
  | lockLost (p : Fin 16)
  /-- CRC_BURST (R217). -/
  | crcBurst (p : Fin 16) (fails : Nat)
  /-- LINK_SILENCE_END (R217). -/
  | linkSilenceEnd (p : Fin 16) (dt : Nat)
  /-- PARTITION_JOIN (R219). -/
  | partitionJoin (tag : Nat)
  /-- PARTITION_TEARDOWN (R220). -/
  | partitionTeardown
  /-- TRANSIT_TAGS_WRITE (R219). -/
  | transitTagsWrite (p : Fin 16) (tags : List Nat)
  /-- BOUNDARY_TIMEOUT (R220). -/
  | boundaryTimeout (p : Fin 16) (tag dt : Nat)
  /-- PACKET_ARRIVAL (R233). -/
  | packetArrival (p : Fin 16) (fl : FlitIn) (pk : Packet)
  /-- PACKET_ACCEPT (R240). -/
  | packetAccept (pk : Packet)
  /-- ACK (R241). -/
  | ack (src : Addr) (streams : List (Nat × Nat × Nat))
  /-- RETRY_TIMER_EXPIRY (R242). -/
  | retryTimerExpiry (txn : Nat) (dt : Nat)
  /-- SKIP (R242). -/
  | skip (src : Addr) (tc seq : Nat)
  /-- LINK_STATE (R230). -/
  | linkState (dim port : Nat) (up : Bool) (coord : Nat)
  /-- HEARTBEAT_SEND (R244). -/
  | heartbeatSend (dt : Nat)
  /-- HEARTBEAT (R244). -/
  | heartbeat (src : Addr) (tick : Nat)
  /-- HEARTBEAT_DECLARE (R244). -/
  | heartbeatDeclare (a : Addr) (dt : Nat)
  /-- MEMBER_LOST (R245). -/
  | memberLost (line : Nat) (a : Addr) (copy tick : Nat)
  /-- RANK_REMAP (R225). -/
  | rankRemap (v : Nat)
  /-- NI_FAILED_CLEAR (R243). -/
  | niFailedClear (v : Nat)
  /-- LOAD (R256). -/
  | load (src : Addr) (ctx txn off len : Nat) (found : List (Nat × Finding))
  /-- STORE (R256). -/
  | store (src : Addr) (ctx txn off : Nat) (data : List Byte) (found : List (Nat × Finding))
  /-- ATOMIC (R257). -/
  | atomic (src : Addr) (ctx txn off op size : Nat) (noReturn : Bool) (operand compare : Nat) (found : List (Nat × Finding))
  /-- SIGNAL (R256). -/
  | signal (src : Addr) (ctx counter increment : Nat)
  /-- LOAD_DATA (R264). -/
  | loadData (txn status : Nat) (data : List Byte)
  /-- ATOMIC_DATA (R264). -/
  | atomicData (txn status old : Nat)
  /-- MF_RESPONSE_TIMEOUT (R263). -/
  | mfResponseTimeout (txn dt : Nat)
  /-- ENTER (R275). -/
  | enter (src crew round inst att sig : Nat)
  /-- STROKE (R277). -/
  | stroke (src crew num stage inst att first : Nat) (elems : List Elem) (upsets : List (Nat × Nat))
  /-- SCAN (R278). -/
  | scan (src crew round num stage inst att first : Nat) (vals : List ScanVal)
  /-- CREW_ABORT (R280). -/
  | crewAbort (src crew origin inst att code : Nat)
  /-- STROKE_TIMEOUT (R283). -/
  | strokeTimeout (c : Fin 4) (q : Fin 8) (dt : Nat)
  /-- ABORT_SETTLE (R281). -/
  | abortSettle (c : Fin 4) (q : Fin 8) (dt : Nat)
  /-- TAKEOVER_WAIT (R328). -/
  | takeoverWait (c : Fin 4) (q : Fin 8) (dt : Nat)
  /-- CLOCK_FAULT (R289). -/
  | clockFault (pllLost : Bool)
  /-- UPSTREAM_LOST (R294). -/
  | upstreamLost (dt : Nat)
  /-- GC_VALUE_READ (R290). -/
  | gcValueRead
  /-- HOST_TIME_WRITE (R296). -/
  | hostTimeWrite (t : Nat)
  /-- PTM_DIALOG (R296). -/
  | ptmDialog (t dt : Nat)
  /-- RAMP_START (R299). -/
  | rampStart (c : Fin 4) (q : Fin 8) (dt : Nat)
  /-- RAMP_END (R299). -/
  | rampEnd (dt : Nat)
  /-- PARITY_DELTA (R314). -/
  | parityDelta (src : Addr) (stripe gen slot row first total : Nat) (granules : List (List Byte))
  /-- GROUP_DONE (R316). -/
  | groupDone (gen index : Nat)
  /-- GROUP_RECORD (R316). -/
  | groupRecord (gen : Nat)
  /-- GROUP_STATE (R323). -/
  | groupState (recorded opened units index flags : Nat)
  /-- CODED_REPORT_WAIT (R323). -/
  | codedReportWait (index dt : Nat)
  /-- TAKEOVER (R327). -/
  | takeover (line rank : Nat) (spare : Addr) (copy tick : Nat)
  /-- REBUILD_START (R330). -/
  | rebuildStart (gen view index layout : Nat) (ranks : List Nat) (spares : List Addr)
  /-- DECODE_READ (R321). -/
  | decodeRead (stripe view index coeff req : Nat) (next : Addr) (pos : Nat)
  /-- DECODE_TERM (R321). -/
  | decodeTerm (req stripe pos : Nat) (data : List Byte)
  /-- DECODE_DATA (R331). -/
  | decodeData (req stripe index : Nat) (data : List Byte)
  /-- CODED_REVERT (R325). -/
  | codedRevert (gen : Nat)
  /-- EARLY_WARNING_CHECK (R341). -/
  | earlyWarningCheck (dt : Nat)
  /-- CKPT_PREEMPT_NOTICE (R340). -/
  | ckptPreemptNotice
  /-- CKPT_SOFTWARE_REQUEST (R340). -/
  | ckptSoftwareRequest
  /-- CKPT_REQUEST (R342). -/
  | ckptRequest (line target origin reason copy tick : Nat)
  /-- CKPT_WRITE_DONE (R346). -/
  | ckptWriteDone
  /-- FLASH_PROGRAM_FAIL (R347). -/
  | flashProgramFail (remapped : Bool)
  /-- CKPT_XFER_DESC (R348). -/
  | ckptXferDesc (desc : List Byte)
  /-- XFER_COMPLETE (R348). -/
  | xferComplete (data : List Byte)
  /-- CKPT_RESTORE (R350). -/
  | ckptRestore (ceiling : Nat)
  /-- CKPT_TILE (R351). -/
  | ckptTile (shard step tile piece : Nat) (data : List Byte)
  /-- RESTORE_COMPLETE (R351). -/
  | restoreComplete (flashOk : Bool)
  /-- CTX_RESIDENT (R357). -/
  | ctxResident (c : Fin 4)
  /-- CTX_RELEASE (R360). -/
  | ctxRelease (c : Fin 4)
  /-- CTX_CLEAR (R361). -/
  | ctxClear (c : Fin 4)
  /-- CTX_STEP_SET (R369). -/
  | ctxStepSet (c : Fin 4) (v : Nat)
  /-- CTX_FAULT_ACK (R365). -/
  | ctxFaultAck (c : Fin 4) (w : Nat)
  /-- MODULE_FAULT_ACK (R365). -/
  | moduleFaultAck (w : Nat)
  /-- EVENT_ACK (R368). -/
  | eventAck (w : Nat)
  /-- STATE_REQUEST_CONFIG (R378). -/
  | stateRequestConfig
  /-- STATE_REQUEST_RUN (R380). -/
  | stateRequestRun
  /-- REGISTER_WRITE (R374). -/
  | registerWrite (addr v : Nat)
  /-- U64_LOW_READ (R384). -/
  | u64LowRead (addr : Nat)
  /-- U64_HIGH_READ (R384). -/
  | u64HighRead (addr : Nat)
  /-- U64_LOW_WRITE (R385). -/
  | u64LowWrite (addr v : Nat)
  /-- U64_HIGH_WRITE (R385). -/
  | u64HighWrite (addr v : Nat)
  /-- BULK_SELECT (R387). -/
  | bulkSelect (v : Nat)
  /-- BULK_APERTURE_WRITE (R387). -/
  | bulkApertureWrite (off v : Nat)
  /-- BULK_COMMIT (R387). -/
  | bulkCommit
  /-- CONFIG_CRC_REF (R389). -/
  | configCrcRef (v : Nat)
  /-- CONFIG_CRC_PASS_END (R389). -/
  | configCrcPassEnd (ms : Nat)
  /-- CONFIG_CRC_GRACE (R390). -/
  | configCrcGrace (dt : Nat)
  /-- DXP_OPEN (R396). -/
  | dxpOpen (d : Dgram) (offer : Nat) (want : Bool)
  /-- DXP_CLOSE (R396). -/
  | dxpClose (d : Dgram)
  /-- DXP_KEEPALIVE (R396). -/
  | dxpKeepalive (d : Dgram)
  /-- DXP_READ (R394). -/
  | dxpRead (d : Dgram)
  /-- DXP_WRITE (R397). -/
  | dxpWrite (d : Dgram)
  /-- DXP_DESCRIBE (R394). -/
  | dxpDescribe (d : Dgram)
  /-- DXP_SESSION_TIMEOUT (R396). -/
  | dxpSessionTimeout (session dt : Nat)
  /-- COMPAT_LEVEL (R398). -/
  | compatLevel (v : Nat)
  /-- QUOTE_NONCE (R407). -/
  | quoteNonce (nonce : List Byte)
  /-- QUOTE_SIGNED (R407). -/
  | quoteSigned
  /-- QUOTE_READ (R407). -/
  | quoteRead (d : Dgram)
  /-- POWER_CAP (R409). -/
  | powerCap (v : Nat)
  /-- START_FALLBACK_RESET (R412). -/
  | startFallbackReset
  /-- THERMAL_EMERGENCY (R444). -/
  | thermalEmergency (sensor : Fin 16) (mC : Int)
  /-- THERMAL_EMERGENCY_END (R444). -/
  | thermalEmergencyEnd (dt : Nat)
  /-- THERMAL_SHUTDOWN (R444). -/
  | thermalShutdown (sensor : Fin 16) (mC : Int)
  /-- AUX_POWER_UP (R435). -/
  | auxPowerUp (mV straps : Nat)
  /-- INPUT_IN_RANGE (R415). -/
  | inputInRange (mV : Nat)
  /-- INPUT_LOSS (R437). -/
  | inputLoss (mV dt : Nat)
  /-- AUX_LOSS (R437). -/
  | auxLoss (mV : Nat)
  /-- OVERVOLTAGE (R434). -/
  | overvoltage (aux : Bool) (mV : Nat)
  /-- MC_RESET (R433). -/
  | mcReset (dt : Nat)
  /-- PERST_ASSERT (R433). -/
  | perstAssert
  /-- PERST_DEASSERT (R415). -/
  | perstDeassert
  /-- STAGE_COMPLETE (R414). -/
  | stageComplete (ms : Nat) (meas : List (List Byte)) (vals : List Nat)
  /-- STAGE_BUDGET_EXPIRY (R414). -/
  | stageBudgetExpiry (ms : Nat) (items : List (Nat × Nat)) (meas : List (List Byte))
  /-- BIST_WAVE_COMPLETE (R416). -/
  | bistWaveComplete (ms : Nat) (results : List (Nat × Nat × Nat))
  /-- START_AGAIN (R419). -/
  | startAgain (dt : Nat)
  /-- IMAGE_LOAD_END (R21). -/
  | imageLoadEnd (dt : Nat)
  /-- FLASH_DETACHED (R413). -/
  | flashDetached
  /-- FIELD_NETWORK_LINK (R439). -/
  | fieldNetworkLink (up : Bool)
  /-- MEMBER_LOST_COPY (R244). -/
  | memberLostCopy (a : Addr) (dt : Nat)
  /-- EMERGENCY_ISSUE_WINDOW (R444). -/
  | emergencyIssueWindow (dt : Nat)
  /-- CKPT_VERSION_READ (R339). -/
  | ckptVersionRead (handle unit : Nat)
  deriving DecidableEq, Repr

end Sys2Proof
end

