-- ==== Sys2Proof/Machine/State.lean ====
section
/-! DEFINITION. The machine's state as plain data, everything the spec gives the module: the Object
Dictionary's values, the memories, the loaded image, contexts with their queues and running commands,
tiles, pools, ports, fabric streams and transactions, crews, coded state, checkpoints, time, power,
start-up, and the queue of waiting commands; and the state right after reset. -/
namespace Sys2Proof.Machine

/-! ### The loaded image (ch. 2, 6, 7, 9, 13, 14) -/

/-- Image header (R18). -/
structure Header where
  format : Nat
  level : Nat
  flags : Nat
  length : Nat
  contextsMax : Nat
  partitionModules : Nat
  unitMapDigest : Nat
  arrivalCounters : Nat
  copyDescs : Nat
  crewsDefined : Nat
  queues : Nat
  build : Nat
  deriving DecidableEq, Repr

/-- A wait of a command entry (R26). -/
structure CounterWait where
  counter : Nat
  threshold : Nat
  deriving DecidableEq, Repr

/-- A signal of a command entry (R26). -/
structure SignalRef where
  rank : Nat
  counter : Nat
  increment : Nat
  deriving DecidableEq, Repr

/-- Exchange parameter record (R127); `reserved` is the field at 0x1A. -/
structure ExchRec where
  role : Nat
  hsFormat : Nat
  layer : Nat
  hs : Nat
  out : Nat
  residual : Nat
  shared : Nat
  pool : Nat
  relay : Nat
  counter : Nat
  mirror : Nat
  reserved : Nat
  domainRows : Nat
  deriving DecidableEq, Repr

/-- Collective parameter record (R270). -/
structure CollRec where
  op : Nat
  format : Nat
  outFormat : Nat
  inputsUsed : Nat
  elements : Nat
  root : Nat
  deriving DecidableEq, Repr

/-- Copy parameter record (R260). -/
structure CopyRec where
  op : Nat
  flags : Nat
  count : Nat
  remote : Nat
  localOffset : Nat
  length : Nat
  deriving DecidableEq, Repr

/-- Fetch parameter record (R185). -/
structure FetchRec where
  handle : Nat
  first : Nat
  count : Nat
  part : Nat
  deriving DecidableEq, Repr

/-- The parameter record of a command, by kind. -/
inductive Param
  | none
  | block (index : Nat)
  | exchange (r : ExchRec)
  | collective (r : CollRec)
  | copy (r : CopyRec)
  | fetch (r : FetchRec)
  deriving DecidableEq, Repr

/-- Command table entry (R26). -/
structure Command where
  kind : Nat
  flags : Nat
  deadline : Nat
  target : Nat
  inputs : List Nat
  outputs : List Nat
  waits : List CounterWait
  signals : List SignalRef
  param : Param
  deriving DecidableEq, Repr

/-- Object record (R170). -/
structure ObjRec where
  size : Nat
  role : Nat
  protection : Nat
  placement : Nat
  ceiling : Nat
  tiles : Nat
  replicas : Nat
  flags : Nat
  layer : Nat
  codec : Nat
  expert : Nat
  deriving DecidableEq, Repr

/-- Anchor record (R48). -/
structure Anchor where
  handle : Nat
  anchor : Int
  mode : Nat
  deriving DecidableEq, Repr

/-- Crew header and member list (R267, R268). -/
structure Crew where
  members : List Nat
  ds : Nat
  dx : Nat
  dy : Nat
  dz : Nat
  addressing : Nat
  strokeTimeout : Nat
  treeMax : Nat
  deriving DecidableEq, Repr

/-- Routing layer record (R103). -/
structure LayerRec where
  layer : Nat
  k : Nat
  capMode : Nat
  experts : Nat
  capacity : Nat
  crew : Nat
  gating : Nat
  scoreFn : Nat
  renorm : Nat
  shared : Nat
  gateSource : Nat
  routeScale : Nat
  gate : Nat
  bias : Nat
  logit : Nat
  tagHandle : Nat
  expertBase : Nat
  localExperts : Nat
  dModel : Nat
  lookahead : Nat
  laRank : Nat
  laP1 : Nat
  laP2 : Nat
  deriving DecidableEq, Repr

/-- Predictor record (R93). -/
structure PredRec where
  layer : Nat
  mode : Nat
  units : Nat
  rank : Nat
  actThreshold : Nat
  scoreThreshold : Nat
  p1 : Nat
  p2 : Nat
  deriving DecidableEq, Repr

/-- The loaded image (R18 to R22). -/
structure Image where
  header : Header
  commands : List Command
  objects : List ObjRec
  deadlines : List (Nat × Nat)
  anchors : List Anchor
  crews : List Crew
  layers : List LayerRec
  preds : List PredRec
  blocks : List Block
  deriving DecidableEq, Repr

/-! ### Objects and memory (ch. 2, 8, 9) -/

/-- Residency states (R169). -/
inductive Tier | hot | warm | cold | remote
  deriving DecidableEq, Repr

/-- A version: its 64 KiB frames in tile order, its producer tag (R24) and its generation (R307); the parts of it that a
schedule has placed in a Working Store, newest first, as (offset in the object, bytes, address) (R66, R70); and the groups
of block-scaled FP4 elements whose padding has been written (R45). -/
structure Version where
  frames : List Nat
  prod : Option (Nat × Nat)
  gen : Nat
  store : List (Nat × Nat × Nat) := []
  fp4 : List Nat := []
  deriving DecidableEq, Repr

/-- A compressed copy in Reserve Memory or flash (R169, R182): its decompressed content, the bytes each
tile occupies and the method it is coded by, and the tiles marked poisoned (R183). -/
structure LowCopy where
  handle : Nat
  tier : Tier
  cells : List Host.Cell
  stored : List Nat
  methods : List Nat
  poisoned : List Nat
  step : Nat
  prod : Option (Nat × Nat)
  deriving DecidableEq, Repr

/-- One instance of an object on this module: a handle-table entry (R24) with its residency. `owner` is
the context of a `PER_CONTEXT` object and 4 for an object the contexts share; `prev` is the version of a coded
object that was in force at the last boundary and has been displaced since (R313). -/
structure ObjInst where
  handle : Nat
  owner : Nat
  tier : Tier
  hot : Option Version
  low : Option LowCopy
  prev : Option Version
  planned : Tier
  usage : Nat
  reads : Nat
  replica : Bool
  deriving DecidableEq, Repr

/-- Who holds an extent of HBM frames. -/
inductive Holder
  | object (handle owner : Nat)
  | staged (ctx queue : Nat)
  | pool (p : Nat)
  | ring (ctx : Nat)
  | coded (area : Nat)
  | move (handle owner : Nat)
  | staging (handle : Nat)
  | retained
  deriving DecidableEq, Repr

/-- A run of HBM frames in use with its protection class (R155): 0 CORRECT, 1 CHECK. -/
structure Extent where
  first : Nat
  count : Nat
  check : Nat
  holder : Holder
  deriving DecidableEq, Repr

/-- A background move of a plan (R178). `kind`: 0 promotion, 1 demotion, 2 replica copy; `done` once complete, with
the frames or the lower copy it has written; `got` lists the tiles that a promotion has already decompressed (R187). -/
structure Move where
  kind : Nat
  handle : Nat
  owner : Nat
  target : Tier
  madeAt : Nat
  late : Bool
  done : Bool
  frames : List Nat
  low : Option LowCopy
  got : List Nat
  deriving DecidableEq, Repr

/-- The primary copy of an expert homed on another module, as the rule that every member follows places it: as last planned,
and in force (R137, R177, R180). -/
structure FarCopy where
  handle : Nat
  planned : Tier
  tier : Tier
  deriving DecidableEq, Repr

/-- A placement plan waiting for its effect boundary (R177, R178): the planned tier of each instance on this module, the
replica grants as (handle, member), and the planned tiers of the experts homed on other modules (R180). -/
structure Plan where
  madeAt : Nat
  computed : Bool
  tiers : List (Nat × Nat × Tier)
  grants : List (Nat × Nat)
  far : List (Nat × Tier)
  deriving DecidableEq, Repr

/-- A fetch or staging into the staging area (R185, R186). `user`: 0 FETCH, 1 WAIT, 2 hint; `ring` holds what a
streamed fetch of a REMOTE copy brings through the ring. -/
structure Staging where
  number : Nat
  user : Nat
  ctx : Nat
  queue : Nat
  handle : Nat
  layer : Nat
  tiles : List Nat
  done : List Nat
  frames : List Nat
  streamed : Bool
  ring : List Host.Cell
  since : Nat
  deriving DecidableEq, Repr

/-- A memory error record (R165). -/
structure MemError where
  address : Nat
  tick : Nat
  step : Nat
  kind : Nat
  reader : Nat
  context : Nat
  symbol : Nat
  channel : Nat
  eventSeq : Nat
  deriving DecidableEq, Repr

/-- The channel side of a stack (R161 to R164): the CCLK its near tile has run since the last quiet slot, whether the next
slot refreshes, since when the stack is cool, its corrected code words by own tick. -/
structure Stack where
  sinceSlot : Nat
  parity : Bool
  coolSince : Option Nat
  ceHistory : List (Nat × Nat)
  deriving DecidableEq, Repr

/-! ### Running commands (ch. 2 to 7, 13, 14) -/

/-- Staged counts of a command (R53, R99, R124, R145): dictionary key and amount. -/
abbrev Counts := List (Nat × Nat)

/-- A queue entry as read from its ring (R27). -/
structure QEntry where
  command : Nat
  flags : Nat
  launch : Nat
  argument : Nat
  hostTag : Nat
  deriving DecidableEq, Repr

/-- Staged numerics counts: terms saturated at entry, values at exit, contributions at narrowing, vanished terms
and special operands (R53). -/
structure Sat where
  entry : Nat
  exit : Nat
  wire : Nat
  vanished : Nat
  special : Nat
  deriving DecidableEq, Repr

/-- An A128 accumulator with its sticky flags (R46). -/
structure Acc where
  sum : Int
  nan : Bool
  pinf : Bool
  ninf : Bool
  deriving DecidableEq, Repr

/-- A token of the routing domain: key, origin member, row there (R111, R112). -/
abbrev TokId := Nat × Nat × Nat

/-- One group of a served-expert range (R136): expert and its tokens. -/
structure ServedGroup where
  expert : Nat
  keys : List TokId
  deriving DecidableEq, Repr

/-- A segment still to replay: its index in the block, and the unit and the served group (with the place of its first
token among all served) of the replay it belongs to (R452). -/
structure Replay where
  seg : Segment
  index : Nat
  unit : Option Nat
  group : Option (ServedGroup × Nat)
  deriving DecidableEq, Repr

/-- A Vector Unit result on its way (R72): bytes of a staged version, or terms of a reduction. -/
inductive VecLand
  | bytes (handle off : Nat) (ws : Option Nat) (data : List Byte)
  | acc (k : Nat) (a : Acc)
  deriving DecidableEq, Repr

/-- What one Tile Sequencer has left to run and what its rows hold (R64, R73, R452). `cycles` counts the block's own
cycles and `waitCclk` those of its waits; `hold` lists the (stripe, group index) of the decodes its stream waits for, `holdSince` the own tick and Global
Counter of the hold (R160); `accs` are (row, index, lane, sum), `flight` adds the cycle at which a term lands (R66);
`own` are the own-operand registers in use by row and lane as (position, code, scale), `shadow` their second buffers;
`terms` counts the terms entered by (row, index) (R47); `vecFlight` are Vector Unit results with the cycle at which they can
be used, `outs` its outputs, newest first (R72); `streams` the near-stack requests made, as (number, cycle of the first data,
bytes per CCLK) (R75); `quietUntil` the cycles at which the last quiet marks of the two near stacks end (R161); `maskP` and
`maskN` the unit masks by token of the layer `maskLayer` (R94, R95); `pads` the delay taken at drain cycles, `issued` the pads taken at the last issue into (row, index)
(R78). -/
structure TileRun where
  tile : Nat
  assumed : List Nat
  todo : List Replay
  segIndex : Nat
  cycles : Nat
  waitCclk : Nat
  waiting : Option (WaitPoint × Nat × Nat)
  hold : List (Nat × Nat)
  holdSince : Nat × Nat
  stalled : Bool
  gated : Bool
  accs : List (Nat × Nat × Nat × Acc)
  flight : List (Nat × Nat × Nat × Nat × Acc)
  vecAccs : List (Nat × Acc)
  own : List (Nat × List (List (Nat × Nat × Nat)))
  shadow : List (Nat × List (List (Nat × Nat × Nat)))
  terms : List (Nat × Nat × Nat)
  vecFlight : List (Nat × VecLand)
  outs : List (Nat × List Nat)
  streams : List (Nat × Nat × Nat)
  quietUntil : Nat × Nat
  maskLayer : Option Nat
  maskP : List (List Nat)
  maskN : List (List Nat)
  pads : Nat
  issued : List (Nat × Nat × Nat)
  deriving DecidableEq, Repr

/-- The clock gating of a tile's Lane Rows, which outlives a block (R79, R81): the rows gated, and the module CCLK up to which
their gated cycles are counted (R82). -/
structure TileHw where
  gated : List Nat
  counted : Nat
  deriving DecidableEq, Repr

/-- A landed buffer (R133, R198): a BPM buffer with its landing-table entry; the owner tells its use (R192). `got` lists the pieces
landed as (first byte, bytes), and the landing is `complete` once they are all of its `bytes` (R200). A MERGE buffer has the
sending member as `origin` and as `expert` 0 for a list on its way up, 1 for one on its way down, 2 for the list merged here;
`relay` marks a row that has still to be forwarded over the tray (R131), `experts` the experts it serves here (log 37). -/
structure Buf where
  pool : Nat
  index : Nat
  owner : Nat
  refs : Nat
  complete : Bool
  layer : Nat
  origin : Nat
  key : Nat
  expert : Nat
  bytes : Nat
  got : List (Nat × Nat)
  bcast : Bool
  relay : Bool
  experts : List Nat
  tag : DelivTag
  deriving DecidableEq, Repr

/-- A landing that waits for a buffer (R135, R194): the pieces of it that have arrived, as (first byte, data). -/
structure PoolWait where
  pool : Nat
  owner : Nat
  port : Nat
  since : Nat
  buf : Buf
  pieces : List (Nat × List Byte)
  deriving DecidableEq, Repr

/-- A dispatch descriptor (R129). -/
structure Descriptor where
  key : Nat
  expert : Nat
  layer : Nat
  rank : Nat
  originRank : Nat
  weight : Nat
  row : Nat
  origin : Nat
  holder : Nat
  flags : Nat
  deriving DecidableEq, Repr

/-- A token of the routing domain as the Capacity Unit holds it (R117). -/
structure Token where
  row : Nat
  key : Nat
  origin : Nat
  cands : List Cand
  kept : List (Nat × Nat)
  overs : List Nat
  next : Nat
  skipped : Bool
  deriving DecidableEq, Repr

/-- Progress of an EXCHANGE (R128 to R141). `stage`: 0 merge, 1 ledger round, 2 extra count exchange, 3 landing,
4 held for a decode.
`adm` counts the choices admitted domain-wide per expert, `done` the acknowledged delivery pieces (piece, address
word), `vals` the scan values contributed, `serve` the serving copies (expert, member, replica, cold). -/
structure XchRun where
  rec_ : ExchRec
  stage : Nat
  round : Nat
  tokens : List Token
  requests : List (Nat × Nat × Nat)
  room : List Nat
  adm : List Nat
  expected : Nat
  done : List (Nat × Nat)
  vals : List ScanVal
  serve : List (Nat × Nat × Bool × Bool)
  deriving DecidableEq, Repr

/-- A received piece of a stage plan: stage, stroke, sending member, first element, elements (R276). -/
structure Piece where
  stage : Nat
  num : Nat
  src : Nat
  first : Nat
  elems : List Elem
  deriving DecidableEq, Repr

/-- Received scan values of a count exchange, from expert `first` on (R278). -/
structure ScanPiece where
  round : Nat
  num : Nat
  stage : Nat
  src : Nat
  first : Nat
  vals : List ScanVal
  deriving DecidableEq, Repr

/-- Progress of a crew command or of a helper run: instance and attempt, entry, what has been received
and sent (R269, R275, R277, R282); `acted` lists the (attempt, abort code) pairs already acted on (R280). -/
structure CrewRun where
  acted : List (Nat × Nat)
  crew : Nat
  inst : Nat
  attempt : Nat
  round : Nat
  sig : Nat
  entered : List (Nat × Nat)
  entrySince : Nat
  pieces : List Piece
  scans : List ScanPiece
  sent : List (Nat × Nat × Nat)
  contribution : List Elem
  progress : Nat
  stroke : Nat
  deriving DecidableEq, Repr

/-- An abort being settled (R280, R281). -/
structure AbortRun where
  code : Nat
  origin : Nat
  since : Nat
  decided : Bool
  deriving DecidableEq, Repr

/-- Progress of a COPY that has begun (R261): pieces not yet sent as (local offset, remote offset, bytes), or list
entries as (index, 0, 0), and whether one has been sent. -/
structure CopyRun where
  todo : List (Nat × Nat × Nat)
  sentAny : Bool
  deriving DecidableEq, Repr

/-- Phases of a run: waiting before issue, issued and running, at its commit point, killed and waiting
to be rerun, being repaired. -/
inductive Phase | waiting | running | atCommit | killed | repair
  deriving DecidableEq, Repr

/-- The entry at the head of a queue once it has been taken (R27 to R41, R300). `reached` and `waitSince` are the own
tick and the Global Counter at which it reached the head, `gateKeys` the keys of the token rows its gate work has met (R15), `bias` the
bias tables in force at its issue by handle (R125), `objs` the objects that its schedules and layer records made it read
(R176), `fetched` the objects whose WAIT fetch it has counted (R138), `waited` the waits already satisfied and recorded, `stall`
an in-flight bound it waits at (own tick, Global Counter, bound), `budgetFrom` the own tick from which its command budget counts
before it issues (R36, R444), `issuedAt` and `timer` the own tick of issue and the
budget ticks already used then, `commitSince` the own tick since which the checkpoint writer holds its commit (R339). -/
structure Run where
  entry : QEntry
  cmd : Command
  phase : Phase
  order : Nat
  reached : Nat
  waited : List Nat
  stall : Option (Nat × Nat × Nat)
  budgetFrom : Option Nat
  issuedAt : Nat
  timer : Nat
  blockCycles : Nat
  grace : Nat
  reruns : Nat
  staged : List (Nat × Version)
  gateKeys : List Nat
  bias : List (Nat × List Byte)
  objs : List Nat
  fetched : List Nat
  counts : Counts
  sat : Sat
  hard : Bool
  strict : Bool
  repairOf : Option (Nat × Nat × Nat)
  tiles : List TileRun
  served : List ServedGroup
  xch : Option XchRun
  crew : Option CrewRun
  abort : Option AbortRun
  copy : Option CopyRun
  waitSince : Nat
  commitSince : Option Nat
  deriving DecidableEq, Repr

/-- One command queue of a context (R27, R30). -/
structure Queue where
  tail : Nat
  next : Nat
  run : Option Run
  reached : Nat
  deriving DecidableEq, Repr

/-- A completion record waiting for ring space (R29). -/
structure Record where
  queue : Nat
  hostTag : Nat
  command : Nat
  status : Nat
  reruns : Nat
  deriving DecidableEq, Repr

/-- The commit kept for a later helper run: its contribution, or the scan values of its ledger rounds, and the newest
attempt it has been part of (R282), and the final codes raised since its commit (R280, R281). -/
structure Helped where
  crew : Nat
  inst : Nat
  attempt : Nat
  cmd : Command
  contribution : List Elem
  scans : List ScanVal
  run : Option CrewRun
  raised : List Nat
  frames : List Nat
  deriving DecidableEq, Repr

/-- Per-expert record of DEFER: layer, expert, last step that admitted it (R139). -/
abbrev LastAdmit := List (Nat × Nat × Nat)

/-- A mirror slot this member holds as partner, or the mirror being sent (R142). -/
structure Mirror where
  slot : Nat
  step : Nat
  layer : Nat
  valid : Bool
  deriving DecidableEq, Repr

/-- A context (R355) with what it holds on its own; `hints` lists (layer, token key, expert) of R123, `landed` the
deliveries already landed in full (tag, key, kind and expert; R143), `served` the experts' output rows by layer (R141),
`xchCounts` exchange counts that wait for the next commit of an EXCHANGE (R145), `mirrorPending` the mirror that waits (member,
layer, step, rows; R142), `exports` the segments in force (entry, offset
base, handle; R251), `begun` the layers
whose DISPATCH has begun in the step (R122), `ran` counts the steps it has run since it became resident. -/
structure Ctx where
  step : Nat
  ran : Nat
  counters : List (Nat × Nat)
  queues : Vector Queue 8
  preempting : Bool
  committing : Option Nat
  records : List Record
  issued : Nat
  teardown : Option Nat
  launchWarned : Bool
  pending : List Nat
  xeQueue : List Descriptor
  served : List (Nat × List ServedGroup)
  xchCounts : Counts
  lastAdmit : LastAdmit
  admitted : List (Nat × Nat × Nat)
  begun : List Nat
  hints : List (Nat × Nat × Nat)
  landed : List (DelivTag × Nat × Nat)
  helped : List Helped
  exports : List (Nat × Nat × Nat)
  mirrors : List Mirror
  mirrorPending : Option (Nat × Nat × Nat × List Byte)
  mirrorBusy : Bool
  mirrorNext : Nat
  quota : Nat
  deriving DecidableEq, Repr

/-! ### Ports, fabric and memory fabric (ch. 11 to 13) -/

/-- A tag a port is asked to carry or stops carrying (R218 to R221). -/
structure TagState where
  tag : Nat
  asked : Bool
  ingress : Bool
  egress : Bool
  handshake : Option Nat
  byRequest : Bool
  again : Bool
  deriving DecidableEq, Repr

/-- A packet in progress on a port's ingress (R208, R214): the ports its HEAD was forwarded on, the own tick until which its flits
arrive, and whether an ABORT has ended it. -/
structure InPacket where
  pk : Packet
  endsAt : Nat
  outs : List Nat
  discarding : Bool
  ended : Bool := false
  deriving DecidableEq, Repr

/-- A link control message waiting for its answer (R210). -/
structure AwaitMsg where
  msg : LinkMsg
  since : Nat
  deriving DecidableEq, Repr

/-- A Llynca port (R203 to R222) beyond its dictionary entries: training attempt and times, tags, the packet in progress,
credits at the next hop, ingress buffers in use and freed but not yet returned by (class, VC), `wanted` while training waits for the
end of the silence after a loss (R217), `resync` bit 0 while this
end waits for RESYNC_MARK and bit 1 while it waits for CREDIT_SET, messages awaiting answers, latency probes; `rr` the input each
class was served from last (R236), `sinceIdle` the flits sent since the last IDLE flit (R209). -/
structure Port where
  attempt : Nat
  rate : Nat
  otherMax : Nat
  started : Nat
  stateSince : Nat
  silentSince : Option Nat
  wanted : Bool
  skipped : Bool
  capsSeen : Option Caps
  tags : List TagState
  inPacket : Option InPacket
  credits : List Nat
  freed : List Nat
  used : List Nat
  resync : Nat
  await : List AwaitMsg
  probes : List Nat
  probeSeq : Nat
  lastProbe : Nat
  crcHistory : List Nat
  beacon : Option (Beacon × Nat)
  deficits : List Nat
  rr : List Nat
  sinceIdle : Nat
  deriving DecidableEq, Repr

/-- A packet waiting in the router for an output port (R233, R236), with the port and virtual channel it arrived on. Port 16 is
the NI. -/
structure Waiting where
  inPort : Nat
  inVc : Nat
  outPort : Nat
  pk : Packet
  flits : Nat
  deriving DecidableEq, Repr

/-- Why a transaction exists: the running command it belongs to, the engine, or the commit that sent a signal. -/
inductive TxnOwner
  | run (ctx queue : Nat)
  | response
  | exchange (ctx layer : Nat)
  | mirror (ctx : Nat)
  | coding
  | checkpoint
  | skipFor (a : Addr)
  | helper (ctx crew : Nat)
  | signal (ctx : Nat)
  deriving DecidableEq, Repr

/-- An NI transaction (R225, R242, R246): destinations not yet acknowledged with their stream numbers. -/
structure Txn where
  id : Nat
  ctx : Nat
  tc : Nat
  left : List (Addr × Nat)
  attempt : Nat
  sentAt : Nat
  owner : TxnOwner
  acked : Option (Nat × Addr)
  piece : Nat
  abandoned : Bool
  tree : Bool
  body : Body
  deriving DecidableEq, Repr

/-- Send or receive side of a stream: address, class, next number, acceptance bitmap (R240). -/
structure Stream where
  addr : Addr
  tc : Nat
  next : Nat
  bitmap : Nat
  deriving DecidableEq, Repr

/-- The fabric state of the module (R224 to R247). `noticed` lists the failed addresses marked by a MEMBER_LOST notice (R243),
`declared` the losses declared here with the own tick and the Global Counter of the declaration. `attach` is the port and own address of a module that joined as
a hot spare; `fails` lists transactions that ended as failed and whose owners have not yet been told: owner, code,
address, piece; `held` the requests that wait at this target for a decode: source, context, transaction, request
(R160); `unapplied` the sources and numbers of the requests accepted and not yet applied, oldest first (R256); `requesting` while handshakes asked for through `PARTITION_REQUEST` are in progress (R221); `kept` the exchange packets whose flits still hold their ingress buffers, with the port they came on (R135, R196). -/
structure Fabric where
  waiting : List Waiting
  kept : List (Nat × Packet)
  netIn : List Packet
  txns : List Txn
  nextTxn : Nat
  queued : List Txn
  sendStreams : List Stream
  recvStreams : List Stream
  ringState : List Nat
  failed : List Addr
  noticed : List Addr
  watch : List Addr
  heard : List (Addr × Nat)
  declared : List (Addr × Nat × Nat)
  seen : List (Nat × Addr × Nat)
  flowMode : Nat
  alloc : List Nat
  members : List Nat
  attach : Option (Nat × Addr)
  fails : List (TxnOwner × Nat × Addr × Nat)
  held : List (Addr × Nat × Nat × Body)
  unapplied : List (Addr × Nat)
  joinTimeouts : Bool
  requesting : Bool
  deriving DecidableEq, Repr

/-! ### Collectives beyond the runs (ch. 14) -/

/-- An ENTER held for a later instance or round (R275). -/
structure HeldEnter where
  crew : Nat
  round : Nat
  inst : Nat
  att : Nat
  src : Nat
  sig : Nat
  deriving DecidableEq, Repr

/-! ### Time (ch. 15) -/

/-- A time pair record (R296). -/
structure TimePair where
  ticks : Nat
  fraction : Nat
  kind : Nat
  flags : Nat
  seq : Nat
  hostTime : Nat
  deriving DecidableEq, Repr

/-- Clocks and the Global Counter (R290 to R300). `now` counts ticks of the module's own tick clock and
is never stepped (R300); `gcResidue` carries what the trim adds below one fraction unit. -/
structure Time where
  now : Nat
  gcRunning : Bool
  gcTicks : Nat
  gcFraction : Nat
  gcResidue : Int
  upstreamSince : Nat
  acquireFirst : Bool
  offsets : List Int
  lockRun : Nat
  stepped : Bool
  pairs : List TimePair
  lastPtm : Nat
  ramp : Option Nat
  ramped : List (Nat × Nat)
  deriving DecidableEq, Repr

/-! ### Coded state (ch. 16) -/

/-- A unit record (R312) with the versions it retains. `kept` gives, for each
retained version, the generation at whose boundary it was retained, its own generation and its content (R317). -/
structure UnitRec where
  unit : Nat
  parity : Bool
  generation : Nat
  retained : Nat
  mask : Nat
  lost : Bool
  preDelta : Bool
  kept : List (Nat × Nat × List Host.Cell)
  deriving DecidableEq, Repr

/-- A delta being gathered at a parity holder (R314). -/
structure Delta where
  stripe : Nat
  row : Nat
  slot : Nat
  gen : Nat
  total : Nat
  granules : List (Nat × List Byte)
  deriving DecidableEq, Repr

/-- A decode this module waits for (R160, R321, R330). `purpose`: 0 local hold, 1 rebuild of another's spare. -/
structure Decode where
  req : Nat
  stripe : Nat
  index : Nat
  purpose : Nat
  data : List Byte
  since : Nat
  deriving DecidableEq, Repr

/-- A DECODE_READ this module serves: the unit as read for it once it can be read, and the pieces of 4 KiB already sent
(R321, R336). -/
structure Supply where
  req : Nat
  stripe : Nat
  pos : Nat
  coeff : Nat
  next : Addr
  view : Nat
  index : Nat
  unit : Option (List Host.Cell)
  sent : Nat
  deriving DecidableEq, Repr

/-- Coded state of the module (R307 to R336). `doneFrom` lists (generation, group index) of GROUP_DONE held, `owed` the
deltas (2·stripe + row) whose holder failed, `early` the decode terms that arrived before their DECODE_READ (request,
stripe, chain position, data), `relay` the terms this module gathers for a spare attached to it (request, stripe, data). -/
structure Coded where
  owed : List Nat
  supplies : List Supply
  early : List (Nat × Nat × Nat × List Byte)
  relay : List (Nat × Nat × List Byte)
  started : Bool
  openSince : Nat
  doneFrom : List (Nat × Nat)
  ownDone : Bool
  units : List UnitRec
  staging : List Delta
  decodes : List Decode
  nextReq : Nat
  reports : List (Nat × Nat × Nat × Nat × Nat)
  reportAt : List (Nat × Nat)
  lossSince : List (Nat × Nat)
  used : List Addr
  takeovers : List (Nat × Addr × Nat)
  groupRanks : List Nat
  spares : List Addr
  layout : Nat
  parityBase : Nat
  counts : List (Nat × Nat)
  rebuiltAt : List Nat
  rebuilt : List (Nat × Nat)
  rebuildView : Nat
  deriving DecidableEq, Repr

/-! ### Checkpoints (ch. 17) -/

/-- A checkpoint being written (R343 to R346): `items` are the non-coded objects of the shard with the version each has in
HBM, `content` their content at the boundary, `toRead` what the writer has still to read as (handle, unit), and `units`
what it has read of coded state as (handle, unit, content). -/
structure CkptRun where
  target : Nat
  reason : Nat
  slot : Nat
  startTick : Nat
  startNow : Nat
  items : List (Nat × Nat × Version)
  content : List (Nat × List Host.Cell)
  toRead : List (Nat × Nat)
  units : List (Nat × Nat × List Host.Cell)
  parity : Bool
  rng : List Byte
  position : List Byte
  deriving DecidableEq, Repr

/-- A restore in progress (R350, R351). -/
structure RestoreRun where
  ceiling : Nat
  crew : CrewRun
  abort : Option AbortRun
  step : Option Nat
  refused : Bool
  got : List (Nat × Nat × List Byte)
  deriving DecidableEq, Repr

/-- Local Flash Store and checkpoint state (R338 to R353). `ewLast` is the own tick at which the early warning last acted,
`ewChecked` that of the last check, `ewClearSince` since when no condition has held; `seen` lists the requests acted on as
(origin, target, copy), `downloads` the slots whose download has begun. -/
structure Ckpt where
  pendingTargets : List (Nat × Nat)
  run : Option CkptRun
  xfer : Option (Nat × Nat × Nat × Nat × Nat)
  restore : Option RestoreRun
  seen : List (Nat × Nat × Nat)
  ewLast : Option Nat
  ewChecked : Nat
  ewClearSince : Option Nat
  sequence : Nat
  downloads : List Nat
  deriving DecidableEq, Repr

/-! ### The dictionary's access logic (ch. 19) -/

/-- An event record (R367). -/
structure Event where
  seq : Nat
  code : Nat
  severity : Nat
  context : Nat
  source : Nat
  tick : Nat
  step : Nat
  command : Nat
  entry : Nat
  value : Nat
  deriving DecidableEq, Repr

/-- A DXP piece copy (R395). -/
structure PieceCopy where
  key : Nat
  snapshot : List Byte
  data : List Byte
  next : Nat
  deriving DecidableEq, Repr

/-- A response as it left (R393, R394, R396): kind 0x02 OPEN_ACK or 0x20 RESPONSE, session, `seq` repeated, status, version
agreed and grant given of an OPEN_ACK, operation records. -/
structure Answer where
  kind : Nat
  session : Nat
  seq : Nat
  status : Nat
  version : Nat
  grant : Bool
  ops : List DxpOp
  deriving DecidableEq, Repr

/-- A DXP session (R396, R397): number, write grant, `seq` and answer of the last request accepted, the own tick of its last
datagram, its piece copy. -/
structure Session where
  number : Nat
  grant : Bool
  seq : Nat
  last : Option Answer
  idleSince : Nat
  piece : Option PieceCopy
  deriving DecidableEq, Repr

/-- The bulk aperture (R387). -/
structure Bulk where
  key : Nat
  snapshot : List Byte
  staging : List Byte
  deriving DecidableEq, Repr

/-- Access logic of the dictionary (R376 to R397). `cmt` lists CMT writes waiting for a boundary: key, value
still in force, governing context; `rwc` and `rwcBulk` list RWC entries written and not yet in force with
the value still in force; `crcRef` is the committed reference, `none` the CRC of the defaults. -/
structure Access where
  latch : Option (Nat × Nat)
  heldLow : Option (Nat × Nat)
  bulk : Option Bulk
  cmt : List (Nat × Nat × Nat)
  cmtBlob : Option (Nat × List Byte)
  rwc : List (Nat × Nat)
  rwcBulk : List (Nat × List Byte)
  crcRef : Option Nat
  crcArmed : Bool
  crcPassArmed : Bool
  staleSince : Option Nat
  excursion : Bool
  sessions : List Session
  deriving DecidableEq, Repr

/-! ### Start-up, power and outputs (ch. 20 to 22) -/

/-- A start log record (R423). -/
structure StartRec where
  start : Nat
  kind : Nat
  stage : Nat
  item : Nat
  fallback : Nat
  reason : Nat
  elapsed : Nat
  detail : Nat
  bundle : Nat
  deriving DecidableEq, Repr

/-- Start-up and boot flash (R414 to R424). `stage` is the stage in progress or waited for, `none` when no start runs, `stageSince`
the own tick at which it began, `began` that of auxiliary power; `fallback` holds the counts of ST3, ST4, ST6 and ST7, `named` the
ports the previous start's ST6 records name, `log` the start log records newest first, `wave` the BIST waves done, `bist` the
slices' signature, duration in µs and result; `abandoned` marks a start given up for loss of input, `againSince` the own tick since
which the rails are down before a start again. -/
structure Start where
  stage : Option Nat
  stageSince : Nat
  began : Nat
  fallback : List Nat
  fallbackReset : Bool
  named : List Nat
  log : List StartRec
  wave : Nat
  bist : List (Nat × Nat × Nat × Nat)
  abandoned : Bool
  againSince : Option Nat
  deriving DecidableEq, Repr

/-- Supplies, pins and thermal state (R408, R409, R433 to R444): the auxiliary input is present, the 50 V input in its range, `PERST#`
low; the slot straps as sampled; the cap written and not yet in force, the cap to return to after an emergency, the own tick since
which the cap in force stands; since when every sensor has been cool; the core rails; the nonces whose quotes are being signed; `drawn`
the own tick and the watts from which the draw can have risen only at the rate of R17. -/
structure Power where
  aux : Bool
  input : Bool
  perst : Bool
  straps : Nat
  capPending : Option Nat
  capBefore : Nat
  capSince : Nat
  coolSince : Option Nat
  railsOn : Bool
  quoteNonces : List (List Byte)
  drawn : Nat × Nat
  deriving DecidableEq, Repr

/-- What the module answers the host (R148, R290, R382, R438). -/
inductive HostOut
  | readData (addr : Nat) (data : List Byte) (poisoned : Bool)
  | unsupported (addr : Nat)
  | word (addr value : Nat)
  | msix (vector : Nat)
  | uploaded (hostAddr : Nat) (data : List Byte)
  deriving DecidableEq, Repr

/-- A packet sent on a port, with the credits its flits return: class·2 + VC and count (R207). -/
structure NetOut where
  port : Nat
  credits : List (Nat × Nat)
  pk : Packet
  deriving DecidableEq, Repr

/-- A LINK flit sent on a port, with the credits its header returns (R208, R210). -/
structure LinkOut where
  port : Nat
  credits : List (Nat × Nat)
  msg : LinkMsg
  deriving DecidableEq, Repr

/-- IDLE flits sent on a port, with the credits their headers return and the beacon they carry (R208, R209, R291). -/
structure IdleOut where
  port : Nat
  credits : List (Nat × Nat)
  beacon : Beacon
  deriving DecidableEq, Repr

/-- An ABORT flit sent on a port: the credits its header returns, and the tag, class and virtual channel of its packet (R207, R214). -/
structure AbortOut where
  port : Nat
  credits : List (Nat × Nat)
  tag : Nat
  tc : Nat
  vc : Nat
  deriving DecidableEq, Repr

/-- What has left the module: host completions, packets, link messages, IDLE flits, DXP answers, ABORT flits. -/
structure Outputs where
  host : List HostOut
  net : List NetOut
  link : List LinkOut
  idle : List IdleOut
  dxp : List (List Byte × Nat × Answer)
  aborts : List AbortOut
  deriving DecidableEq, Repr

/-- The memories (R146, R147, R155): module physical space, Reserve Memory, Local Flash Store; the frame
table; the code words holding the poison pattern; `upsets` the code words and units in error that no read has yet
reported uncorrectable, by address, with what their check finds (R156, R157, log 116), `writeHurt` a CHECK unit that a command's read-modify-write found in error
(R38); `far` the placement of experts on other modules (R137, R180); `reserveScrub` the next code word of the Reserve Memory's own scrubber (R164). -/
structure Mem where
  cells : List Host.Cell
  reserve : List Host.Cell
  flash : List Host.Cell
  extents : List Extent
  poison : List Nat
  upsets : List (Nat × Finding)
  writeHurt : Option Nat
  objects : List ObjInst
  moves : List Move
  plans : List Plan
  far : List FarCopy
  grants : List (Nat × Nat)
  stagings : List Staging
  nextStaging : Nat
  freeze : Bool
  errors : List MemError
  chan : Vector Stack 8
  scrub : List (Nat × Nat)
  scrubStart : Nat
  scrubFix : List Nat
  reserveScrub : Nat
  reserveCe : List (Nat × Nat)
  imageUnusable : Bool
  deriving DecidableEq, Repr

/-- The buffer pools (R189 to R199). -/
structure Pools where
  bufs : List Buf
  waits : List PoolWait
  disarmed : List Nat
  sizes : List Nat
  counts : List Nat
  deriving DecidableEq, Repr

/-- The machine's state. -/
structure State where
  /-- Dictionary entries that differ from their default: key = index·256 + sub, value (R372). -/
  regs : List (Nat × Nat)
  /-- Bytes of STR, BLOB and TABLE entries that differ from their default: key·2^20 + offset (R373). -/
  bulk : List Host.Cell
  /-- Memories, frames, objects and channels. -/
  mem : Mem
  /-- The loaded image (R20). -/
  image : Option Image
  /-- The blocks of the image placed in the image buffer, as its BLOCKS section spells them (R19). -/
  bufBlocks : List Block
  /-- The code of the load or unload attempt in progress, not yet reported (R21, log 71). -/
  loading : Option Nat
  /-- The contexts C0 to C3 (R355). -/
  ctxs : Vector Ctx 4
  /-- Lane Row gating of the compute tiles CT0 to CT3. -/
  tiles : Vector TileHw 4
  /-- Buffer pools. -/
  pools : Pools
  /-- Llynca ports L0 to L15. -/
  ports : Vector Port 16
  /-- Fabric Router and NI. -/
  fab : Fabric
  /-- Held ENTERs (R275). -/
  heldEnters : List HeldEnter
  /-- Clocks and counters. -/
  time : Time
  /-- Coded state. -/
  coded : Coded
  /-- Checkpoints. -/
  ckpt : Ckpt
  /-- Event log records held in the ring, newest first (R367). -/
  events : List Event
  /-- Newest sequence number that set each pending bit: mask (0–3 contexts, 4 module), bit, sequence (R365). -/
  faultSeq : List (Nat × Nat × Nat)
  /-- Dictionary access logic. -/
  acc : Access
  /-- Start-up and boot flash. -/
  start : Start
  /-- Supplies, pins, thermal state. -/
  power : Power
  /-- What has left the module. -/
  out : Outputs
  /-- The model's own counter of free values drawn (Config.freeValue); no state of the spec. -/
  freeCount : Nat
  /-- The commands that wait, first in, first out. -/
  pending : List Instr
  deriving DecidableEq, Repr

/-! ### Stops -/

/-- Faults. -/
inductive Fault
  /-- OVERVOLTAGE with a voltage above an absolute maximum rating of R446: the spec lists the rating as the
  stress beyond which the module may be damaged and gives a damaged module no behaviour. Safe: the model stops. -/
  | ratingsExceeded
  deriving DecidableEq, Repr

/-- Refusals. -/
inductive Refusal
  /-- A row of the table without a meaning in this model, by its mnemonic; raised by `exec` alone. Safe. -/
  | notModelled (mnemonic : String)
  deriving DecidableEq, Repr

/-! ### Reset -/

def Queue.reset : Queue := { tail := 0, next := 0, run := none, reached := 0 }

def Ctx.reset : Ctx :=
  { step := 0, ran := 0, counters := [], queues := Vector.replicate 8 Queue.reset, preempting := false, committing := none,
    records := [], issued := 0, teardown := none, launchWarned := false,
    pending := [], xeQueue := [], served := [], xchCounts := [], lastAdmit := [], admitted := [], begun := [], hints := [], landed := [], helped := [],
    exports := [], mirrors := [], mirrorPending := none, mirrorBusy := false, mirrorNext := 0,
    quota := 0 }

def Port.reset : Port :=
  { attempt := 0, rate := 0, otherMax := 0, started := 0, stateSince := 0, silentSince := none, wanted := false, skipped := false,
    capsSeen := none, tags := [], inPacket := none, credits := [], freed := [], used := [], resync := 0, await := [],
    probes := [], probeSeq := 0, lastProbe := 0, crcHistory := [], beacon := none, deficits := [], rr := [], sinceIdle := 0 }

def Stack.reset : Stack := { sinceSlot := 0, parity := false, coolSince := none, ceHistory := [] }

def Mem.reset : Mem :=
  { cells := [], reserve := [], flash := [], extents := [], poison := [], upsets := [], writeHurt := none, objects := [], moves := [], plans := [], far := [], grants := [], stagings := [], nextStaging := 0, freeze := false, errors := [],
    chan := Vector.replicate 8 Stack.reset, scrub := [], scrubStart := 0, scrubFix := [], reserveScrub := 0,
    reserveCe := [], imageUnusable := false }

def Fabric.reset : Fabric :=
  { waiting := [], kept := [], netIn := [], txns := [], nextTxn := 0, queued := [], sendStreams := [], recvStreams := [],
    ringState := [0, 0, 0, 0], failed := [], noticed := [], watch := [], heard := [], declared := [], seen := [], flowMode := 0,
    alloc := [32, 16, 136, 40, 136, 40, 136, 40, 152, 40, 0, 0, 0, 0, 0, 0], members := [], attach := none, fails := [], held := [],
    unapplied := [], joinTimeouts := false, requesting := false }

def Time.reset : Time :=
  { now := 0, gcRunning := false, gcTicks := 0, gcFraction := 0, gcResidue := 0, upstreamSince := 0,
    acquireFirst := false, offsets := [], lockRun := 0, stepped := false, pairs := [], lastPtm := 0, ramp := none,
    ramped := [] }

def Coded.reset : Coded :=
  { owed := [], supplies := [], early := [], relay := [],
    started := false, openSince := 0, doneFrom := [], ownDone := false, units := [], staging := [],
    decodes := [], nextReq := 0, reports := [], reportAt := [], lossSince := [], used := [], takeovers := [],
    groupRanks := [], spares := [], layout := 0, parityBase := 0, counts := [], rebuiltAt := [], rebuilt := [],
    rebuildView := 0 }

def Ckpt.reset : Ckpt :=
  { pendingTargets := [], run := none, xfer := none, restore := none, seen := [], ewLast := none,
    ewChecked := 0, ewClearSince := none, sequence := 0, downloads := [] }

def Access.reset : Access :=
  { latch := none, heldLow := none, bulk := none, cmt := [], cmtBlob := none, rwc := [], rwcBulk := [],
    crcRef := none, crcArmed := false, crcPassArmed := false, staleSince := none, excursion := false,
    sessions := [] }

def Start.reset : Start :=
  { stage := some 0, stageSince := 0, began := 0, fallback := [0, 0, 0, 0], fallbackReset := false, named := [],
    log := [⟨1, 7, 0, 0xFF, 0xFF, 0, 0, 0, 0⟩], wave := 0, bist := [], abandoned := false, againSince := none }

def Power.reset : Power :=
  { aux := true, input := false, perst := true, straps := 0, capPending := none, capBefore := 1800,
    capSince := 0, coolSince := none, railsOn := false, quoteNonces := [], drawn := (0, 0) }

/-- The module right after `MC_RST#` rises for the first time: auxiliary power present, start-up stage ST0 in progress, the start
counted and its BEGUN record written (R423), every other dictionary entry at its default, every memory at what nothing has
written. -/
def State.reset : State :=
  { regs := [(0xA000 * 256 + 4, 1), (0xA020 * 256 + 2, 1)], bulk := [], mem := Mem.reset, image := none, bufBlocks := [], loading := none,
    ctxs := Vector.replicate 4 Ctx.reset, tiles := Vector.replicate 4 { gated := [], counted := 0 },
    pools := { bufs := [], waits := [], disarmed := [], sizes := [], counts := [] },
    ports := Vector.replicate 16 Port.reset, fab := Fabric.reset, heldEnters := [], time := Time.reset,
    coded := Coded.reset, ckpt := Ckpt.reset, events := [], faultSeq := [], acc := Access.reset,
    start := Start.reset, power := Power.reset,
    out := { host := [], net := [], link := [], idle := [], dxp := [], aborts := [] }, freeCount := 0, pending := [] }

end Sys2Proof.Machine
end

