-- ==== Sys2Proof/Config.lean ====
section
/-! DEFINITION. What an implementation fixes and the spec leaves open: the FREE VALUES of the model.
Each is opaque with no body, so nothing in Lean can evaluate it; each is named in a log entry under
notes/assumptions. Values fused at manufacture are free values too (R403 "fused"). -/
namespace Sys2Proof.Config

/-- The value of a counter after it would pass its width: the spec gives U32 and U64 counters no rule
for that (log 7). Arguments: entry key, the value before, the increment. -/
opaque counterOverflow : Nat → Nat → Nat → Nat

/-- Vector Unit and Capacity Unit functions: which value within the 2-unit bound of R60 an operand receives is not published
(log 8). Arguments: function code, operand bits. -/
opaque vectorFn : Nat → Nat → Nat

/-- The ECDSA P-384 signature r ‖ s over a 48-byte digest, 96 bytes (R426; log 10). Arguments: how many
quotes this module has signed, the digest. -/
opaque ecdsaSign : Nat → List Byte → List Byte

/-- The loop of R293: filtered offset in ps from the offsets since acquisition, newest first (log 11). -/
opaque loopFilter : List Int → Int

/-- The loop of R293: rate trim in ppb from the offsets since acquisition, newest first (log 11). -/
opaque loopTrim : List Int → Int

/-- The value of a fused or loaded STR or BLOB entry, by entry key and byte offset (R403; log 12). -/
opaque fusedByte : Nat → Nat → Byte

/-- The value of a fused or loaded scalar entry, by entry key (R403; log 12). -/
opaque fusedScalar : Nat → Nat

/-- The unit map: for Lane Row `row` of all 128, how many dot lanes are fused off and which (R76, R77; log 12), taken
within the bounds of R77 where it is used. Arguments: row, which number. -/
opaque fusedUnit : Nat → Nat → Nat

/-- Bytes occupied by a compressed tile, and its payload, where the Tile Codec's coding is not given
(R182; log 13). Arguments: coding method, decompressed bytes. -/
opaque codecPayload : Nat → List Byte → List Byte

/-- The bytes delivered with a poisoned completion, which the spec leaves open (R160; log 15). Argument: a counter of the
state, moved on by the bytes' index. -/
opaque poisonedByte : Nat → Byte

/-- The byte string a placement digest is taken over (R180; log 26): the spec names what it covers and not its layout.
Arguments: replica grants as (handle, member), residencies as (handle, state code). -/
opaque planEncoding : List (Nat × Nat) → List (Nat × Nat) → List Byte

/-- The value in ps a latency probe would give before any was taken (R213; log 16). -/
opaque latencyUnknown : Nat → Nat

/-- The parity bytes of a code word of the link: the spec gives RS(132,128) over GF(2^8) and no generator (R207; log 131). Arguments:
the 128 flit bytes, which of the four. -/
opaque rsParity : List Byte → Nat → Byte

/-- Service codes and service fields that no chapter lays out, of exchange deliveries and of placement and look-ahead messages (R228;
log 132). Arguments: which message, the values it carries, which byte, 0 for the code and 1 to 16 for the fields. -/
opaque packetField : Nat → List Nat → Nat → Byte

/-- Any other value the spec states no result for; the first argument names the place (a log entry),
the second is the counter `freeCount` of the state (log 17). -/
opaque freeValue : Nat → Nat → Nat

end Sys2Proof.Config
end

