-- ==== Sys2Proof/Machine/Dict.lean ====
section
/-! DEFINITION. The Object Dictionary (R372, R373, R401 to R406): the entry tables of every chapter as data
(index span, sub-index span, type, size in bytes, access right, default, accepted range), the key of each
entry, and lookup. A key is index·256 + sub-index. -/
namespace Sys2Proof.Machine

/-- Entry types (R373). -/
inductive DictType | u8 | u16 | u32 | u64 | i32 | str | blob | table
  deriving DecidableEq, Repr

/-- Access rights (R374). -/
inductive DictAccess | ro | rw | wo | rwc | cmt
  deriving DecidableEq, Repr

/-- Defaults (R403): a value (for bulk types the byte of every position), a value fused at manufacture
(loaded values and values kept in boot flash start at zero, log 18), or a value given by a table of its chapter. -/
inductive DictDefault | val (v : Nat) | fused | table
  deriving DecidableEq, Repr

/-- One row of an entry table (R402). -/
structure DictEntry where
  indexLo : Nat
  indexHi : Nat
  subLo : Nat
  subHi : Nat
  type : DictType
  bytes : Nat
  access : DictAccess
  dflt : DictDefault
  lo : Nat
  hi : Nat
  deriving DecidableEq, Repr

/-! ### Entry tables by index range (R404) -/

def dictArea1_0 : List DictEntry := [
  ⟨0x1000, 0x1000, 0x01, 0x01, .str, 16, .ro, .fused, 0, 0⟩,
  ⟨0x1000, 0x1000, 0x02, 0x02, .str, 4, .ro, .fused, 0, 0⟩,
  ⟨0x1000, 0x1000, 0x03, 0x03, .str, 16, .ro, .fused, 0, 0⟩,
  ⟨0x1002, 0x1002, 0x01, 0x01, .u16, 2, .ro, .val 512, 0, 65535⟩,
  ⟨0x1002, 0x1002, 0x02, 0x02, .u16, 2, .ro, .val 256, 0, 65535⟩,
  ⟨0x1002, 0x1002, 0x03, 0x03, .u16, 2, .ro, .val 768, 0, 65535⟩,
  ⟨0x1002, 0x1002, 0x04, 0x04, .u8, 1, .ro, .val 2, 0, 255⟩,
  ⟨0x1010, 0x1010, 0x01, 0x01, .u8, 1, .rw, .val 0, 0, 1⟩,
  ⟨0x1010, 0x1010, 0x02, 0x02, .u8, 1, .ro, .val 1, 0, 255⟩,
  ⟨0x1010, 0x1010, 0x03, 0x03, .u8, 1, .ro, .val 1, 0, 255⟩,
  ⟨0x1010, 0x1010, 0x04, 0x04, .u8, 1, .ro, .val 2, 0, 255⟩,
  ⟨0x1030, 0x1030, 0x01, 0x01, .blob, 6, .ro, .fused, 0, 0⟩,
  ⟨0x1030, 0x1030, 0x02, 0x02, .blob, 16, .rw, .val 0, 0, 0⟩,
  ⟨0x1030, 0x1030, 0x03, 0x03, .u8, 1, .rw, .val 64, 1, 128⟩,
  ⟨0x1030, 0x1030, 0x04, 0x04, .u8, 1, .rw, .val 0, 0, 1⟩,
  ⟨0x1030, 0x1030, 0x05, 0x05, .u32, 4, .rw, .val 0, 0, 4294967295⟩,
  ⟨0x1030, 0x1030, 0x06, 0x06, .u16, 2, .ro, .val 20610, 0, 65535⟩,
  ⟨0x1030, 0x1030, 0x07, 0x07, .table, 136, .rw, .val 0, 0, 0⟩,
  ⟨0x1030, 0x1030, 0x08, 0x08, .u8, 1, .ro, .val 0, 0, 255⟩,
  ⟨0x1030, 0x1030, 0x09, 0x09, .u16, 2, .rw, .val 30, 1, 3600⟩,
  ⟨0x1030, 0x1030, 0x0A, 0x0A, .u32, 4, .ro, .val 0, 0, 4294967295⟩,
  ⟨0x1F00, 0x1F00, 0x01, 0x01, .u32, 4, .rw, .table, 0, 4294967295⟩,
  ⟨0x1F00, 0x1F00, 0x02, 0x02, .u32, 4, .ro, .val 0, 0, 4294967295⟩,
  ⟨0x1F00, 0x1F00, 0x03, 0x03, .u8, 1, .ro, .val 1, 0, 255⟩]

def dictArea1_1 : List DictEntry := [
  ⟨0x1F00, 0x1F00, 0x04, 0x04, .u16, 2, .rw, .val 1000, 10, 60000⟩,
  ⟨0x1F00, 0x1F00, 0x05, 0x05, .u16, 2, .ro, .val 0, 0, 65535⟩,
  ⟨0x1F10, 0x1F10, 0x01, 0x01, .u8, 1, .ro, .val 1, 0, 255⟩,
  ⟨0x1F10, 0x1F10, 0x02, 0x02, .u8, 1, .wo, .val 0, 1, 2⟩,
  ⟨0x1F10, 0x1F10, 0x03, 0x03, .u8, 1, .ro, .val 0, 0, 255⟩,
  ⟨0x1F10, 0x1F10, 0x04, 0x04, .u8, 1, .ro, .val 0, 0, 255⟩,
  ⟨0x1F10, 0x1F10, 0x05, 0x05, .u32, 4, .ro, .val 0, 0, 4294967295⟩,
  ⟨0x1F10, 0x1F10, 0x06, 0x06, .u32, 4, .ro, .val 0, 0, 4294967295⟩,
  ⟨0x1F20, 0x1F20, 0x01, 0x01, .u32, 4, .rw, .val 0, 0, 4294967295⟩,
  ⟨0x1F20, 0x1F20, 0x02, 0x02, .u8, 1, .wo, .val 0, 1, 1⟩,
  ⟨0x1F20, 0x1F20, 0x03, 0x03, .u8, 1, .ro, .val 0, 0, 255⟩,
  ⟨0x1004, 0x1004, 0x01, 0x01, .u32, 4, .ro, .val 0, 0, 4294967295⟩,
  ⟨0x1004, 0x1004, 0x02, 0x02, .u32, 4, .ro, .val 0, 0, 4294967295⟩,
  ⟨0x1004, 0x1004, 0x03, 0x03, .u32, 4, .ro, .val 0, 0, 4294967295⟩,
  ⟨0x1004, 0x1004, 0x04, 0x04, .u32, 4, .ro, .val 0, 0, 4294967295⟩,
  ⟨0x1100, 0x1100, 0x01, 0x01, .blob, 48, .ro, .val 0, 0, 0⟩,
  ⟨0x1100, 0x1100, 0x02, 0x02, .blob, 48, .ro, .val 0, 0, 0⟩,
  ⟨0x1100, 0x1100, 0x03, 0x03, .blob, 48, .ro, .val 0, 0, 0⟩,
  ⟨0x1100, 0x1100, 0x04, 0x04, .blob, 48, .ro, .val 0, 0, 0⟩,
  ⟨0x1100, 0x1100, 0x05, 0x05, .blob, 48, .ro, .val 0, 0, 0⟩,
  ⟨0x1110, 0x1110, 0x01, 0x01, .blob, 97, .ro, .fused, 0, 0⟩,
  ⟨0x1110, 0x1110, 0x02, 0x02, .blob, 2048, .ro, .fused, 0, 0⟩,
  ⟨0x1110, 0x1110, 0x03, 0x03, .blob, 32, .rw, .val 0, 0, 0⟩,
  ⟨0x1110, 0x1110, 0x04, 0x04, .blob, 512, .ro, .val 0, 0, 0⟩]

def dictArea1_2 : List DictEntry := [
  ⟨0x1110, 0x1110, 0x05, 0x05, .u32, 4, .ro, .val 0, 0, 4294967295⟩]

/-- Entries of indices 0x1000 to 0x1FFF. -/
def dictArea1 : List DictEntry := dictArea1_0 ++ dictArea1_1 ++ dictArea1_2

def dictArea2_0 : List DictEntry := [
  ⟨0x2000, 0x2000, 0x01, 0x01, .u8, 1, .ro, .val 0, 0, 255⟩,
  ⟨0x2010, 0x2010, 0x01, 0x01, .u64, 8, .ro, .val 0, 0, 18446744073709551615⟩,
  ⟨0x2010, 0x2010, 0x02, 0x02, .u16, 2, .ro, .val 0, 0, 65535⟩,
  ⟨0x2010, 0x2010, 0x03, 0x03, .u8, 1, .ro, .val 0, 0, 255⟩,
  ⟨0x2010, 0x2010, 0x04, 0x04, .u8, 1, .rwc, .val 255, 0, 255⟩,
  ⟨0x2010, 0x2010, 0x05, 0x05, .u32, 4, .ro, .val 4294967295, 0, 4294967295⟩,
  ⟨0x2010, 0x2010, 0x06, 0x06, .u8, 1, .ro, .val 255, 0, 255⟩,
  ⟨0x2010, 0x2010, 0x07, 0x07, .u8, 1, .ro, .val 255, 0, 255⟩,
  ⟨0x2010, 0x2010, 0x08, 0x08, .i32, 4, .ro, .val 0, 0, 4294967295⟩,
  ⟨0x2010, 0x2010, 0x09, 0x09, .i32, 4, .ro, .val 0, 0, 4294967295⟩,
  ⟨0x2010, 0x2010, 0x0A, 0x0A, .u16, 2, .rwc, .val 100, 10, 10000⟩,
  ⟨0x2010, 0x2010, 0x0B, 0x0B, .u32, 4, .ro, .val 0, 0, 4294967295⟩,
  ⟨0x2010, 0x2010, 0x0C, 0x0C, .u32, 4, .ro, .val 0, 0, 4294967295⟩,
  ⟨0x2020, 0x2020, 0x01, 0x01, .u64, 8, .wo, .val 0, 0, 18446744073709551615⟩,
  ⟨0x2020, 0x2020, 0x02, 0x02, .table, 512, .ro, .table, 0, 0⟩,
  ⟨0x2020, 0x2020, 0x03, 0x03, .u32, 4, .ro, .val 0, 0, 4294967295⟩,
  ⟨0x2020, 0x2020, 0x04, 0x04, .u8, 1, .rwc, .val 1, 0, 1⟩,
  ⟨0x2020, 0x2020, 0x05, 0x05, .u16, 2, .rwc, .val 10, 1, 60000⟩,
  ⟨0x2030, 0x2030, 0x01, 0x01, .u32, 4, .rwc, .val 100000, 0, 1000000⟩,
  ⟨0x2030, 0x2030, 0x02, 0x02, .u16, 2, .rwc, .val 1350, 0, 1800⟩,
  ⟨0x2030, 0x2030, 0x03, 0x03, .u32, 4, .ro, .val 0, 0, 4294967295⟩,
  ⟨0x2100, 0x2100, 0x01, 0x01, .u16, 2, .ro, .val 0, 0, 65535⟩,
  ⟨0x2100, 0x2100, 0x02, 0x02, .u16, 2, .ro, .val 0, 0, 65535⟩,
  ⟨0x2100, 0x2100, 0x03, 0x03, .u16, 2, .ro, .val 0, 0, 65535⟩]

def dictArea2_1 : List DictEntry := [
  ⟨0x2100, 0x2100, 0x04, 0x04, .u16, 2, .rw, .val 1800, 600, 1800⟩,
  ⟨0x2100, 0x2100, 0x05, 0x05, .u16, 2, .ro, .val 1800, 0, 65535⟩,
  ⟨0x2100, 0x2100, 0x06, 0x06, .u64, 8, .ro, .val 0, 0, 18446744073709551615⟩,
  ⟨0x2100, 0x2100, 0x07, 0x07, .u64, 8, .ro, .val 0, 0, 18446744073709551615⟩,
  ⟨0x2200, 0x2200, 0x01, 0x01, .table, 64, .ro, .val 0, 0, 0⟩,
  ⟨0x2200, 0x2200, 0x02, 0x02, .table, 128, .ro, .fused, 0, 0⟩,
  ⟨0x2200, 0x2200, 0x03, 0x03, .i32, 4, .ro, .val 0, 0, 4294967295⟩,
  ⟨0x2200, 0x2200, 0x04, 0x04, .u8, 1, .ro, .val 0, 0, 255⟩,
  ⟨0x2200, 0x2200, 0x05, 0x05, .u32, 4, .ro, .val 0, 0, 4294967295⟩,
  ⟨0x2200, 0x2200, 0x06, 0x06, .u64, 8, .ro, .val 0, 0, 18446744073709551615⟩]

/-- Entries of indices 0x2000 to 0x2FFF. -/
def dictArea2 : List DictEntry := dictArea2_0 ++ dictArea2_1

def dictArea3_0 : List DictEntry := [
  ⟨0x3000, 0x3000, 0x01, 0x01, .u64, 8, .ro, .val 103079215104, 0, 18446744073709551615⟩,
  ⟨0x3000, 0x3000, 0x02, 0x02, .u16, 2, .ro, .val 9600, 0, 65535⟩,
  ⟨0x3000, 0x3000, 0x03, 0x03, .u8, 1, .ro, .val 0, 0, 255⟩,
  ⟨0x3000, 0x3000, 0x04, 0x04, .u8, 1, .rw, .val 0, 0, 15⟩,
  ⟨0x3000, 0x3000, 0x05, 0x05, .u32, 4, .ro, .val 0, 0, 4294967295⟩,
  ⟨0x3000, 0x3000, 0x06, 0x06, .u32, 4, .ro, .val 0, 0, 4294967295⟩,
  ⟨0x3010, 0x3010, 0x01, 0x01, .u16, 2, .ro, .val 1560, 0, 65535⟩,
  ⟨0x3010, 0x3010, 0x02, 0x02, .u8, 1, .ro, .val 32, 0, 255⟩,
  ⟨0x3010, 0x3010, 0x03, 0x03, .u8, 1, .ro, .val 0, 0, 255⟩,
  ⟨0x3010, 0x3010, 0x04, 0x04, .u32, 4, .ro, .val 0, 0, 4294967295⟩,
  ⟨0x3020, 0x3020, 0x01, 0x01, .u8, 1, .rwc, .val 1, 0, 1⟩,
  ⟨0x3020, 0x3020, 0x02, 0x02, .u32, 4, .ro, .val 0, 0, 4294967295⟩,
  ⟨0x3020, 0x3020, 0x03, 0x03, .u32, 4, .ro, .val 0, 0, 4294967295⟩,
  ⟨0x3030, 0x3037, 0x01, 0x01, .u64, 8, .ro, .val 0, 0, 18446744073709551615⟩,
  ⟨0x3030, 0x3037, 0x02, 0x02, .u32, 4, .ro, .val 0, 0, 4294967295⟩,
  ⟨0x3030, 0x3037, 0x03, 0x03, .u32, 4, .ro, .val 0, 0, 4294967295⟩,
  ⟨0x3030, 0x3037, 0x04, 0x04, .u32, 4, .ro, .val 0, 0, 4294967295⟩,
  ⟨0x3030, 0x3037, 0x05, 0x05, .u32, 4, .ro, .val 0, 0, 4294967295⟩,
  ⟨0x3030, 0x3037, 0x06, 0x06, .u32, 4, .ro, .val 0, 0, 4294967295⟩,
  ⟨0x3030, 0x3037, 0x07, 0x07, .u64, 8, .ro, .val 0, 0, 18446744073709551615⟩,
  ⟨0x3038, 0x3038, 0x01, 0x01, .u64, 8, .ro, .val 0, 0, 18446744073709551615⟩,
  ⟨0x3038, 0x3038, 0x02, 0x02, .u32, 4, .ro, .val 0, 0, 4294967295⟩,
  ⟨0x3038, 0x3038, 0x03, 0x03, .u32, 4, .ro, .val 0, 0, 4294967295⟩,
  ⟨0x3040, 0x3040, 0x01, 0x01, .table, 2048, .ro, .table, 0, 0⟩]

def dictArea3_1 : List DictEntry := [
  ⟨0x3040, 0x3040, 0x02, 0x02, .u32, 4, .ro, .val 0, 0, 4294967295⟩,
  ⟨0x3100, 0x3100, 0x01, 0x01, .u8, 1, .rwc, .val 0, 0, 3⟩,
  ⟨0x3100, 0x3100, 0x02, 0x02, .u8, 1, .rwc, .val 2, 1, 16⟩,
  ⟨0x3100, 0x3100, 0x03, 0x03, .u8, 1, .rwc, .val 4, 1, 12⟩,
  ⟨0x3100, 0x3100, 0x04, 0x04, .u32, 4, .rwc, .val 4096, 0, 4294967295⟩,
  ⟨0x3100, 0x3100, 0x05, 0x05, .u16, 2, .rwc, .val 64, 1, 4096⟩,
  ⟨0x3100, 0x3100, 0x06, 0x06, .u32, 4, .rwc, .val 16384, 0, 4294967295⟩,
  ⟨0x3100, 0x3100, 0x07, 0x07, .u8, 1, .cmt, .val 0, 0, 1⟩,
  ⟨0x3110, 0x3110, 0x01, 0x01, .u64, 8, .ro, .val 807453851648, 0, 18446744073709551615⟩,
  ⟨0x3110, 0x3110, 0x02, 0x02, .u64, 8, .ro, .val 2199023255552, 0, 18446744073709551615⟩,
  ⟨0x3110, 0x3110, 0x03, 0x03, .u64, 8, .ro, .val 0, 0, 18446744073709551615⟩,
  ⟨0x3110, 0x3110, 0x04, 0x04, .u64, 8, .rwc, .val 0, 0, 18446744073709551615⟩,
  ⟨0x3110, 0x3110, 0x05, 0x05, .u64, 8, .rwc, .val 8589934592, 0, 18446744073709551615⟩,
  ⟨0x3110, 0x3110, 0x06, 0x06, .u64, 8, .rwc, .val 4294967296, 67108864, 18446744073709551615⟩,
  ⟨0x3120, 0x3120, 0x01, 0x01, .u64, 8, .ro, .val 0, 0, 18446744073709551615⟩,
  ⟨0x3120, 0x3120, 0x02, 0x02, .u64, 8, .ro, .val 0, 0, 18446744073709551615⟩,
  ⟨0x3120, 0x3120, 0x03, 0x03, .u64, 8, .ro, .val 0, 0, 18446744073709551615⟩,
  ⟨0x3120, 0x3120, 0x04, 0x04, .u64, 8, .ro, .val 0, 0, 18446744073709551615⟩,
  ⟨0x3120, 0x3120, 0x05, 0x05, .u64, 8, .ro, .val 0, 0, 18446744073709551615⟩,
  ⟨0x3120, 0x3120, 0x06, 0x06, .u32, 4, .ro, .val 0, 0, 4294967295⟩,
  ⟨0x3120, 0x3120, 0x07, 0x07, .u32, 4, .ro, .val 0, 0, 4294967295⟩,
  ⟨0x3120, 0x3120, 0x08, 0x08, .u32, 4, .ro, .val 0, 0, 4294967295⟩,
  ⟨0x3120, 0x3120, 0x09, 0x09, .u64, 8, .ro, .val 0, 0, 18446744073709551615⟩,
  ⟨0x3120, 0x3120, 0x0A, 0x0A, .u64, 8, .ro, .val 0, 0, 18446744073709551615⟩]

def dictArea3_2 : List DictEntry := [
  ⟨0x3120, 0x3120, 0x0B, 0x0B, .u32, 4, .ro, .val 0, 0, 4294967295⟩,
  ⟨0x3120, 0x3120, 0x0C, 0x0C, .u32, 4, .ro, .val 0, 0, 4294967295⟩,
  ⟨0x3120, 0x3120, 0x0D, 0x0D, .u32, 4, .ro, .val 0, 0, 4294967295⟩,
  ⟨0x3200, 0x3200, 0x01, 0x01, .u64, 8, .ro, .val 0, 0, 18446744073709551615⟩,
  ⟨0x3200, 0x3200, 0x02, 0x02, .u64, 8, .ro, .val 0, 0, 18446744073709551615⟩,
  ⟨0x3200, 0x3200, 0x03, 0x03, .u64, 8, .ro, .val 0, 0, 18446744073709551615⟩,
  ⟨0x3200, 0x3200, 0x04, 0x04, .u32, 4, .ro, .val 0, 0, 4294967295⟩,
  ⟨0x3200, 0x3200, 0x05, 0x05, .u32, 4, .ro, .val 0, 0, 4294967295⟩]

/-- Entries of indices 0x3000 to 0x3FFF. -/
def dictArea3 : List DictEntry := dictArea3_0 ++ dictArea3_1 ++ dictArea3_2

def dictArea4_0 : List DictEntry := [
  ⟨0x4020, 0x4020, 0x01, 0x01, .u8, 1, .rwc, .val 1, 0, 1⟩,
  ⟨0x4020, 0x4020, 0x02, 0x02, .u8, 1, .rwc, .val 0, 0, 1⟩,
  ⟨0x4030, 0x4033, 0x01, 0x01, .u64, 8, .rwc, .val 0, 0, 18446744073709551615⟩,
  ⟨0x4030, 0x4033, 0x02, 0x02, .u32, 4, .ro, .val 0, 0, 4294967295⟩,
  ⟨0x4030, 0x4033, 0x03, 0x03, .u64, 8, .ro, .val 0, 0, 18446744073709551615⟩,
  ⟨0x4030, 0x4033, 0x04, 0x04, .u64, 8, .ro, .val 0, 0, 18446744073709551615⟩,
  ⟨0x4030, 0x4033, 0x05, 0x05, .u64, 8, .ro, .val 0, 0, 18446744073709551615⟩,
  ⟨0x4030, 0x4033, 0x06, 0x06, .u64, 8, .ro, .val 0, 0, 18446744073709551615⟩,
  ⟨0x4030, 0x4033, 0x07, 0x07, .u64, 8, .ro, .val 0, 0, 18446744073709551615⟩,
  ⟨0x4038, 0x4038, 0x01, 0x01, .u32, 4, .ro, .val 0, 0, 4294967295⟩,
  ⟨0x4038, 0x4038, 0x02, 0x02, .u32, 4, .ro, .val 0, 0, 4294967295⟩,
  ⟨0x4010, 0x4010, 0x01, 0x01, .blob, 256, .ro, .fused, 0, 0⟩,
  ⟨0x4010, 0x4010, 0x02, 0x02, .u64, 8, .ro, .fused, 0, 18446744073709551615⟩,
  ⟨0x4010, 0x4010, 0x03, 0x03, .u16, 2, .ro, .fused, 0, 65535⟩,
  ⟨0x4040, 0x4040, 0x01, 0x01, .u8, 1, .rwc, .val 1, 0, 1⟩,
  ⟨0x4040, 0x4040, 0x02, 0x02, .u16, 2, .rwc, .val 64, 16, 4096⟩,
  ⟨0x4050, 0x4053, 0x01, 0x01, .u64, 8, .ro, .val 0, 0, 18446744073709551615⟩,
  ⟨0x4050, 0x4053, 0x02, 0x02, .u64, 8, .ro, .val 0, 0, 18446744073709551615⟩,
  ⟨0x4050, 0x4053, 0x03, 0x03, .u64, 8, .ro, .val 0, 0, 18446744073709551615⟩,
  ⟨0x4050, 0x4053, 0x04, 0x04, .u64, 8, .ro, .val 0, 0, 18446744073709551615⟩,
  ⟨0x4050, 0x4053, 0x05, 0x05, .u32, 4, .ro, .val 0, 0, 4294967295⟩,
  ⟨0x4050, 0x4053, 0x06, 0x06, .u32, 4, .ro, .val 0, 0, 4294967295⟩,
  ⟨0x4050, 0x4053, 0x07, 0x07, .u64, 8, .ro, .val 0, 0, 18446744073709551615⟩,
  ⟨0x4060, 0x4063, 0x01, 0x01, .u64, 8, .ro, .val 0, 0, 18446744073709551615⟩]

def dictArea4_1 : List DictEntry := [
  ⟨0x4060, 0x4063, 0x02, 0x02, .u64, 8, .ro, .val 0, 0, 18446744073709551615⟩]

/-- Entries of indices 0x4000 to 0x4FFF. -/
def dictArea4 : List DictEntry := dictArea4_0 ++ dictArea4_1

def dictArea5_0 : List DictEntry := [
  ⟨0x5400, 0x5403, 0x01, 0x01, .u64, 8, .ro, .val 0, 0, 18446744073709551615⟩,
  ⟨0x5400, 0x5403, 0x02, 0x02, .u64, 8, .ro, .val 0, 0, 18446744073709551615⟩,
  ⟨0x5400, 0x5403, 0x03, 0x03, .u64, 8, .ro, .val 0, 0, 18446744073709551615⟩,
  ⟨0x5400, 0x5403, 0x04, 0x04, .u64, 8, .ro, .val 0, 0, 18446744073709551615⟩,
  ⟨0x5400, 0x5403, 0x05, 0x05, .u64, 8, .ro, .val 0, 0, 18446744073709551615⟩,
  ⟨0x5410, 0x5410, 0x01, 0x01, .u8, 1, .rwc, .val 0, 0, 1⟩,
  ⟨0x5000, 0x5000, 0x01, 0x01, .u16, 2, .ro, .val 0, 0, 65535⟩,
  ⟨0x5000, 0x5000, 0x02, 0x02, .u32, 4, .ro, .val 75497472, 0, 4294967295⟩,
  ⟨0x5000, 0x5000, 0x03, 0x03, .u32, 4, .ro, .val 0, 0, 4294967295⟩,
  ⟨0x5010, 0x5010, 0x01, 0x01, .u16, 2, .rwc, .val 4096, 0, 65535⟩,
  ⟨0x5010, 0x5010, 0x02, 0x02, .u8, 1, .rwc, .val 1, 0, 1⟩,
  ⟨0x5100, 0x52FF, 0x01, 0x01, .u8, 1, .ro, .val 0, 0, 255⟩,
  ⟨0x5300, 0x5303, 0x01, 0x01, .u64, 8, .ro, .val 0, 0, 18446744073709551615⟩,
  ⟨0x5300, 0x5303, 0x02, 0x02, .u64, 8, .ro, .val 0, 0, 18446744073709551615⟩,
  ⟨0x5300, 0x5303, 0x03, 0x03, .u64, 8, .ro, .val 0, 0, 18446744073709551615⟩,
  ⟨0x5300, 0x5303, 0x04, 0x04, .u64, 8, .ro, .val 0, 0, 18446744073709551615⟩,
  ⟨0x5300, 0x5303, 0x05, 0x05, .u64, 8, .ro, .val 0, 0, 18446744073709551615⟩,
  ⟨0x5300, 0x5303, 0x06, 0x06, .u64, 8, .ro, .val 0, 0, 18446744073709551615⟩,
  ⟨0x5300, 0x5303, 0x07, 0x07, .u64, 8, .ro, .val 0, 0, 18446744073709551615⟩,
  ⟨0x5300, 0x5303, 0x08, 0x08, .u64, 8, .ro, .val 0, 0, 18446744073709551615⟩,
  ⟨0x5300, 0x5303, 0x09, 0x09, .u32, 4, .ro, .val 0, 0, 4294967295⟩,
  ⟨0x5300, 0x5303, 0x0A, 0x0A, .u32, 4, .ro, .val 0, 0, 4294967295⟩,
  ⟨0x5300, 0x5303, 0x0B, 0x0B, .u64, 8, .ro, .val 0, 0, 18446744073709551615⟩,
  ⟨0x5300, 0x5303, 0x0C, 0x0C, .u64, 8, .ro, .val 0, 0, 18446744073709551615⟩]

def dictArea5_1 : List DictEntry := [
  ⟨0x5500, 0x5503, 0x01, 0x01, .u64, 8, .ro, .val 0, 0, 18446744073709551615⟩,
  ⟨0x5500, 0x5503, 0x02, 0x02, .u64, 8, .ro, .val 0, 0, 18446744073709551615⟩,
  ⟨0x5500, 0x5503, 0x03, 0x03, .u64, 8, .ro, .val 0, 0, 18446744073709551615⟩,
  ⟨0x5500, 0x5503, 0x04, 0x04, .u64, 8, .ro, .val 0, 0, 18446744073709551615⟩,
  ⟨0x5500, 0x5503, 0x05, 0x05, .u64, 8, .ro, .val 0, 0, 18446744073709551615⟩,
  ⟨0x5500, 0x5503, 0x06, 0x06, .u32, 4, .ro, .val 0, 0, 4294967295⟩,
  ⟨0x5500, 0x5503, 0x07, 0x07, .u64, 8, .ro, .val 0, 0, 18446744073709551615⟩,
  ⟨0x5500, 0x5503, 0x08, 0x08, .u32, 4, .ro, .val 0, 0, 4294967295⟩,
  ⟨0x5500, 0x5503, 0x09, 0x09, .u64, 8, .ro, .val 0, 0, 18446744073709551615⟩,
  ⟨0x5500, 0x5503, 0x0A, 0x0A, .u64, 8, .ro, .val 0, 0, 18446744073709551615⟩]

/-- Entries of indices 0x5000 to 0x5FFF. -/
def dictArea5 : List DictEntry := dictArea5_0 ++ dictArea5_1

def dictArea6_0 : List DictEntry := [
  ⟨0x6000, 0x6000, 0x01, 0x01, .u16, 2, .rwc, .table, 0, 65535⟩,
  ⟨0x6000, 0x6000, 0x02, 0x02, .u8, 1, .rwc, .val 16, 1, 16⟩,
  ⟨0x6000, 0x6000, 0x03, 0x03, .u8, 1, .rwc, .val 32, 1, 32⟩,
  ⟨0x6000, 0x6000, 0x04, 0x04, .u8, 1, .rwc, .val 16, 1, 16⟩,
  ⟨0x6010, 0x6010, 0x01, 0x01, .u16, 2, .ro, .val 0, 0, 65535⟩,
  ⟨0x6010, 0x6010, 0x02, 0x02, .u16, 2, .wo, .val 0, 0, 65535⟩,
  ⟨0x6010, 0x6010, 0x03, 0x03, .u16, 2, .rw, .val 0, 0, 65535⟩,
  ⟨0x6010, 0x6010, 0x04, 0x04, .u8, 1, .ro, .val 0, 0, 255⟩,
  ⟨0x6100, 0x610F, 0x01, 0x01, .u8, 1, .rwc, .table, 0, 255⟩,
  ⟨0x6100, 0x610F, 0x02, 0x02, .u8, 1, .rw, .val 1, 0, 1⟩,
  ⟨0x6100, 0x610F, 0x03, 0x03, .u16, 2, .rwc, .val 256, 0, 65535⟩,
  ⟨0x6100, 0x610F, 0x04, 0x04, .u16, 2, .ro, .val 0, 0, 65535⟩,
  ⟨0x6100, 0x610F, 0x05, 0x05, .u8, 1, .ro, .val 0, 0, 255⟩,
  ⟨0x6100, 0x610F, 0x06, 0x06, .u8, 1, .ro, .val 0, 0, 255⟩,
  ⟨0x6100, 0x610F, 0x07, 0x07, .u16, 2, .ro, .val 0, 0, 65535⟩,
  ⟨0x6100, 0x610F, 0x08, 0x08, .u16, 2, .ro, .val 0, 0, 65535⟩,
  ⟨0x6100, 0x610F, 0x09, 0x09, .u32, 4, .ro, .val 4294967295, 0, 4294967295⟩,
  ⟨0x6100, 0x610F, 0x0A, 0x0A, .u32, 4, .ro, .val 0, 0, 4294967295⟩,
  ⟨0x6100, 0x610F, 0x0B, 0x0B, .u8, 1, .rwc, .val 1, 0, 1⟩,
  ⟨0x6100, 0x610F, 0x0C, 0x0C, .table, 16, .rw, .val 0, 0, 0⟩,
  ⟨0x6100, 0x610F, 0x0D, 0x0D, .table, 36, .ro, .val 0, 0, 0⟩,
  ⟨0x6100, 0x610F, 0x0E, 0x0E, .u8, 1, .rw, .val 1, 0, 1⟩,
  ⟨0x6100, 0x610F, 0x0F, 0x0F, .u16, 2, .rw, .val 16, 1, 1024⟩,
  ⟨0x6100, 0x610F, 0x10, 0x10, .u64, 8, .ro, .val 0, 0, 18446744073709551615⟩]

def dictArea6_1 : List DictEntry := [
  ⟨0x6100, 0x610F, 0x11, 0x11, .u64, 8, .ro, .val 0, 0, 18446744073709551615⟩,
  ⟨0x6100, 0x610F, 0x12, 0x12, .u64, 8, .ro, .val 0, 0, 18446744073709551615⟩,
  ⟨0x6100, 0x610F, 0x13, 0x13, .u64, 8, .ro, .val 0, 0, 18446744073709551615⟩,
  ⟨0x6100, 0x610F, 0x14, 0x14, .u32, 4, .ro, .val 0, 0, 4294967295⟩,
  ⟨0x6100, 0x610F, 0x15, 0x15, .u32, 4, .ro, .val 0, 0, 4294967295⟩,
  ⟨0x6100, 0x610F, 0x16, 0x16, .u32, 4, .ro, .val 0, 0, 4294967295⟩,
  ⟨0x6100, 0x610F, 0x17, 0x17, .u32, 4, .ro, .val 0, 0, 4294967295⟩,
  ⟨0x6100, 0x610F, 0x18, 0x18, .u32, 4, .ro, .val 0, 0, 4294967295⟩,
  ⟨0x6100, 0x610F, 0x19, 0x19, .u32, 4, .ro, .val 0, 0, 4294967295⟩,
  ⟨0x6100, 0x610F, 0x1A, 0x1A, .u32, 4, .ro, .val 0, 0, 4294967295⟩,
  ⟨0x6100, 0x610F, 0x1B, 0x1B, .u32, 4, .ro, .val 0, 0, 4294967295⟩,
  ⟨0x6200, 0x6200, 0x01, 0x01, .u8, 1, .rw, .val 0, 0, 1⟩,
  ⟨0x6200, 0x6200, 0x02, 0x02, .table, 16, .rw, .table, 0, 0⟩,
  ⟨0x6200, 0x6200, 0x03, 0x03, .table, 4, .rw, .table, 0, 0⟩,
  ⟨0x6200, 0x6200, 0x04, 0x04, .table, 16, .ro, .val 0, 0, 0⟩,
  ⟨0x6200, 0x6200, 0x05, 0x05, .u64, 8, .ro, .val 0, 0, 18446744073709551615⟩,
  ⟨0x6200, 0x6200, 0x06, 0x06, .u64, 8, .ro, .val 0, 0, 18446744073709551615⟩,
  ⟨0x6200, 0x6200, 0x07, 0x07, .u32, 4, .ro, .val 0, 0, 4294967295⟩,
  ⟨0x6200, 0x6200, 0x08, 0x08, .u32, 4, .ro, .val 0, 0, 4294967295⟩,
  ⟨0x6200, 0x6200, 0x09, 0x09, .u32, 4, .ro, .val 0, 0, 4294967295⟩,
  ⟨0x6300, 0x6300, 0x01, 0x01, .table, 262144, .rw, .val 0, 0, 0⟩,
  ⟨0x6300, 0x6300, 0x02, 0x02, .u64, 8, .wo, .val 0, 0, 18446744073709551615⟩,
  ⟨0x6300, 0x6300, 0x03, 0x03, .blob, 8192, .rw, .val 0, 0, 0⟩,
  ⟨0x6400, 0x6400, 0x01, 0x01, .u16, 2, .ro, .val 300, 0, 65535⟩]

def dictArea6_2 : List DictEntry := [
  ⟨0x6400, 0x6400, 0x02, 0x02, .u8, 1, .ro, .val 2, 0, 255⟩,
  ⟨0x6400, 0x6400, 0x03, 0x03, .u16, 2, .ro, .val 0, 0, 65535⟩,
  ⟨0x6400, 0x6400, 0x04, 0x04, .u64, 8, .ro, .val 0, 0, 18446744073709551615⟩,
  ⟨0x6400, 0x6400, 0x05, 0x05, .u64, 8, .ro, .val 0, 0, 18446744073709551615⟩,
  ⟨0x6400, 0x6400, 0x06, 0x06, .u32, 4, .ro, .val 0, 0, 4294967295⟩,
  ⟨0x6400, 0x6400, 0x07, 0x07, .u64, 8, .ro, .val 0, 0, 18446744073709551615⟩,
  ⟨0x6400, 0x6400, 0x08, 0x08, .u64, 8, .ro, .val 0, 0, 18446744073709551615⟩,
  ⟨0x6400, 0x6400, 0x09, 0x09, .u32, 4, .ro, .val 0, 0, 4294967295⟩,
  ⟨0x6400, 0x6400, 0x0A, 0x0A, .table, 1024, .ro, .table, 0, 0⟩,
  ⟨0x6400, 0x6400, 0x0B, 0x0B, .u32, 4, .wo, .val 0, 0, 4294967295⟩,
  ⟨0x6410, 0x6410, 0x01, 0x01, .u16, 2, .ro, .val 400, 0, 65535⟩,
  ⟨0x6410, 0x6410, 0x02, 0x02, .u8, 1, .ro, .val 3, 0, 255⟩,
  ⟨0x6410, 0x6410, 0x03, 0x03, .table, 64, .ro, .table, 0, 0⟩,
  ⟨0x6410, 0x6410, 0x04, 0x04, .u32, 4, .ro, .val 0, 0, 4294967295⟩,
  ⟨0x6500, 0x6503, 0x01, 0x01, .table, 1536, .rwc, .val 0, 0, 0⟩,
  ⟨0x6510, 0x6513, 0x01, 0x01, .table, 512, .rwc, .val 0, 0, 0⟩,
  ⟨0x6510, 0x6513, 0x02, 0x02, .table, 32, .ro, .val 0, 0, 0⟩,
  ⟨0x6520, 0x6520, 0x01, 0x01, .u16, 2, .ro, .val 1200, 0, 65535⟩,
  ⟨0x6520, 0x6520, 0x02, 0x02, .u32, 4, .ro, .val 0, 0, 4294967295⟩,
  ⟨0x6520, 0x6520, 0x03, 0x03, .u32, 4, .ro, .val 0, 0, 4294967295⟩,
  ⟨0x6520, 0x6520, 0x04, 0x04, .u32, 4, .ro, .val 0, 0, 4294967295⟩,
  ⟨0x6520, 0x6520, 0x05, 0x05, .u32, 4, .ro, .val 0, 0, 4294967295⟩,
  ⟨0x6520, 0x6520, 0x06, 0x06, .u32, 4, .ro, .val 0, 0, 4294967295⟩,
  ⟨0x6520, 0x6520, 0x07, 0x07, .u32, 4, .ro, .val 0, 0, 4294967295⟩]

def dictArea6_3 : List DictEntry := [
  ⟨0x6520, 0x6520, 0x08, 0x08, .u32, 4, .ro, .val 0, 0, 4294967295⟩,
  ⟨0x6520, 0x6520, 0x09, 0x09, .u64, 8, .ro, .val 0, 0, 18446744073709551615⟩,
  ⟨0x6520, 0x6520, 0x0A, 0x0A, .u64, 8, .ro, .val 0, 0, 18446744073709551615⟩]

/-- Entries of indices 0x6000 to 0x6FFF. -/
def dictArea6 : List DictEntry := dictArea6_0 ++ dictArea6_1 ++ dictArea6_2 ++ dictArea6_3

def dictArea7_0 : List DictEntry := [
  ⟨0x7000, 0x7000, 0x01, 0x01, .u16, 2, .rwc, .val 2000, 1200, 65535⟩,
  ⟨0x7000, 0x7000, 0x02, 0x02, .u16, 2, .rwc, .val 600, 200, 4000⟩,
  ⟨0x7000, 0x7000, 0x03, 0x03, .u32, 4, .rwc, .val 65536, 0, 4294967295⟩,
  ⟨0x7000, 0x7000, 0x04, 0x04, .u32, 4, .rwc, .val 4294967295, 0, 4294967295⟩,
  ⟨0x7000, 0x7000, 0x05, 0x05, .u16, 2, .ro, .val 0, 0, 65535⟩,
  ⟨0x7000, 0x7000, 0x06, 0x06, .u8, 1, .ro, .val 0, 0, 255⟩,
  ⟨0x7000, 0x7000, 0x07, 0x07, .u32, 4, .ro, .val 0, 0, 4294967295⟩,
  ⟨0x7000, 0x7000, 0x08, 0x08, .u64, 8, .ro, .val 0, 0, 18446744073709551615⟩,
  ⟨0x7010, 0x7013, 0x01, 0x01, .u64, 8, .ro, .val 0, 0, 18446744073709551615⟩,
  ⟨0x7010, 0x7013, 0x02, 0x02, .u64, 8, .ro, .val 0, 0, 18446744073709551615⟩,
  ⟨0x7010, 0x7013, 0x03, 0x03, .u32, 4, .ro, .val 0, 0, 4294967295⟩,
  ⟨0x7010, 0x7013, 0x04, 0x04, .u32, 4, .ro, .val 0, 0, 4294967295⟩,
  ⟨0x7010, 0x7013, 0x05, 0x05, .u32, 4, .ro, .val 0, 0, 4294967295⟩,
  ⟨0x7010, 0x7013, 0x06, 0x06, .u64, 8, .ro, .val 0, 0, 18446744073709551615⟩,
  ⟨0x7010, 0x7013, 0x07, 0x07, .u64, 8, .ro, .val 0, 0, 18446744073709551615⟩,
  ⟨0x7100, 0x74FF, 0x01, 0x01, .u32, 4, .ro, .val 4294967295, 0, 4294967295⟩,
  ⟨0x7100, 0x74FF, 0x02, 0x02, .u32, 4, .ro, .val 0, 0, 4294967295⟩]

/-- Entries of indices 0x7000 to 0x7FFF. -/
def dictArea7 : List DictEntry := dictArea7_0

def dictArea8_0 : List DictEntry := [
  ⟨0x8000, 0x8000, 0x01, 0x01, .u8, 1, .rwc, .val 0, 0, 1⟩,
  ⟨0x8000, 0x8000, 0x02, 0x02, .table, 16, .rwc, .table, 0, 0⟩,
  ⟨0x8000, 0x8000, 0x03, 0x03, .u8, 1, .ro, .val 255, 0, 255⟩,
  ⟨0x8000, 0x8000, 0x04, 0x04, .table, 16, .rwc, .table, 0, 0⟩,
  ⟨0x8000, 0x8000, 0x05, 0x05, .u8, 1, .rwc, .val 0, 0, 1⟩,
  ⟨0x8000, 0x8000, 0x06, 0x06, .u8, 1, .rwc, .val 0, 0, 3⟩,
  ⟨0x8000, 0x8000, 0x07, 0x07, .u8, 1, .rwc, .val 1, 1, 2⟩,
  ⟨0x8000, 0x8000, 0x08, 0x08, .u16, 2, .rwc, .val 2000, 0, 65535⟩,
  ⟨0x8000, 0x8000, 0x09, 0x09, .u32, 4, .rwc, .val 100000000, 0, 4294967295⟩,
  ⟨0x8000, 0x8000, 0x0A, 0x0A, .u16, 2, .rwc, .val 1200, 200, 10000⟩,
  ⟨0x8010, 0x8010, 0x01, 0x01, .u8, 1, .ro, .val 0, 0, 255⟩,
  ⟨0x8010, 0x8010, 0x02, 0x02, .u32, 4, .ro, .val 4294967295, 0, 4294967295⟩,
  ⟨0x8010, 0x8010, 0x03, 0x03, .u32, 4, .ro, .val 4294967295, 0, 4294967295⟩,
  ⟨0x8010, 0x8010, 0x04, 0x04, .u8, 1, .ro, .val 0, 0, 255⟩,
  ⟨0x8010, 0x8010, 0x05, 0x05, .u8, 1, .ro, .val 255, 0, 255⟩,
  ⟨0x8010, 0x8010, 0x06, 0x06, .u32, 4, .ro, .val 0, 0, 4294967295⟩,
  ⟨0x8010, 0x8010, 0x07, 0x07, .u32, 4, .ro, .val 0, 0, 4294967295⟩,
  ⟨0x8010, 0x8010, 0x08, 0x08, .u32, 4, .ro, .val 0, 0, 4294967295⟩,
  ⟨0x8010, 0x8010, 0x09, 0x09, .u32, 4, .ro, .val 4294967295, 0, 4294967295⟩,
  ⟨0x8020, 0x8020, 0x01, 0x01, .u32, 4, .wo, .val 0, 0, 4294967295⟩,
  ⟨0x8020, 0x8020, 0x02, 0x02, .u8, 1, .ro, .val 0, 0, 255⟩,
  ⟨0x8030, 0x8030, 0x01, 0x01, .u64, 8, .ro, .val 0, 0, 18446744073709551615⟩,
  ⟨0x8030, 0x8030, 0x02, 0x02, .u64, 8, .ro, .val 0, 0, 18446744073709551615⟩,
  ⟨0x8030, 0x8030, 0x03, 0x03, .u64, 8, .ro, .val 0, 0, 18446744073709551615⟩]

def dictArea8_1 : List DictEntry := [
  ⟨0x8030, 0x8030, 0x04, 0x04, .u64, 8, .ro, .val 0, 0, 18446744073709551615⟩,
  ⟨0x8030, 0x8030, 0x05, 0x05, .u64, 8, .ro, .val 0, 0, 18446744073709551615⟩,
  ⟨0x8030, 0x8030, 0x06, 0x06, .u64, 8, .ro, .val 0, 0, 18446744073709551615⟩,
  ⟨0x8030, 0x8030, 0x07, 0x07, .u64, 8, .ro, .val 0, 0, 18446744073709551615⟩,
  ⟨0x8030, 0x8030, 0x08, 0x08, .u32, 4, .ro, .val 0, 0, 4294967295⟩,
  ⟨0x8030, 0x8030, 0x09, 0x09, .u32, 4, .ro, .val 0, 0, 4294967295⟩,
  ⟨0x8030, 0x8030, 0x0A, 0x0A, .u32, 4, .ro, .val 0, 0, 4294967295⟩,
  ⟨0x8030, 0x8030, 0x0B, 0x0B, .u64, 8, .ro, .val 0, 0, 18446744073709551615⟩,
  ⟨0x8100, 0x8100, 0x01, 0x01, .u8, 1, .rw, .val 0, 0, 1⟩,
  ⟨0x8100, 0x8100, 0x02, 0x02, .u8, 1, .rwc, .val 0, 0, 3⟩,
  ⟨0x8100, 0x8100, 0x03, 0x03, .u8, 1, .wo, .val 0, 1, 1⟩,
  ⟨0x8100, 0x8100, 0x04, 0x04, .u8, 1, .wo, .val 0, 1, 1⟩,
  ⟨0x8100, 0x8100, 0x05, 0x05, .u16, 2, .rwc, .val 4, 1, 1024⟩,
  ⟨0x8100, 0x8100, 0x06, 0x06, .u16, 2, .rwc, .val 16, 1, 65535⟩,
  ⟨0x8100, 0x8100, 0x07, 0x07, .u8, 1, .rwc, .val 1, 0, 1⟩,
  ⟨0x8100, 0x8100, 0x08, 0x08, .blob, 64, .cmt, .val 0, 0, 0⟩,
  ⟨0x8110, 0x8110, 0x01, 0x01, .u8, 1, .rw, .val 1, 0, 1⟩,
  ⟨0x8110, 0x8110, 0x02, 0x02, .u32, 4, .rw, .val 2000, 0, 4294967295⟩,
  ⟨0x8110, 0x8110, 0x03, 0x03, .u32, 4, .rw, .val 600, 0, 4294967295⟩,
  ⟨0x8110, 0x8110, 0x04, 0x04, .u8, 1, .rw, .val 5, 0, 255⟩,
  ⟨0x8110, 0x8110, 0x05, 0x05, .u32, 4, .rw, .val 900, 0, 4294967295⟩,
  ⟨0x8110, 0x8110, 0x06, 0x06, .u8, 1, .ro, .val 0, 0, 255⟩,
  ⟨0x8120, 0x8120, 0x01, 0x01, .u32, 4, .rwc, .val 0, 0, 4294967295⟩,
  ⟨0x8120, 0x8120, 0x02, 0x02, .u32, 4, .rwc, .val 1, 1, 65536⟩]

def dictArea8_2 : List DictEntry := [
  ⟨0x8120, 0x8120, 0x03, 0x03, .u16, 2, .rwc, .val 0, 0, 65535⟩,
  ⟨0x8120, 0x8120, 0x04, 0x04, .u16, 2, .rwc, .val 0, 0, 65535⟩,
  ⟨0x8120, 0x8120, 0x05, 0x05, .u16, 2, .rwc, .val 0, 0, 65535⟩,
  ⟨0x8120, 0x8120, 0x06, 0x06, .u64, 8, .rwc, .val 858993459200, 0, 18446744073709551615⟩,
  ⟨0x8130, 0x8130, 0x01, 0x01, .u8, 1, .ro, .val 0, 0, 255⟩,
  ⟨0x8130, 0x8130, 0x02, 0x02, .table, 32, .ro, .table, 0, 0⟩,
  ⟨0x8130, 0x8130, 0x03, 0x03, .table, 8, .ro, .table, 0, 0⟩,
  ⟨0x8130, 0x8130, 0x04, 0x04, .u8, 1, .ro, .val 0, 0, 255⟩,
  ⟨0x8130, 0x8130, 0x05, 0x05, .u64, 8, .ro, .val 0, 0, 18446744073709551615⟩,
  ⟨0x8130, 0x8130, 0x06, 0x06, .u32, 4, .ro, .val 0, 0, 4294967295⟩,
  ⟨0x8130, 0x8130, 0x07, 0x07, .u32, 4, .ro, .val 0, 0, 4294967295⟩,
  ⟨0x8130, 0x8130, 0x08, 0x08, .u64, 8, .ro, .val 0, 0, 18446744073709551615⟩,
  ⟨0x8140, 0x8140, 0x01, 0x01, .blob, 32, .wo, .table, 0, 0⟩,
  ⟨0x8140, 0x8140, 0x02, 0x02, .u8, 1, .ro, .val 0, 0, 255⟩,
  ⟨0x8140, 0x8140, 0x03, 0x03, .u64, 8, .ro, .val 0, 0, 18446744073709551615⟩,
  ⟨0x8150, 0x8150, 0x01, 0x01, .u32, 4, .wo, .val 0, 0, 4294967295⟩,
  ⟨0x8150, 0x8150, 0x02, 0x02, .u8, 1, .ro, .val 0, 0, 255⟩,
  ⟨0x8150, 0x8150, 0x03, 0x03, .u32, 4, .ro, .val 4294967295, 0, 4294967295⟩,
  ⟨0x8150, 0x8150, 0x04, 0x04, .blob, 64, .ro, .val 0, 0, 0⟩,
  ⟨0x8150, 0x8150, 0x05, 0x05, .u32, 4, .ro, .val 0, 0, 4294967295⟩,
  ⟨0x8200, 0x8200, 0x01, 0x01, .u8, 1, .ro, .val 0, 0, 255⟩,
  ⟨0x8200, 0x8200, 0x02, 0x02, .u32, 4, .ro, .val 0, 0, 4294967295⟩,
  ⟨0x8200, 0x8200, 0x03, 0x03, .u8, 1, .ro, .val 0, 0, 255⟩,
  ⟨0x8200, 0x8200, 0x04, 0x04, .u64, 8, .ro, .val 0, 0, 18446744073709551615⟩]

def dictArea8_3 : List DictEntry := [
  ⟨0x8200, 0x8200, 0x05, 0x05, .u32, 4, .ro, .val 0, 0, 4294967295⟩]

/-- Entries of indices 0x8000 to 0x8FFF. -/
def dictArea8 : List DictEntry := dictArea8_0 ++ dictArea8_1 ++ dictArea8_2 ++ dictArea8_3

def dictArea9_0 : List DictEntry := [
  ⟨0x9010, 0x9010, 0x01, 0x01, .u64, 8, .ro, .val 755914244096, 0, 18446744073709551615⟩,
  ⟨0x9010, 0x9010, 0x02, 0x02, .u64, 8, .ro, .val 4294967296, 0, 18446744073709551615⟩,
  ⟨0x9010, 0x9010, 0x03, 0x03, .u64, 8, .rwc, .val 0, 0, 18446744073709551615⟩,
  ⟨0x9010, 0x9010, 0x04, 0x04, .u8, 1, .wo, .val 0, 1, 2⟩,
  ⟨0x9010, 0x9010, 0x05, 0x05, .u8, 1, .ro, .val 255, 0, 255⟩,
  ⟨0x9010, 0x9010, 0x06, 0x06, .blob, 48, .ro, .val 0, 0, 0⟩,
  ⟨0x9010, 0x9010, 0x07, 0x07, .u16, 2, .ro, .val 0, 0, 65535⟩,
  ⟨0x9010, 0x9010, 0x08, 0x08, .u8, 1, .ro, .val 0, 0, 255⟩,
  ⟨0x9030, 0x9033, 0x01, 0x08, .u64, 8, .rwc, .val 0, 0, 18446744073709551615⟩,
  ⟨0x9030, 0x9033, 0x09, 0x09, .u16, 2, .rwc, .val 1024, 64, 4096⟩,
  ⟨0x9030, 0x9033, 0x0A, 0x0A, .u64, 8, .rwc, .val 0, 0, 18446744073709551615⟩,
  ⟨0x9030, 0x9033, 0x0B, 0x0B, .u32, 4, .ro, .val 0, 0, 4294967295⟩,
  ⟨0x9030, 0x9033, 0x0C, 0x0C, .u32, 4, .rw, .val 0, 0, 4294967295⟩,
  ⟨0x9030, 0x9033, 0x0D, 0x14, .u32, 4, .ro, .val 0, 0, 4294967295⟩,
  ⟨0x9030, 0x9033, 0x15, 0x15, .u32, 4, .ro, .val 0, 0, 4294967295⟩,
  ⟨0x9034, 0x9034, 0x01, 0x01, .u8, 1, .wo, .val 0, 0, 15⟩,
  ⟨0x9034, 0x9034, 0x02, 0x02, .u8, 1, .wo, .val 0, 0, 15⟩,
  ⟨0x9036, 0x9036, 0x01, 0x01, .u8, 1, .rw, .val 2, 1, 7⟩,
  ⟨0x9036, 0x9036, 0x02, 0x02, .u32, 4, .ro, .val 0, 0, 4294967295⟩,
  ⟨0x9036, 0x9036, 0x03, 0x03, .u32, 4, .ro, .val 0, 0, 4294967295⟩,
  ⟨0x9036, 0x9036, 0x04, 0x04, .u32, 4, .ro, .val 0, 0, 4294967295⟩,
  ⟨0x9040, 0x9043, 0x01, 0x01, .u8, 1, .cmt, .val 0, 0, 1⟩,
  ⟨0x9040, 0x9043, 0x02, 0x02, .u16, 2, .cmt, .val 64, 1, 65535⟩,
  ⟨0x9040, 0x9043, 0x03, 0x03, .u64, 8, .rwc, .val 0, 0, 18446744073709551615⟩]

def dictArea9_1 : List DictEntry := [
  ⟨0x9040, 0x9043, 0x04, 0x04, .u32, 4, .rwc, .val 16448, 0, 4294967295⟩,
  ⟨0x9040, 0x9043, 0x05, 0x05, .u32, 4, .ro, .val 0, 0, 4294967295⟩,
  ⟨0x9040, 0x9043, 0x06, 0x06, .u16, 2, .ro, .val 65535, 0, 65535⟩,
  ⟨0x9100, 0x910F, 0x01, 0x01, .u32, 4, .rwc, .table, 1024, 1048576⟩,
  ⟨0x9100, 0x910F, 0x02, 0x02, .u32, 4, .rwc, .table, 0, 262144⟩,
  ⟨0x9100, 0x910F, 0x03, 0x03, .u8, 1, .rwc, .val 75, 1, 100⟩,
  ⟨0x9100, 0x910F, 0x04, 0x04, .u8, 1, .rwc, .val 90, 1, 100⟩,
  ⟨0x9100, 0x910F, 0x05, 0x05, .u64, 8, .ro, .val 0, 0, 18446744073709551615⟩,
  ⟨0x9100, 0x910F, 0x06, 0x06, .u32, 4, .ro, .val 0, 0, 4294967295⟩,
  ⟨0x9100, 0x910F, 0x07, 0x07, .u32, 4, .ro, .val 0, 0, 4294967295⟩,
  ⟨0x9100, 0x910F, 0x08, 0x08, .u64, 8, .ro, .val 0, 0, 18446744073709551615⟩,
  ⟨0x9100, 0x910F, 0x09, 0x09, .u32, 4, .ro, .val 0, 0, 4294967295⟩,
  ⟨0x9100, 0x910F, 0x0A, 0x0A, .u32, 4, .ro, .val 0, 0, 4294967295⟩,
  ⟨0x9100, 0x910F, 0x0B, 0x0B, .u32, 4, .ro, .val 0, 0, 4294967295⟩,
  ⟨0x9120, 0x9120, 0x01, 0x01, .u8, 1, .rwc, .val 5, 1, 50⟩,
  ⟨0x9120, 0x9120, 0x02, 0x02, .u64, 8, .ro, .val 0, 0, 18446744073709551615⟩,
  ⟨0x9120, 0x9120, 0x03, 0x03, .u32, 4, .ro, .val 0, 0, 4294967295⟩,
  ⟨0x9200, 0x921F, 0x01, 0x01, .u8, 1, .rwc, .table, 0, 15⟩,
  ⟨0x9200, 0x921F, 0x02, 0x02, .u32, 4, .rwc, .table, 0, 4294967295⟩,
  ⟨0x9200, 0x921F, 0x03, 0x03, .u32, 4, .ro, .val 0, 0, 4294967295⟩,
  ⟨0x9200, 0x921F, 0x04, 0x04, .u32, 4, .ro, .val 0, 0, 4294967295⟩,
  ⟨0x9200, 0x921F, 0x05, 0x05, .u32, 4, .ro, .val 0, 0, 4294967295⟩,
  ⟨0x9050, 0x9053, 0x01, 0x01, .u64, 8, .rwc, .val 0, 0, 18446744073709551615⟩,
  ⟨0x9050, 0x9053, 0x02, 0x02, .u32, 4, .rwc, .val 65536, 1024, 1048576⟩]

def dictArea9_2 : List DictEntry := [
  ⟨0x9050, 0x9053, 0x03, 0x03, .u32, 4, .ro, .val 0, 0, 4294967295⟩,
  ⟨0x9060, 0x9063, 0x01, 0x01, .blob, 32, .rw, .val 0, 0, 0⟩,
  ⟨0x9000, 0x9000, 0x01, 0x01, .u16, 2, .wo, .val 0, 0, 65535⟩,
  ⟨0x9000, 0x9000, 0x02, 0x02, .u8, 1, .ro, .val 0, 0, 255⟩,
  ⟨0x9000, 0x9000, 0x03, 0x03, .u32, 4, .ro, .val 0, 0, 4294967295⟩,
  ⟨0x9000, 0x9000, 0x04, 0x04, .u32, 4, .ro, .val 0, 0, 4294967295⟩,
  ⟨0x9000, 0x9000, 0x05, 0x05, .u32, 4, .wo, .val 0, 0, 4294967295⟩,
  ⟨0x9020, 0x9023, 0x01, 0x01, .u8, 1, .ro, .val 0, 0, 255⟩,
  ⟨0x9020, 0x9023, 0x02, 0x02, .u64, 8, .rwc, .val 0, 0, 18446744073709551615⟩,
  ⟨0x9020, 0x9023, 0x03, 0x03, .u64, 8, .ro, .val 0, 0, 18446744073709551615⟩,
  ⟨0x9020, 0x9023, 0x04, 0x04, .u64, 8, .ro, .val 0, 0, 18446744073709551615⟩,
  ⟨0x9020, 0x9023, 0x05, 0x05, .u64, 8, .ro, .val 0, 0, 18446744073709551615⟩,
  ⟨0x9020, 0x9023, 0x06, 0x06, .u64, 8, .ro, .val 0, 0, 18446744073709551615⟩,
  ⟨0x9020, 0x9023, 0x07, 0x07, .u32, 4, .ro, .val 0, 0, 4294967295⟩,
  ⟨0x9020, 0x9023, 0x08, 0x08, .u32, 4, .wo, .val 0, 0, 4294967295⟩,
  ⟨0x9020, 0x9023, 0x09, 0x09, .u32, 4, .ro, .val 0, 0, 4294967295⟩,
  ⟨0x9020, 0x9023, 0x0A, 0x0A, .u32, 4, .ro, .val 0, 0, 4294967295⟩,
  ⟨0x9020, 0x9023, 0x0B, 0x0B, .u32, 4, .wo, .val 0, 0, 4294967295⟩,
  ⟨0x9020, 0x9023, 0x0C, 0x0C, .u8, 1, .ro, .val 0, 0, 255⟩,
  ⟨0x9020, 0x9023, 0x0D, 0x0D, .u32, 4, .ro, .val 4294967295, 0, 4294967295⟩,
  ⟨0x9020, 0x9023, 0x0E, 0x0E, .u32, 4, .ro, .val 4294967295, 0, 4294967295⟩,
  ⟨0x9020, 0x9023, 0x0F, 0x0F, .u32, 4, .ro, .val 0, 0, 4294967295⟩,
  ⟨0x9020, 0x9023, 0x10, 0x10, .u8, 1, .rw, .val 0, 0, 8⟩,
  ⟨0x9020, 0x9023, 0x11, 0x11, .u32, 4, .ro, .val 0, 0, 4294967295⟩]

def dictArea9_3 : List DictEntry := [
  ⟨0x9300, 0x9300, 0x01, 0x01, .table, 131072, .ro, .table, 0, 0⟩,
  ⟨0x9300, 0x9300, 0x02, 0x02, .u32, 4, .ro, .val 0, 0, 4294967295⟩,
  ⟨0x9300, 0x9300, 0x03, 0x03, .u32, 4, .rw, .val 0, 0, 4294967295⟩,
  ⟨0x9300, 0x9300, 0x04, 0x04, .u32, 4, .ro, .val 0, 0, 4294967295⟩,
  ⟨0x9300, 0x9300, 0x05, 0x05, .u32, 4, .ro, .val 0, 0, 4294967295⟩]

/-- Entries of indices 0x9000 to 0x9FFF. -/
def dictArea9 : List DictEntry := dictArea9_0 ++ dictArea9_1 ++ dictArea9_2 ++ dictArea9_3

def dictAreaA_0 : List DictEntry := [
  ⟨0xA000, 0xA000, 0x01, 0x01, .u8, 1, .ro, .val 0, 0, 255⟩,
  ⟨0xA000, 0xA000, 0x02, 0x02, .u8, 1, .ro, .val 255, 0, 255⟩,
  ⟨0xA000, 0xA000, 0x03, 0x03, .u32, 4, .ro, .val 0, 0, 4294967295⟩,
  ⟨0xA000, 0xA000, 0x04, 0x04, .u32, 4, .ro, .val 0, 0, 4294967295⟩,
  ⟨0xA000, 0xA000, 0x05, 0x05, .u32, 4, .ro, .val 0, 0, 4294967295⟩,
  ⟨0xA000, 0xA000, 0x06, 0x06, .table, 4, .ro, .val 0, 0, 0⟩,
  ⟨0xA000, 0xA000, 0x07, 0x07, .u8, 1, .wo, .val 0, 1, 1⟩,
  ⟨0xA010, 0xA010, 0x01, 0x01, .table, 160, .ro, .table, 0, 0⟩,
  ⟨0xA010, 0xA010, 0x02, 0x02, .table, 80, .ro, .fused, 0, 0⟩,
  ⟨0xA010, 0xA010, 0x03, 0x03, .table, 40, .ro, .fused, 0, 0⟩,
  ⟨0xA020, 0xA020, 0x01, 0x01, .table, 2048, .ro, .val 0, 0, 0⟩,
  ⟨0xA020, 0xA020, 0x02, 0x02, .u32, 4, .ro, .val 0, 0, 4294967295⟩,
  ⟨0xA100, 0xA100, 0x01, 0x01, .u8, 1, .ro, .val 0, 0, 255⟩,
  ⟨0xA100, 0xA100, 0x02, 0x02, .u8, 1, .ro, .val 0, 0, 255⟩,
  ⟨0xA100, 0xA100, 0x03, 0x03, .u8, 1, .ro, .val 0, 0, 255⟩]

/-- Entries of indices 0xA000 to 0xAFFF. -/
def dictAreaA : List DictEntry := dictAreaA_0

/-- The entry rows of one index range. -/
def dictArea : Nat → List DictEntry
  | 1 => dictArea1
  | 2 => dictArea2
  | 3 => dictArea3
  | 4 => dictArea4
  | 5 => dictArea5
  | 6 => dictArea6
  | 7 => dictArea7
  | 8 => dictArea8
  | 9 => dictArea9
  | 10 => dictAreaA
  | _ => []

/-- All rows, in ascending order of range. -/
def dictAll : List DictEntry :=
  dictArea1 ++ dictArea2 ++ dictArea3 ++ dictArea4 ++ dictArea5 ++ dictArea6 ++ dictArea7 ++ dictArea8 ++ dictArea9 ++ dictAreaA

/-- Whether a row defines index and sub-index. -/
def DictEntry.has (e : DictEntry) (index sub : Nat) : Bool :=
  decide (e.indexLo ≤ index) && decide (index ≤ e.indexHi) && decide (e.subLo ≤ sub) && decide (sub ≤ e.subHi)

/-- The row that defines a key, sub-index 0 apart (R401). -/
def dictFind (k : Nat) : Option DictEntry :=
  (dictArea (k / 256 / 4096)).find? (fun e => e.has (k / 256) (k % 256))

/-- Sub-index 0x00 of a defined index: the highest sub-index in use there (R372). -/
def dictCount (index : Nat) : Nat :=
  (dictArea (index / 4096)).foldl
    (fun m e => if e.indexLo ≤ index ∧ index ≤ e.indexHi then max m e.subHi else m) 0

/-- Whether the type is scalar (R373). -/
def DictType.scalar : DictType → Bool
  | .u8 | .u16 | .u32 | .u64 | .i32 => true
  | .str | .blob | .table => false

/-- Type codes (R373). -/
def DictType.code : DictType → Nat
  | .u8 => 1 | .u16 => 2 | .u32 => 3 | .u64 => 4 | .i32 => 5 | .str => 7 | .blob => 8 | .table => 9

/-- Access right codes of DESCRIBE (R394). -/
def DictAccess.code : DictAccess → Nat
  | .ro => 0 | .rw => 1 | .wo => 2 | .rwc => 3 | .cmt => 4

/-- Modulus of a scalar entry's values; 1 for a key that names no scalar entry. -/
def dictModulus (k : Nat) : Nat :=
  match dictFind k with
  | some e => if e.type.scalar then 256 ^ e.bytes else 1
  | none => 1

/-- Default pools: buffer size (R190). -/
def poolSizeDefault : Nat → Nat
  | 0 => 1024 | 1 => 4096 | 2 => 8192 | 3 => 16384 | 4 => 32768 | 5 => 65536 | 6 => 1048576 | _ => 1024

/-- Default pools: count (R190). -/
def poolCountDefault : Nat → Nat
  | 0 => 8192 | 1 => 16384 | 2 => 65536 | 3 => 65536 | 4 => 16384 | 5 => 4096 | 6 => 256 | _ => 0

/-- Owner uses: default pool, by use (R192). -/
def ownerPoolDefault : Nat → Nat
  | 0 => 2 | 1 => 3 | _ => 0

/-- Owner uses: default reservation, by use (R192). -/
def ownerReservedDefault : Nat → Nat
  | 0 => 4096 | 1 => 4096 | 2 => 512 | _ => 0

/-- Port roles by default (R203): 0 MESH, 1 TORUS, 2 SPARE, 3 X_PLUS_2, 4 X_MINUS_2, 5 UNUSED. -/
def portRoleDefault (p : Nat) : Nat :=
  if p ≤ 6 then 0 else if p = 7 then 2 else if p ≤ 13 then 1 else 2

/-- Defaults given by a table of a chapter. -/
def dictTableDefault (k : Nat) : Nat :=
  let index := k / 256
  let sub := k % 256
  if 0x9100 ≤ index ∧ index ≤ 0x910F then
    if sub = 1 then poolSizeDefault (index - 0x9100) else poolCountDefault (index - 0x9100)
  else if 0x9200 ≤ index ∧ index ≤ 0x921F then
    if sub = 1 then ownerPoolDefault ((index - 0x9200) % 8) else ownerReservedDefault ((index - 0x9200) % 8)
  else if 0x6100 ≤ index ∧ index ≤ 0x610F then portRoleDefault (index - 0x6100)
  else 0

/-- Byte `off` of the unit map fused into the module (R77): for row `off / 2` the physical numbers of its fused-off dot
lanes in ascending order, 0xFF for none; how many and which are free values within those bounds (log 12). -/
def unitMapByte (off : Nat) : Nat :=
  let r := off / 2
  let n := Config.fusedUnit r 0 % 3
  let a := Config.fusedUnit r 1 % (if n = 2 then 65 else 66)
  let b := a + 1 + Config.fusedUnit r 2 % (65 - a)
  if off % 2 = 0 then (if n = 0 then 0xFF else a) else if n = 2 then b else 0xFF

/-- `UNIT_MAP_DIGEST` (R77): the first 8 bytes of the SHA-384 of the map, 0 reported as 1. -/
def unitMapDigestValue : Nat :=
  let v := leNat ((sha384 ((List.range 256).map (fun i => BitVec.ofNat 8 (unitMapByte i)))).take 8)
  if v = 0 then 1 else v

/-- `SPARES_IN_USE` (R77): the sum of all row offsets. -/
def sparesInUseValue : Nat := (List.range 128).foldl (fun n r => n + Config.fusedUnit r 0 % 3) 0

/-- The value an unlisted scalar entry reads as (R377, R403). -/
def dictDefault (k : Nat) : Nat :=
  match dictFind k with
  | none => 0
  | some e =>
    if e.type.scalar then
      match e.dflt with
      | .val v => v
      | .fused =>
        if k = 0x4010 * 256 + 2 then unitMapDigestValue
        else if k = 0x4010 * 256 + 3 then sparesInUseValue
        else Config.fusedScalar k % 256 ^ e.bytes
      | .table => dictTableDefault k
    else 0

/-- Default bytes given by a table of a chapter. -/
def bulkTableDefault (k off : Nat) : Nat :=
  match k / 256, k % 256 with
  | 0x6200, 2 => [32, 16, 136, 40, 136, 40, 136, 40, 152, 40].getD off 0
  | 0x6200, 3 => [4, 4, 1, 2].getD off 0
  | 0x6400, 10 => 255
  | 0x6410, 3 => 255
  | 0x8000, 2 => 255
  | 0x8000, 4 => 255
  | 0x8130, 2 => 255
  | 0x8130, 3 => 255
  | 0xA010, 1 => if off % 16 = 12 then 255 else 0
  | _, _ => 0

/-- Byte `off` of `THERMAL_LIMITS` (R443): for each sensor the emergency and the shutdown threshold in m°C. -/
def thermalLimitByte (off : Nat) : Byte :=
  let n := off / 8
  let e := if n ≤ 4 then 105000 else if n ≤ 13 then 95000 else if n = 14 then 120000 else 50000
  ((leBytes 4 e ++ leBytes 4 (e + 10000)).getD (off % 8) 0)

/-- `BIST_BUDGET` of a slice in ms (R416). -/
def bistBudget (i : Nat) : Nat := [180, 150, 150, 150, 150, 120, 60, 40, 100, 80].getD i 0

/-- Byte `off` of an identity entry, padded with 0x00 (R2): `ORDER_CODE` is one of the two orderable codes, `STEPPING` a capital
letter and a digit, `SERIAL` 16 ASCII characters; which they are is fused (log 12). -/
def identityByte (sub off : Nat) : Byte :=
  let x := Config.fusedByte (0x1000 * 256 + sub) off
  match sub with
  | 1 => ([0x49, 0x5A, 0x4E, 0x39, 0x36, 0x34, 0x30, 0x2D,
           if (Config.fusedByte (0x1000 * 256 + 1) 0).toNat % 2 = 0 then 0x41 else 0x45, 0x30] : List Byte).getD off 0
  | 2 => if off = 0 then BitVec.ofNat 8 (0x41 + x.toNat % 26) else if off = 1 then BitVec.ofNat 8 (0x30 + x.toNat % 10) else 0
  | 3 => if off < 16 then BitVec.ofNat 8 (0x20 + x.toNat % 95) else 0
  | _ => x

/-- The value an unlisted byte of a STR, BLOB or TABLE entry reads as. -/
def bulkDefault (k off : Nat) : Byte :=
  match dictFind k with
  | none => 0
  | some e =>
    match e.dflt with
    | .val v => BitVec.ofNat 8 v
    | .fused =>
      if k = 0x4010 * 256 + 1 then BitVec.ofNat 8 (unitMapByte off)
      else if k = 0xA010 * 256 + 3 then (leBytes 4 (bistBudget (off / 4))).getD (off % 4) 0
      else if k = 0x2200 * 256 + 2 then (if off < 128 then thermalLimitByte off else 0)
      else if k / 256 = 0x1000 then identityByte (k % 256) off
      else Config.fusedByte k off
    | .table => BitVec.ofNat 8 (bulkTableDefault k off)

/-! ### Keys -/

namespace Key

/-- `ORDER_CODE` (0x1000:01, R2). -/
abbrev orderCode : Nat := 0x1000 * 256 + 1

/-- `STEPPING` (0x1000:02, R2). -/
abbrev stepping : Nat := 0x1000 * 256 + 2

/-- `SERIAL` (0x1000:03, R2). -/
abbrev serial : Nat := 0x1000 * 256 + 3

/-- `LLYNCA_VERSION` (0x1002:01, R2). -/
abbrev llyncaVersion : Nat := 0x1002 * 256 + 1

/-- `DXP_VERSION` (0x1002:02, R2). -/
abbrev dxpVersion : Nat := 0x1002 * 256 + 2

/-- `IMAGE_FORMAT_VERSION` (0x1002:03, R2). -/
abbrev imageFormatVersion : Nat := 0x1002 * 256 + 3

/-- `NUMERICS_LEVEL` (0x1002:04, R2). -/
abbrev numericsLevel : Nat := 0x1002 * 256 + 4

/-- `IMAGE_BUFFER_BASE` (0x9010:01, R23). -/
abbrev imageBufferBase : Nat := 0x9010 * 256 + 1

/-- `IMAGE_BUFFER_SIZE` (0x9010:02, R23). -/
abbrev imageBufferSize : Nat := 0x9010 * 256 + 2

/-- `IMAGE_LENGTH` (0x9010:03, R23). -/
abbrev imageLength : Nat := 0x9010 * 256 + 3

/-- `IMAGE_LOAD` (0x9010:04, R23). -/
abbrev imageLoad : Nat := 0x9010 * 256 + 4

/-- `IMAGE_STATUS` (0x9010:05, R23). -/
abbrev imageStatus : Nat := 0x9010 * 256 + 5

/-- `IMAGE_DIGEST` (0x9010:06, R23). -/
abbrev imageDigest : Nat := 0x9010 * 256 + 6

/-- `IMAGE_FORMAT_IN_USE` (0x9010:07, R23). -/
abbrev imageFormatInUse : Nat := 0x9010 * 256 + 7

/-- `NUMERICS_LEVEL_IN_USE` (0x9010:08, R23). -/
abbrev numericsLevelInUse : Nat := 0x9010 * 256 + 8

/-- `QUEUE_BASE` (0x9030-0x9033:01-08, R23). -/
abbrev queueBase (i : Nat) (j : Nat) : Nat := (0x9030 + i) * 256 + 1 + j

/-- `QUEUE_DEPTH` (0x9030-0x9033:09, R23). -/
abbrev queueDepth (i : Nat) : Nat := (0x9030 + i) * 256 + 9

/-- `COMPLETION_BASE` (0x9030-0x9033:0A, R23). -/
abbrev completionBase (i : Nat) : Nat := (0x9030 + i) * 256 + 10

/-- `COMPLETION_HEAD` (0x9030-0x9033:0B, R23). -/
abbrev completionHead (i : Nat) : Nat := (0x9030 + i) * 256 + 11

/-- `COMPLETION_ACK` (0x9030-0x9033:0C, R23). -/
abbrev completionAck (i : Nat) : Nat := (0x9030 + i) * 256 + 12

/-- `QUEUE_HEAD` (0x9030-0x9033:0D-14, R23). -/
abbrev queueHead (i : Nat) (j : Nat) : Nat := (0x9030 + i) * 256 + 13 + j

/-- `QUEUE_REFUSED` (0x9030-0x9033:15, R23). -/
abbrev queueRefused (i : Nat) : Nat := (0x9030 + i) * 256 + 21

/-- `PREEMPT_REQUEST` (0x9034:01, R23). -/
abbrev preemptRequest : Nat := 0x9034 * 256 + 1

/-- `RESUME_REQUEST` (0x9034:02, R23). -/
abbrev resumeRequest : Nat := 0x9034 * 256 + 2

/-- `RERUN_LIMIT` (0x9036:01, R23). -/
abbrev rerunLimit : Nat := 0x9036 * 256 + 1

/-- `KILL_COUNT` (0x9036:02, R23). -/
abbrev killCount : Nat := 0x9036 * 256 + 2

/-- `RERUN_COUNT` (0x9036:03, R23). -/
abbrev rerunCount : Nat := 0x9036 * 256 + 3

/-- `DEADLINE_MISS_COUNT` (0x9036:04, R23). -/
abbrev deadlineMissCount : Nat := 0x9036 * 256 + 4

/-- `BF16_FAST_ALLOW` (0x4020:01, R55). -/
abbrev bf16FastAllow : Nat := 0x4020 * 256 + 1

/-- `STRICT_FORCE` (0x4020:02, R55). -/
abbrev strictForce : Nat := 0x4020 * 256 + 2

/-- `SAT_RECORD_BASE` (0x4030-0x4033:01, R55). -/
abbrev satRecordBase (i : Nat) : Nat := (0x4030 + i) * 256 + 1

/-- `SAT_RECORD_HEAD` (0x4030-0x4033:02, R55). -/
abbrev satRecordHead (i : Nat) : Nat := (0x4030 + i) * 256 + 2

/-- `SAT_ENTRY_COUNT` (0x4030-0x4033:03, R55). -/
abbrev satEntryCount (i : Nat) : Nat := (0x4030 + i) * 256 + 3

/-- `SAT_EXIT_COUNT` (0x4030-0x4033:04, R55). -/
abbrev satExitCount (i : Nat) : Nat := (0x4030 + i) * 256 + 4

/-- `SAT_WIRE_COUNT` (0x4030-0x4033:05, R55). -/
abbrev satWireCount (i : Nat) : Nat := (0x4030 + i) * 256 + 5

/-- `VANISHED_COUNT` (0x4030-0x4033:06, R55). -/
abbrev vanishedCount (i : Nat) : Nat := (0x4030 + i) * 256 + 6

/-- `SPECIAL_COUNT` (0x4030-0x4033:07, R55). -/
abbrev specialCount (i : Nat) : Nat := (0x4030 + i) * 256 + 7

/-- `RESIDUE_MISMATCH_COUNT` (0x4038:01, R55). -/
abbrev residueMismatchCount : Nat := 0x4038 * 256 + 1

/-- `BF16_FAST_COUNT` (0x4038:02, R55). -/
abbrev bf16FastCount : Nat := 0x4038 * 256 + 2

/-- `UNIT_MAP` (0x4010:01, R82). -/
abbrev unitMap : Nat := 0x4010 * 256 + 1

/-- `UNIT_MAP_DIGEST` (0x4010:02, R82). -/
abbrev unitMapDigest : Nat := 0x4010 * 256 + 2

/-- `SPARES_IN_USE` (0x4010:03, R82). -/
abbrev sparesInUse : Nat := 0x4010 * 256 + 3

/-- `FEATHER_ENABLE` (0x4040:01, R82). -/
abbrev featherEnable : Nat := 0x4040 * 256 + 1

/-- `FEATHER_IDLE_MIN` (0x4040:02, R82). -/
abbrev featherIdleMin : Nat := 0x4040 * 256 + 2

/-- `BLOCK_CYCLES` (0x4050-0x4053:01, R82). -/
abbrev blockCycles (i : Nat) : Nat := (0x4050 + i) * 256 + 1

/-- `WAIT_CYCLES` (0x4050-0x4053:02, R82). -/
abbrev waitCycles (i : Nat) : Nat := (0x4050 + i) * 256 + 2

/-- `FEATHERED_ROW_CYCLES` (0x4050-0x4053:03, R82). -/
abbrev featheredRowCycles (i : Nat) : Nat := (0x4050 + i) * 256 + 3

/-- `LATENCY_PAD_CYCLES` (0x4050-0x4053:04, R82). -/
abbrev latencyPadCycles (i : Nat) : Nat := (0x4050 + i) * 256 + 4

/-- `WS_CONFLICT_COUNT` (0x4050-0x4053:05, R82). -/
abbrev wsConflictCount (i : Nat) : Nat := (0x4050 + i) * 256 + 5

/-- `WAKE_STALL_COUNT` (0x4050-0x4053:06, R82). -/
abbrev wakeStallCount (i : Nat) : Nat := (0x4050 + i) * 256 + 6

/-- `STREAM_STALL_CYCLES` (0x4050-0x4053:07, R82). -/
abbrev streamStallCycles (i : Nat) : Nat := (0x4050 + i) * 256 + 7

/-- `SPARSE_ISSUE_COUNT` (0x4060-0x4063:01, R101). -/
abbrev sparseIssueCount (i : Nat) : Nat := (0x4060 + i) * 256 + 1

/-- `COMPACT_DROP_COUNT` (0x4060-0x4063:02, R101). -/
abbrev compactDropCount (i : Nat) : Nat := (0x4060 + i) * 256 + 2

/-- `PRED_UNITS_PREDICTED` (0x5400-0x5403:01, R101). -/
abbrev predUnitsPredicted (i : Nat) : Nat := (0x5400 + i) * 256 + 1

/-- `PRED_UNITS_NEEDED` (0x5400-0x5403:02, R101). -/
abbrev predUnitsNeeded (i : Nat) : Nat := (0x5400 + i) * 256 + 2

/-- `PRED_UNITS_REPAIRED` (0x5400-0x5403:03, R101). -/
abbrev predUnitsRepaired (i : Nat) : Nat := (0x5400 + i) * 256 + 3

/-- `PRED_UNITS_LOST` (0x5400-0x5403:04, R101). -/
abbrev predUnitsLost (i : Nat) : Nat := (0x5400 + i) * 256 + 4

/-- `PRED_UNITS_WASTED` (0x5400-0x5403:05, R101). -/
abbrev predUnitsWasted (i : Nat) : Nat := (0x5400 + i) * 256 + 5

/-- `PRED_MODE_FORCE` (0x5410:01, R101). -/
abbrev predModeForce : Nat := 0x5410 * 256 + 1

/-- `ROUTED_LAYERS` (0x5000:01, R126). -/
abbrev routedLayers : Nat := 0x5000 * 256 + 1

/-- `GATE_SRAM_LIMIT` (0x5000:02, R126). -/
abbrev gateSramLimit : Nat := 0x5000 * 256 + 2

/-- `GATE_SRAM_USED` (0x5000:03, R126). -/
abbrev gateSramUsed : Nat := 0x5000 * 256 + 3

/-- `REPECHAGE_DOMAIN_MAX` (0x5010:01, R126). -/
abbrev repechageDomainMax : Nat := 0x5010 * 256 + 1

/-- `LOOKAHEAD_ENABLE` (0x5010:02, R126). -/
abbrev lookaheadEnable : Nat := 0x5010 * 256 + 2

/-- `CAP_MODE_RESOLVED` (0x5100-0x52FF:01, R126). -/
abbrev capModeResolved (i : Nat) : Nat := (0x5100 + i) * 256 + 1

/-- `ROUTE_TOKENS` (0x5300-0x5303:01, R126). -/
abbrev routeTokens (i : Nat) : Nat := (0x5300 + i) * 256 + 1

/-- `ROUTE_CHOICES_ADMITTED` (0x5300-0x5303:02, R126). -/
abbrev routeChoicesAdmitted (i : Nat) : Nat := (0x5300 + i) * 256 + 2

/-- `ROUTE_CHOICES_REPECHAGED` (0x5300-0x5303:03, R126). -/
abbrev routeChoicesRepechaged (i : Nat) : Nat := (0x5300 + i) * 256 + 3

/-- `ROUTE_CHOICES_DROPPED` (0x5300-0x5303:04, R126). -/
abbrev routeChoicesDropped (i : Nat) : Nat := (0x5300 + i) * 256 + 4

/-- `ROUTE_TOKENS_SKIPPED` (0x5300-0x5303:05, R126). -/
abbrev routeTokensSkipped (i : Nat) : Nat := (0x5300 + i) * 256 + 5

/-- `ROUTE_SLOTS_STRANDED` (0x5300-0x5303:06, R126). -/
abbrev routeSlotsStranded (i : Nat) : Nat := (0x5300 + i) * 256 + 6

/-- `ROUTE_DEAD_HEATS` (0x5300-0x5303:07, R126). -/
abbrev routeDeadHeats (i : Nat) : Nat := (0x5300 + i) * 256 + 7

/-- `LEDGER_ROUNDS` (0x5300-0x5303:08, R126). -/
abbrev ledgerRounds (i : Nat) : Nat := (0x5300 + i) * 256 + 8

/-- `LEDGER_ORDER_COUNT` (0x5300-0x5303:09, R126). -/
abbrev ledgerOrderCount (i : Nat) : Nat := (0x5300 + i) * 256 + 9

/-- `ROUTE_DUP_KEY_COUNT` (0x5300-0x5303:0A, R126). -/
abbrev routeDupKeyCount (i : Nat) : Nat := (0x5300 + i) * 256 + 10

/-- `LOOKAHEAD_PREDICTED` (0x5300-0x5303:0B, R126). -/
abbrev lookaheadPredicted (i : Nat) : Nat := (0x5300 + i) * 256 + 11

/-- `LOOKAHEAD_HITS` (0x5300-0x5303:0C, R126). -/
abbrev lookaheadHits (i : Nat) : Nat := (0x5300 + i) * 256 + 12

/-- `XCH_PAIRS_DISPATCHED` (0x5500-0x5503:01, R145). -/
abbrev xchPairsDispatched (i : Nat) : Nat := (0x5500 + i) * 256 + 1

/-- `XCH_PAIRS_LOCAL` (0x5500-0x5503:02, R145). -/
abbrev xchPairsLocal (i : Nat) : Nat := (0x5500 + i) * 256 + 2

/-- `XCH_BYTES_SENT` (0x5500-0x5503:03, R145). -/
abbrev xchBytesSent (i : Nat) : Nat := (0x5500 + i) * 256 + 3

/-- `XCH_REPLICA_SERVED` (0x5500-0x5503:04, R145). -/
abbrev xchReplicaServed (i : Nat) : Nat := (0x5500 + i) * 256 + 4

/-- `XCH_DEFERRED` (0x5500-0x5503:05, R145). -/
abbrev xchDeferred (i : Nat) : Nat := (0x5500 + i) * 256 + 5

/-- `XCH_FETCH_WAITS` (0x5500-0x5503:06, R145). -/
abbrev xchFetchWaits (i : Nat) : Nat := (0x5500 + i) * 256 + 6

/-- `XCH_FETCH_WAIT_TICKS` (0x5500-0x5503:07, R145). -/
abbrev xchFetchWaitTicks (i : Nat) : Nat := (0x5500 + i) * 256 + 7

/-- `XCH_DUP_DROPPED` (0x5500-0x5503:08, R145). -/
abbrev xchDupDropped (i : Nat) : Nat := (0x5500 + i) * 256 + 8

/-- `XCH_POOL_STALL_TICKS` (0x5500-0x5503:09, R145). -/
abbrev xchPoolStallTicks (i : Nat) : Nat := (0x5500 + i) * 256 + 9

/-- `MIRROR_SENT` (0x5500-0x5503:0A, R145). -/
abbrev mirrorSent (i : Nat) : Nat := (0x5500 + i) * 256 + 10

/-- `FETCH_POLICY` (0x9040-0x9043:01, R145). -/
abbrev fetchPolicy (i : Nat) : Nat := (0x9040 + i) * 256 + 1

/-- `DEFER_WINDOW` (0x9040-0x9043:02, R145). -/
abbrev deferWindow (i : Nat) : Nat := (0x9040 + i) * 256 + 2

/-- `MIRROR_BASE` (0x9040-0x9043:03, R145). -/
abbrev mirrorBase (i : Nat) : Nat := (0x9040 + i) * 256 + 3

/-- `MIRROR_SLOT_SIZE` (0x9040-0x9043:04, R145). -/
abbrev mirrorSlotSize (i : Nat) : Nat := (0x9040 + i) * 256 + 4

/-- `MIRROR_VALID_STEP` (0x9040-0x9043:05, R145). -/
abbrev mirrorValidStep (i : Nat) : Nat := (0x9040 + i) * 256 + 5

/-- `MIRROR_VALID_LAYER` (0x9040-0x9043:06, R145). -/
abbrev mirrorValidLayer (i : Nat) : Nat := (0x9040 + i) * 256 + 6

/-- `HBM_STACK_SIZE` (0x3000:01, R168). -/
abbrev hbmStackSize : Nat := 0x3000 * 256 + 1

/-- `HBM_PIN_RATE` (0x3000:02, R168). -/
abbrev hbmPinRate : Nat := 0x3000 * 256 + 2

/-- `HBM_TIMING_MODE` (0x3000:03, R168). -/
abbrev hbmTimingMode : Nat := 0x3000 * 256 + 3

/-- `RESERVE_WINDOW_SELECT` (0x3000:04, R168). -/
abbrev reserveWindowSelect : Nat := 0x3000 * 256 + 4

/-- `HOST_UNMAPPED_COUNT` (0x3000:05, R168). -/
abbrev hostUnmappedCount : Nat := 0x3000 * 256 + 5

/-- `HOST_POISON_COUNT` (0x3000:06, R168). -/
abbrev hostPoisonCount : Nat := 0x3000 * 256 + 6

/-- `REFRESH_SLOT_SPACING` (0x3010:01, R168). -/
abbrev refreshSlotSpacing : Nat := 0x3010 * 256 + 1

/-- `REFRESH_SLOT_LENGTH` (0x3010:02, R168). -/
abbrev refreshSlotLength : Nat := 0x3010 * 256 + 2

/-- `REFRESH_DOUBLED` (0x3010:03, R168). -/
abbrev refreshDoubled : Nat := 0x3010 * 256 + 3

/-- `FORCED_REFRESH_COUNT` (0x3010:04, R168). -/
abbrev forcedRefreshCount : Nat := 0x3010 * 256 + 4

/-- `SCRUB_ENABLE` (0x3020:01, R168). -/
abbrev scrubEnable : Nat := 0x3020 * 256 + 1

/-- `SCRUB_PASSES` (0x3020:02, R168). -/
abbrev scrubPasses : Nat := 0x3020 * 256 + 2

/-- `SCRUB_LAST_PASS_TIME` (0x3020:03, R168). -/
abbrev scrubLastPassTime : Nat := 0x3020 * 256 + 3

/-- `HBM_CE_COUNT` (0x3030-0x3037:01, R168). -/
abbrev hbmCeCount (i : Nat) : Nat := (0x3030 + i) * 256 + 1

/-- `HBM_CE_RATE` (0x3030-0x3037:02, R168). -/
abbrev hbmCeRate (i : Nat) : Nat := (0x3030 + i) * 256 + 2

/-- `HBM_UE_COUNT` (0x3030-0x3037:03, R168). -/
abbrev hbmUeCount (i : Nat) : Nat := (0x3030 + i) * 256 + 3

/-- `HBM_POISON_READS` (0x3030-0x3037:04, R168). -/
abbrev hbmPoisonReads (i : Nat) : Nat := (0x3030 + i) * 256 + 4

/-- `HBM_CHECK_DETECT_COUNT` (0x3030-0x3037:05, R168). -/
abbrev hbmCheckDetectCount (i : Nat) : Nat := (0x3030 + i) * 256 + 5

/-- `HBM_DECODE_SERVED` (0x3030-0x3037:06, R168). -/
abbrev hbmDecodeServed (i : Nat) : Nat := (0x3030 + i) * 256 + 6

/-- `HBM_RMW_COUNT` (0x3030-0x3037:07, R168). -/
abbrev hbmRmwCount (i : Nat) : Nat := (0x3030 + i) * 256 + 7

/-- `RESERVE_CE_COUNT` (0x3038:01, R168). -/
abbrev reserveCeCount : Nat := 0x3038 * 256 + 1

/-- `RESERVE_CE_RATE` (0x3038:02, R168). -/
abbrev reserveCeRate : Nat := 0x3038 * 256 + 2

/-- `RESERVE_UE_COUNT` (0x3038:03, R168). -/
abbrev reserveUeCount : Nat := 0x3038 * 256 + 3

/-- `MEM_ERROR_LOG` (0x3040:01, R168). -/
abbrev memErrorLog : Nat := 0x3040 * 256 + 1

/-- `MEM_ERROR_LOG_HEAD` (0x3040:02, R168). -/
abbrev memErrorLogHead : Nat := 0x3040 * 256 + 2

/-- `PLACE_CONTEXT` (0x3100:01, R188). -/
abbrev placeContext : Nat := 0x3100 * 256 + 1

/-- `PLACE_LAG` (0x3100:02, R188). -/
abbrev placeLag : Nat := 0x3100 * 256 + 2

/-- `PLACE_DECAY_SHIFT` (0x3100:03, R188). -/
abbrev placeDecayShift : Nat := 0x3100 * 256 + 3

/-- `PLACE_MARGIN` (0x3100:04, R188). -/
abbrev placeMargin : Nat := 0x3100 * 256 + 4

/-- `PLACE_MOVES_MAX` (0x3100:05, R188). -/
abbrev placeMovesMax : Nat := 0x3100 * 256 + 5

/-- `PLACE_REPLICA_UNIT` (0x3100:06, R188). -/
abbrev placeReplicaUnit : Nat := 0x3100 * 256 + 6

/-- `PLACE_FREEZE` (0x3100:07, R188). -/
abbrev placeFreeze : Nat := 0x3100 * 256 + 7

/-- `HOT_CAPACITY` (0x3110:01, R188). -/
abbrev hotCapacity : Nat := 0x3110 * 256 + 1

/-- `WARM_CAPACITY` (0x3110:02, R188). -/
abbrev warmCapacity : Nat := 0x3110 * 256 + 2

/-- `COLD_CAPACITY` (0x3110:03, R188). -/
abbrev coldCapacity : Nat := 0x3110 * 256 + 3

/-- `REPLICA_BUDGET` (0x3110:04, R188). -/
abbrev replicaBudget : Nat := 0x3110 * 256 + 4

/-- `MOVE_RESERVE` (0x3110:05, R188). -/
abbrev moveReserve : Nat := 0x3110 * 256 + 5

/-- `STAGE_AREA_SIZE` (0x3110:06, R188). -/
abbrev stageAreaSize : Nat := 0x3110 * 256 + 6

/-- `HOT_BYTES` (0x3120:01, R188). -/
abbrev hotBytes : Nat := 0x3120 * 256 + 1

/-- `WARM_BYTES` (0x3120:02, R188). -/
abbrev warmBytes : Nat := 0x3120 * 256 + 2

/-- `COLD_BYTES` (0x3120:03, R188). -/
abbrev coldBytes : Nat := 0x3120 * 256 + 3

/-- `PINNED_BYTES` (0x3120:04, R188). -/
abbrev pinnedBytes : Nat := 0x3120 * 256 + 4

/-- `PLAN_DIGEST` (0x3120:05, R188). -/
abbrev planDigest : Nat := 0x3120 * 256 + 5

/-- `PLAN_STEP` (0x3120:06, R188). -/
abbrev planStep : Nat := 0x3120 * 256 + 6

/-- `PLACE_DIGEST_MISMATCH` (0x3120:07, R188). -/
abbrev placeDigestMismatch : Nat := 0x3120 * 256 + 7

/-- `PLACE_LATE_COUNT` (0x3120:08, R188). -/
abbrev placeLateCount : Nat := 0x3120 * 256 + 8

/-- `PLACE_PROMOTED` (0x3120:09, R188). -/
abbrev placePromoted : Nat := 0x3120 * 256 + 9

/-- `PLACE_DEMOTED` (0x3120:0A, R188). -/
abbrev placeDemoted : Nat := 0x3120 * 256 + 10

/-- `PLACE_FAR_TILES` (0x3120:0B, R188). -/
abbrev placeFarTiles : Nat := 0x3120 * 256 + 11

/-- `STAGE_FULL_COUNT` (0x3120:0C, R188). -/
abbrev stageFullCount : Nat := 0x3120 * 256 + 12

/-- `FETCH_STREAMED` (0x3120:0D, R188). -/
abbrev fetchStreamed : Nat := 0x3120 * 256 + 13

/-- `TC_DECOMP_BYTES` (0x3200:01, R188). -/
abbrev tcDecompBytes : Nat := 0x3200 * 256 + 1

/-- `TC_COMP_IN_BYTES` (0x3200:02, R188). -/
abbrev tcCompInBytes : Nat := 0x3200 * 256 + 2

/-- `TC_COMP_OUT_BYTES` (0x3200:03, R188). -/
abbrev tcCompOutBytes : Nat := 0x3200 * 256 + 3

/-- `TC_RAW_TILES` (0x3200:04, R188). -/
abbrev tcRawTiles : Nat := 0x3200 * 256 + 4

/-- `TC_CHECK_FAIL` (0x3200:05, R188). -/
abbrev tcCheckFail : Nat := 0x3200 * 256 + 5

/-- `POOL_BUFFER_SIZE` (0x9100-0x910F:01, R202). -/
abbrev poolBufferSize (i : Nat) : Nat := (0x9100 + i) * 256 + 1

/-- `POOL_COUNT` (0x9100-0x910F:02, R202). -/
abbrev poolCount (i : Nat) : Nat := (0x9100 + i) * 256 + 2

/-- `POOL_WARN` (0x9100-0x910F:03, R202). -/
abbrev poolWarn (i : Nat) : Nat := (0x9100 + i) * 256 + 3

/-- `POOL_BACKPRESSURE` (0x9100-0x910F:04, R202). -/
abbrev poolBackpressure (i : Nat) : Nat := (0x9100 + i) * 256 + 4

/-- `POOL_BASE` (0x9100-0x910F:05, R202). -/
abbrev poolBase (i : Nat) : Nat := (0x9100 + i) * 256 + 5

/-- `POOL_ALLOCATED` (0x9100-0x910F:06, R202). -/
abbrev poolAllocated (i : Nat) : Nat := (0x9100 + i) * 256 + 6

/-- `POOL_PEAK` (0x9100-0x910F:07, R202). -/
abbrev poolPeak (i : Nat) : Nat := (0x9100 + i) * 256 + 7

/-- `POOL_STALL_TICKS` (0x9100-0x910F:08, R202). -/
abbrev poolStallTicks (i : Nat) : Nat := (0x9100 + i) * 256 + 8

/-- `POOL_WARN_COUNT` (0x9100-0x910F:09, R202). -/
abbrev poolWarnCount (i : Nat) : Nat := (0x9100 + i) * 256 + 9

/-- `POOL_BP_COUNT` (0x9100-0x910F:0A, R202). -/
abbrev poolBpCount (i : Nat) : Nat := (0x9100 + i) * 256 + 10

/-- `POOL_DOUBLE_FREE_COUNT` (0x9100-0x910F:0B, R202). -/
abbrev poolDoubleFreeCount (i : Nat) : Nat := (0x9100 + i) * 256 + 11

/-- `POOL_HYSTERESIS` (0x9120:01, R202). -/
abbrev poolHysteresis : Nat := 0x9120 * 256 + 1

/-- `POOL_AREA_BYTES` (0x9120:02, R202). -/
abbrev poolAreaBytes : Nat := 0x9120 * 256 + 2

/-- `POOL_BUFFERS_TOTAL` (0x9120:03, R202). -/
abbrev poolBuffersTotal : Nat := 0x9120 * 256 + 3

/-- `OWNER_POOL` (0x9200-0x921F:01, R202). -/
abbrev ownerPool (i : Nat) : Nat := (0x9200 + i) * 256 + 1

/-- `OWNER_RESERVED` (0x9200-0x921F:02, R202). -/
abbrev ownerReserved (i : Nat) : Nat := (0x9200 + i) * 256 + 2

/-- `OWNER_HELD` (0x9200-0x921F:03, R202). -/
abbrev ownerHeld (i : Nat) : Nat := (0x9200 + i) * 256 + 3

/-- `OWNER_PEAK` (0x9200-0x921F:04, R202). -/
abbrev ownerPeak (i : Nat) : Nat := (0x9200 + i) * 256 + 4

/-- `OWNER_STALLS` (0x9200-0x921F:05, R202). -/
abbrev ownerStalls (i : Nat) : Nat := (0x9200 + i) * 256 + 5

/-- `MODULE_COORD` (0x6000:01, R223). -/
abbrev moduleCoord : Nat := 0x6000 * 256 + 1

/-- `TORUS_SIZE_X` (0x6000:02, R223). -/
abbrev torusSizeX : Nat := 0x6000 * 256 + 2

/-- `TORUS_SIZE_Y` (0x6000:03, R223). -/
abbrev torusSizeY : Nat := 0x6000 * 256 + 3

/-- `TORUS_SIZE_Z` (0x6000:04, R223). -/
abbrev torusSizeZ : Nat := 0x6000 * 256 + 4

/-- `PARTITION_TAG` (0x6010:01, R223). -/
abbrev partitionTag : Nat := 0x6010 * 256 + 1

/-- `PARTITION_REQUEST` (0x6010:02, R223). -/
abbrev partitionRequest : Nat := 0x6010 * 256 + 2

/-- `PARTITION_PORT_MASK` (0x6010:03, R223). -/
abbrev partitionPortMask : Nat := 0x6010 * 256 + 3

/-- `PARTITION_STATUS` (0x6010:04, R223). -/
abbrev partitionStatus : Nat := 0x6010 * 256 + 4

/-- `PORT_ROLE` (0x6100-0x610F:01, R223). -/
abbrev portRole (i : Nat) : Nat := (0x6100 + i) * 256 + 1

/-- `PORT_ENABLE` (0x6100-0x610F:02, R223). -/
abbrev portEnable (i : Nat) : Nat := (0x6100 + i) * 256 + 2

/-- `PORT_RATE_MAX` (0x6100-0x610F:03, R223). -/
abbrev portRateMax (i : Nat) : Nat := (0x6100 + i) * 256 + 3

/-- `PORT_RATE` (0x6100-0x610F:04, R223). -/
abbrev portRate (i : Nat) : Nat := (0x6100 + i) * 256 + 4

/-- `PORT_STATE` (0x6100-0x610F:05, R223). -/
abbrev portState (i : Nat) : Nat := (0x6100 + i) * 256 + 5

/-- `PORT_STATUS` (0x6100-0x610F:06, R223). -/
abbrev portStatus (i : Nat) : Nat := (0x6100 + i) * 256 + 6

/-- `PORT_VERSION` (0x6100-0x610F:07, R223). -/
abbrev portVersion (i : Nat) : Nat := (0x6100 + i) * 256 + 7

/-- `PORT_FEATURES` (0x6100-0x610F:08, R223). -/
abbrev portFeatures (i : Nat) : Nat := (0x6100 + i) * 256 + 8

/-- `PORT_NEIGHBOUR` (0x6100-0x610F:09, R223). -/
abbrev portNeighbour (i : Nat) : Nat := (0x6100 + i) * 256 + 9

/-- `PORT_LATENCY` (0x6100-0x610F:0A, R223). -/
abbrev portLatency (i : Nat) : Nat := (0x6100 + i) * 256 + 10

/-- `PORT_CHECK_WIRING` (0x6100-0x610F:0B, R223). -/
abbrev portCheckWiring (i : Nat) : Nat := (0x6100 + i) * 256 + 11

/-- `PORT_TRANSIT_TAGS` (0x6100-0x610F:0C, R223). -/
abbrev portTransitTags (i : Nat) : Nat := (0x6100 + i) * 256 + 12

/-- `PORT_TAGS_IN_FORCE` (0x6100-0x610F:0D, R223). -/
abbrev portTagsInForce (i : Nat) : Nat := (0x6100 + i) * 256 + 13

/-- `PORT_AUTO_RETRAIN` (0x6100-0x610F:0E, R223). -/
abbrev portAutoRetrain (i : Nat) : Nat := (0x6100 + i) * 256 + 14

/-- `PORT_CRC_DOWN_THRESHOLD` (0x6100-0x610F:0F, R223). -/
abbrev portCrcDownThreshold (i : Nat) : Nat := (0x6100 + i) * 256 + 15

/-- `PORT_FLITS_TX` (0x6100-0x610F:10, R223). -/
abbrev portFlitsTx (i : Nat) : Nat := (0x6100 + i) * 256 + 16

/-- `PORT_FLITS_RX` (0x6100-0x610F:11, R223). -/
abbrev portFlitsRx (i : Nat) : Nat := (0x6100 + i) * 256 + 17

/-- `PORT_FEC_CORRECTED` (0x6100-0x610F:12, R223). -/
abbrev portFecCorrected (i : Nat) : Nat := (0x6100 + i) * 256 + 18

/-- `PORT_CRC_FAIL` (0x6100-0x610F:13, R223). -/
abbrev portCrcFail (i : Nat) : Nat := (0x6100 + i) * 256 + 19

/-- `PORT_CRC_RATE` (0x6100-0x610F:14, R223). -/
abbrev portCrcRate (i : Nat) : Nat := (0x6100 + i) * 256 + 20

/-- `PORT_ORPHAN_DROP` (0x6100-0x610F:15, R223). -/
abbrev portOrphanDrop (i : Nat) : Nat := (0x6100 + i) * 256 + 21

/-- `PORT_ABORTS` (0x6100-0x610F:16, R223). -/
abbrev portAborts (i : Nat) : Nat := (0x6100 + i) * 256 + 22

/-- `PORT_TAG_DROP` (0x6100-0x610F:17, R223). -/
abbrev portTagDrop (i : Nat) : Nat := (0x6100 + i) * 256 + 23

/-- `PORT_CREDIT_RESYNC` (0x6100-0x610F:18, R223). -/
abbrev portCreditResync (i : Nat) : Nat := (0x6100 + i) * 256 + 24

/-- `PORT_DOWN_COUNT` (0x6100-0x610F:19, R223). -/
abbrev portDownCount (i : Nat) : Nat := (0x6100 + i) * 256 + 25

/-- `PORT_TRAIN_ATTEMPTS` (0x6100-0x610F:1A, R223). -/
abbrev portTrainAttempts (i : Nat) : Nat := (0x6100 + i) * 256 + 26

/-- `PORT_BOUNDARY_TIMEOUTS` (0x6100-0x610F:1B, R223). -/
abbrev portBoundaryTimeouts (i : Nat) : Nat := (0x6100 + i) * 256 + 27

/-- `FR_FLOW_MODE` (0x6200:01, R248). -/
abbrev frFlowMode : Nat := 0x6200 * 256 + 1

/-- `FR_BUFFER_ALLOC` (0x6200:02, R248). -/
abbrev frBufferAlloc : Nat := 0x6200 * 256 + 2

/-- `FR_TC_WEIGHT` (0x6200:03, R248). -/
abbrev frTcWeight : Nat := 0x6200 * 256 + 3

/-- `RING_STATE` (0x6200:04, R248). -/
abbrev ringState : Nat := 0x6200 * 256 + 4

/-- `FR_PACKETS_FORWARDED` (0x6200:05, R248). -/
abbrev frPacketsForwarded : Nat := 0x6200 * 256 + 5

/-- `FR_DETOUR_COUNT` (0x6200:06, R248). -/
abbrev frDetourCount : Nat := 0x6200 * 256 + 6

/-- `FR_UNROUTABLE_DROP` (0x6200:07, R248). -/
abbrev frUnroutableDrop : Nat := 0x6200 * 256 + 7

/-- `FR_HOP_LIMIT_DROP` (0x6200:08, R248). -/
abbrev frHopLimitDrop : Nat := 0x6200 * 256 + 8

/-- `FR_TRANSIT_DROP` (0x6200:09, R248). -/
abbrev frTransitDrop : Nat := 0x6200 * 256 + 9

/-- `RANK_TABLE` (0x6300:01, R248). -/
abbrev rankTable : Nat := 0x6300 * 256 + 1

/-- `RANK_REMAP` (0x6300:02, R248). -/
abbrev rankRemap : Nat := 0x6300 * 256 + 2

/-- `PARTITION_MEMBERS` (0x6300:03, R248). -/
abbrev partitionMembers : Nat := 0x6300 * 256 + 3

/-- `NI_RETRY_TIMER` (0x6400:01, R248). -/
abbrev niRetryTimer : Nat := 0x6400 * 256 + 1

/-- `NI_RETRY_LIMIT` (0x6400:02, R248). -/
abbrev niRetryLimit : Nat := 0x6400 * 256 + 2

/-- `NI_OUTSTANDING` (0x6400:03, R248). -/
abbrev niOutstanding : Nat := 0x6400 * 256 + 3

/-- `NI_BOUND_STALL_TICKS` (0x6400:04, R248). -/
abbrev niBoundStallTicks : Nat := 0x6400 * 256 + 4

/-- `NI_RETRIES` (0x6400:05, R248). -/
abbrev niRetries : Nat := 0x6400 * 256 + 5

/-- `NI_RETRY_EXHAUSTED` (0x6400:06, R248). -/
abbrev niRetryExhausted : Nat := 0x6400 * 256 + 6

/-- `NI_DUP_DROPPED` (0x6400:07, R248). -/
abbrev niDupDropped : Nat := 0x6400 * 256 + 7

/-- `NI_ORDER_DROP` (0x6400:08, R248). -/
abbrev niOrderDrop : Nat := 0x6400 * 256 + 8

/-- `NI_REFUSED_DEST` (0x6400:09, R248). -/
abbrev niRefusedDest : Nat := 0x6400 * 256 + 9

/-- `NI_FAILED_ADDRESSES` (0x6400:0A, R248). -/
abbrev niFailedAddresses : Nat := 0x6400 * 256 + 10

/-- `NI_FAILED_CLEAR` (0x6400:0B, R248). -/
abbrev niFailedClear : Nat := 0x6400 * 256 + 11

/-- `HB_INTERVAL` (0x6410:01, R248). -/
abbrev hbInterval : Nat := 0x6410 * 256 + 1

/-- `HB_MISS_LIMIT` (0x6410:02, R248). -/
abbrev hbMissLimit : Nat := 0x6410 * 256 + 2

/-- `HB_WATCH_SET` (0x6410:03, R248). -/
abbrev hbWatchSet : Nat := 0x6410 * 256 + 3

/-- `HB_LOST_COUNT` (0x6410:04, R248). -/
abbrev hbLostCount : Nat := 0x6410 * 256 + 4

/-- `MF_WINDOW_TABLE` (0x6500-0x6503:01, R266). -/
abbrev mfWindowTable (i : Nat) : Nat := (0x6500 + i) * 256 + 1

/-- `EXPORT_TABLE` (0x6510-0x6513:01, R266). -/
abbrev exportTable (i : Nat) : Nat := (0x6510 + i) * 256 + 1

/-- `EXPORT_STATUS` (0x6510-0x6513:02, R266). -/
abbrev exportStatus (i : Nat) : Nat := (0x6510 + i) * 256 + 2

/-- `MF_RESPONSE_TIMER` (0x6520:01, R266). -/
abbrev mfResponseTimer : Nat := 0x6520 * 256 + 1

/-- `MF_WINDOW_REFUSED` (0x6520:02, R266). -/
abbrev mfWindowRefused : Nat := 0x6520 * 256 + 2

/-- `MF_UNBACKED_IN` (0x6520:03, R266). -/
abbrev mfUnbackedIn : Nat := 0x6520 * 256 + 3

/-- `MF_UNBACKED_RESP` (0x6520:04, R266). -/
abbrev mfUnbackedResp : Nat := 0x6520 * 256 + 4

/-- `MF_POISON_RESP` (0x6520:05, R266). -/
abbrev mfPoisonResp : Nat := 0x6520 * 256 + 5

/-- `MF_RESPONSE_TIMEOUTS` (0x6520:06, R266). -/
abbrev mfResponseTimeouts : Nat := 0x6520 * 256 + 6

/-- `MF_RESP_EXHAUSTED` (0x6520:07, R266). -/
abbrev mfRespExhausted : Nat := 0x6520 * 256 + 7

/-- `MF_HOST_REFUSED` (0x6520:08, R266). -/
abbrev mfHostRefused : Nat := 0x6520 * 256 + 8

/-- `MF_REQUESTS_SERVED` (0x6520:09, R266). -/
abbrev mfRequestsServed : Nat := 0x6520 * 256 + 9

/-- `MF_ATOMICS_SERVED` (0x6520:0A, R266). -/
abbrev mfAtomicsServed : Nat := 0x6520 * 256 + 10

/-- `STROKE_TIMEOUT` (0x7000:01, R288). -/
abbrev strokeTimeout : Nat := 0x7000 * 256 + 1

/-- `ABORT_SETTLE` (0x7000:02, R288). -/
abbrev abortSettle : Nat := 0x7000 * 256 + 2

/-- `COLL_TREE_MAX` (0x7000:03, R288). -/
abbrev collTreeMax : Nat := 0x7000 * 256 + 3

/-- `CREW_SELF_RANK` (0x7000:04, R288). -/
abbrev crewSelfRank : Nat := 0x7000 * 256 + 4

/-- `CREWS_DEFINED` (0x7000:05, R288). -/
abbrev crewsDefined : Nat := 0x7000 * 256 + 5

/-- `CREWS_ACTIVE` (0x7000:06, R288). -/
abbrev crewsActive : Nat := 0x7000 * 256 + 6

/-- `COLL_CRAB_SENT` (0x7000:07, R288). -/
abbrev collCrabSent : Nat := 0x7000 * 256 + 7

/-- `RDE_ADDITIONS` (0x7000:08, R288). -/
abbrev rdeAdditions : Nat := 0x7000 * 256 + 8

/-- `COLL_COMMITTED` (0x7010-0x7013:01, R288). -/
abbrev collCommitted (i : Nat) : Nat := (0x7010 + i) * 256 + 1

/-- `COLL_BYTES_SENT` (0x7010-0x7013:02, R288). -/
abbrev collBytesSent (i : Nat) : Nat := (0x7010 + i) * 256 + 2

/-- `COLL_ABORTS` (0x7010-0x7013:03, R288). -/
abbrev collAborts (i : Nat) : Nat := (0x7010 + i) * 256 + 3

/-- `COLL_HELPER_RUNS` (0x7010-0x7013:04, R288). -/
abbrev collHelperRuns (i : Nat) : Nat := (0x7010 + i) * 256 + 4

/-- `COLL_STALE_DROPPED` (0x7010-0x7013:05, R288). -/
abbrev collStaleDropped (i : Nat) : Nat := (0x7010 + i) * 256 + 5

/-- `COLL_ENTRY_WAIT_TICKS` (0x7010-0x7013:06, R288). -/
abbrev collEntryWaitTicks (i : Nat) : Nat := (0x7010 + i) * 256 + 6

/-- `COLL_LAST_ABORT` (0x7010-0x7013:07, R288). -/
abbrev collLastAbort (i : Nat) : Nat := (0x7010 + i) * 256 + 7

/-- `CREW_SELF_INDEX` (0x7100-0x74FF:01, R288). -/
abbrev crewSelfIndex (i : Nat) : Nat := (0x7100 + i) * 256 + 1

/-- `CREW_INSTANCE` (0x7100-0x74FF:02, R288). -/
abbrev crewInstance (i : Nat) : Nat := (0x7100 + i) * 256 + 2

/-- `CLOCK_STATUS` (0x2000:01, R306). -/
abbrev clockStatus : Nat := 0x2000 * 256 + 1

/-- `GC_VALUE` (0x2010:01, R306). -/
abbrev gcValue : Nat := 0x2010 * 256 + 1

/-- `GC_FRACTION` (0x2010:02, R306). -/
abbrev gcFraction : Nat := 0x2010 * 256 + 2

/-- `GC_STATE` (0x2010:03, R306). -/
abbrev gcState : Nat := 0x2010 * 256 + 3

/-- `GC_SOURCE_PRIORITY` (0x2010:04, R306). -/
abbrev gcSourcePriority : Nat := 0x2010 * 256 + 4

/-- `GC_SOURCE` (0x2010:05, R306). -/
abbrev gcSource : Nat := 0x2010 * 256 + 5

/-- `GC_STRATUM` (0x2010:06, R306). -/
abbrev gcStratum : Nat := 0x2010 * 256 + 6

/-- `GC_UPSTREAM_PORT` (0x2010:07, R306). -/
abbrev gcUpstreamPort : Nat := 0x2010 * 256 + 7

/-- `GC_OFFSET_PS` (0x2010:08, R306). -/
abbrev gcOffsetPs : Nat := 0x2010 * 256 + 8

/-- `GC_RATE_TRIM` (0x2010:09, R306). -/
abbrev gcRateTrim : Nat := 0x2010 * 256 + 9

/-- `GC_STEP_THRESHOLD` (0x2010:0A, R306). -/
abbrev gcStepThreshold : Nat := 0x2010 * 256 + 10

/-- `GC_STEP_COUNT` (0x2010:0B, R306). -/
abbrev gcStepCount : Nat := 0x2010 * 256 + 11

/-- `GC_LOCK_LOSS_COUNT` (0x2010:0C, R306). -/
abbrev gcLockLossCount : Nat := 0x2010 * 256 + 12

/-- `HOST_TIME_WRITE` (0x2020:01, R306). -/
abbrev hostTimeWrite : Nat := 0x2020 * 256 + 1

/-- `TIME_PAIRS` (0x2020:02, R306). -/
abbrev timePairs : Nat := 0x2020 * 256 + 2

/-- `TIME_PAIRS_HEAD` (0x2020:03, R306). -/
abbrev timePairsHead : Nat := 0x2020 * 256 + 3

/-- `PTM_ENABLE` (0x2020:04, R306). -/
abbrev ptmEnable : Nat := 0x2020 * 256 + 4

/-- `PTM_INTERVAL` (0x2020:05, R306). -/
abbrev ptmInterval : Nat := 0x2020 * 256 + 5

/-- `RAMP_LEAD` (0x2030:01, R306). -/
abbrev rampLead : Nat := 0x2030 * 256 + 1

/-- `RAMP_TARGET` (0x2030:02, R306). -/
abbrev rampTarget : Nat := 0x2030 * 256 + 2

/-- `RAMP_COUNT` (0x2030:03, R306). -/
abbrev rampCount : Nat := 0x2030 * 256 + 3

/-- `WAIT_TRACE_BASE` (0x9050-0x9053:01, R306). -/
abbrev waitTraceBase (i : Nat) : Nat := (0x9050 + i) * 256 + 1

/-- `WAIT_TRACE_RECORDS` (0x9050-0x9053:02, R306). -/
abbrev waitTraceRecords (i : Nat) : Nat := (0x9050 + i) * 256 + 2

/-- `WAIT_TRACE_HEAD` (0x9050-0x9053:03, R306). -/
abbrev waitTraceHead (i : Nat) : Nat := (0x9050 + i) * 256 + 3

/-- `CODED_LAYOUT` (0x8000:01, R337). -/
abbrev codedLayout : Nat := 0x8000 * 256 + 1

/-- `CODED_GROUP_RANKS` (0x8000:02, R337). -/
abbrev codedGroupRanks : Nat := 0x8000 * 256 + 2

/-- `CODED_GROUP_INDEX` (0x8000:03, R337). -/
abbrev codedGroupIndex : Nat := 0x8000 * 256 + 3

/-- `CODED_SPARES` (0x8000:04, R337). -/
abbrev codedSpares : Nat := 0x8000 * 256 + 4

/-- `CODED_ROLE` (0x8000:05, R337). -/
abbrev codedRole : Nat := 0x8000 * 256 + 5

/-- `CODED_CONTEXT` (0x8000:06, R337). -/
abbrev codedContext : Nat := 0x8000 * 256 + 6

/-- `CODED_RETAIN_DEPTH` (0x8000:07, R337). -/
abbrev codedRetainDepth : Nat := 0x8000 * 256 + 7

/-- `TAKEOVER_WAIT` (0x8000:08, R337). -/
abbrev takeoverWait : Nat := 0x8000 * 256 + 8

/-- `TAKEOVER_GRACE` (0x8000:09, R337). -/
abbrev takeoverGrace : Nat := 0x8000 * 256 + 9

/-- `CODED_REPORT_WAIT` (0x8000:0A, R337). -/
abbrev codedReportWait : Nat := 0x8000 * 256 + 10

/-- `CODED_STATE` (0x8010:01, R337). -/
abbrev codedState : Nat := 0x8010 * 256 + 1

/-- `CODED_RECORDED_GEN` (0x8010:02, R337). -/
abbrev codedRecordedGen : Nat := 0x8010 * 256 + 2

/-- `CODED_OPEN_GEN` (0x8010:03, R337). -/
abbrev codedOpenGen : Nat := 0x8010 * 256 + 3

/-- `CODED_DEFICIT` (0x8010:04, R337). -/
abbrev codedDeficit : Nat := 0x8010 * 256 + 4

/-- `CODED_COORDINATOR` (0x8010:05, R337). -/
abbrev codedCoordinator : Nat := 0x8010 * 256 + 5

/-- `CODED_DATA_UNITS` (0x8010:06, R337). -/
abbrev codedDataUnits : Nat := 0x8010 * 256 + 6

/-- `CODED_PARITY_UNITS` (0x8010:07, R337). -/
abbrev codedParityUnits : Nat := 0x8010 * 256 + 7

/-- `CODED_STRIPES` (0x8010:08, R337). -/
abbrev codedStripes : Nat := 0x8010 * 256 + 8

/-- `CODED_RESUME_GEN` (0x8010:09, R337). -/
abbrev codedResumeGen : Nat := 0x8010 * 256 + 9

/-- `CODED_REVERT` (0x8020:01, R337). -/
abbrev codedRevert : Nat := 0x8020 * 256 + 1

/-- `CODED_REVERT_STATUS` (0x8020:02, R337). -/
abbrev codedRevertStatus : Nat := 0x8020 * 256 + 2

/-- `DELTA_BYTES_SENT` (0x8030:01, R337). -/
abbrev deltaBytesSent : Nat := 0x8030 * 256 + 1

/-- `DELTA_GRANULES_SKIPPED` (0x8030:02, R337). -/
abbrev deltaGranulesSkipped : Nat := 0x8030 * 256 + 2

/-- `DELTA_UNITS_APPLIED` (0x8030:03, R337). -/
abbrev deltaUnitsApplied : Nat := 0x8030 * 256 + 3

/-- `DECODE_UNITS` (0x8030:04, R337). -/
abbrev decodeUnits : Nat := 0x8030 * 256 + 4

/-- `DECODE_TERMS` (0x8030:05, R337). -/
abbrev decodeTerms : Nat := 0x8030 * 256 + 5

/-- `GROUP_COMMIT_TICKS` (0x8030:06, R337). -/
abbrev groupCommitTicks : Nat := 0x8030 * 256 + 6

/-- `REBUILD_BYTES` (0x8030:07, R337). -/
abbrev rebuildBytes : Nat := 0x8030 * 256 + 7

/-- `REBUILD_REMAINING` (0x8030:08, R337). -/
abbrev rebuildRemaining : Nat := 0x8030 * 256 + 8

/-- `REBUILD_RATE` (0x8030:09, R337). -/
abbrev rebuildRate : Nat := 0x8030 * 256 + 9

/-- `TAKEOVER_COUNT` (0x8030:0A, R337). -/
abbrev takeoverCount : Nat := 0x8030 * 256 + 10

/-- `RERUN_HOLD_TICKS` (0x8030:0B, R337). -/
abbrev rerunHoldTicks : Nat := 0x8030 * 256 + 11

/-- `CKPT_PHASE` (0x8100:01, R354). -/
abbrev ckptPhase : Nat := 0x8100 * 256 + 1

/-- `CKPT_CONTEXT` (0x8100:02, R354). -/
abbrev ckptContext : Nat := 0x8100 * 256 + 2

/-- `CKPT_REQUEST` (0x8100:03, R354). -/
abbrev ckptRequest : Nat := 0x8100 * 256 + 3

/-- `CKPT_PREEMPT_NOTICE` (0x8100:04, R354). -/
abbrev ckptPreemptNotice : Nat := 0x8100 * 256 + 4

/-- `CKPT_LEAD` (0x8100:05, R354). -/
abbrev ckptLead : Nat := 0x8100 * 256 + 5

/-- `CKPT_MIN_SPACING` (0x8100:06, R354). -/
abbrev ckptMinSpacing : Nat := 0x8100 * 256 + 6

/-- `CKPT_INCLUDE_PARITY` (0x8100:07, R354). -/
abbrev ckptIncludeParity : Nat := 0x8100 * 256 + 7

/-- `CKPT_DATA_POSITION` (0x8100:08, R354). -/
abbrev ckptDataPosition : Nat := 0x8100 * 256 + 8

/-- `CKPT_EW_ENABLE` (0x8110:01, R354). -/
abbrev ckptEwEnable : Nat := 0x8110 * 256 + 1

/-- `CKPT_EW_CE_LIMIT` (0x8110:02, R354). -/
abbrev ckptEwCeLimit : Nat := 0x8110 * 256 + 2

/-- `CKPT_EW_CRC_LIMIT` (0x8110:03, R354). -/
abbrev ckptEwCrcLimit : Nat := 0x8110 * 256 + 3

/-- `CKPT_EW_THERMAL_MARGIN` (0x8110:04, R354). -/
abbrev ckptEwThermalMargin : Nat := 0x8110 * 256 + 4

/-- `CKPT_EW_HOLDOFF` (0x8110:05, R354). -/
abbrev ckptEwHoldoff : Nat := 0x8110 * 256 + 5

/-- `CKPT_EW_STATUS` (0x8110:06, R354). -/
abbrev ckptEwStatus : Nat := 0x8110 * 256 + 6

/-- `CKPT_SHARD_ID` (0x8120:01, R354). -/
abbrev ckptShardId : Nat := 0x8120 * 256 + 1

/-- `CKPT_SHARD_COUNT` (0x8120:02, R354). -/
abbrev ckptShardCount : Nat := 0x8120 * 256 + 2

/-- `CKPT_REPLICA_INDEX` (0x8120:03, R354). -/
abbrev ckptReplicaIndex : Nat := 0x8120 * 256 + 3

/-- `CKPT_WRITER_RANK` (0x8120:04, R354). -/
abbrev ckptWriterRank : Nat := 0x8120 * 256 + 4

/-- `CKPT_CREW` (0x8120:05, R354). -/
abbrev ckptCrew : Nat := 0x8120 * 256 + 5

/-- `CKPT_SLOT_BYTES` (0x8120:06, R354). -/
abbrev ckptSlotBytes : Nat := 0x8120 * 256 + 6

/-- `CKPT_STATE` (0x8130:01, R354). -/
abbrev ckptState : Nat := 0x8130 * 256 + 1

/-- `CKPT_PENDING` (0x8130:02, R354). -/
abbrev ckptPending : Nat := 0x8130 * 256 + 2

/-- `CKPT_SLOT_STEP` (0x8130:03, R354). -/
abbrev ckptSlotStep : Nat := 0x8130 * 256 + 3

/-- `CKPT_LAST_STATUS` (0x8130:04, R354). -/
abbrev ckptLastStatus : Nat := 0x8130 * 256 + 4

/-- `CKPT_LAST_TICKS` (0x8130:05, R354). -/
abbrev ckptLastTicks : Nat := 0x8130 * 256 + 5

/-- `CKPT_COUNT` (0x8130:06, R354). -/
abbrev ckptCount : Nat := 0x8130 * 256 + 6

/-- `CKPT_MISSED_COUNT` (0x8130:07, R354). -/
abbrev ckptMissedCount : Nat := 0x8130 * 256 + 7

/-- `CKPT_PIN_WAIT_TICKS` (0x8130:08, R354). -/
abbrev ckptPinWaitTicks : Nat := 0x8130 * 256 + 8

/-- `CKPT_XFER_DESC` (0x8140:01, R354). -/
abbrev ckptXferDesc : Nat := 0x8140 * 256 + 1

/-- `CKPT_XFER_STATUS` (0x8140:02, R354). -/
abbrev ckptXferStatus : Nat := 0x8140 * 256 + 2

/-- `CKPT_XFER_BYTES` (0x8140:03, R354). -/
abbrev ckptXferBytes : Nat := 0x8140 * 256 + 3

/-- `CKPT_RESTORE` (0x8150:01, R354). -/
abbrev ckptRestore : Nat := 0x8150 * 256 + 1

/-- `CKPT_RESTORE_STATUS` (0x8150:02, R354). -/
abbrev ckptRestoreStatus : Nat := 0x8150 * 256 + 2

/-- `CKPT_RESTORED_STEP` (0x8150:03, R354). -/
abbrev ckptRestoredStep : Nat := 0x8150 * 256 + 3

/-- `CKPT_RESTORED_POSITION` (0x8150:04, R354). -/
abbrev ckptRestoredPosition : Nat := 0x8150 * 256 + 4

/-- `CKPT_STEPS_REFUSED` (0x8150:05, R354). -/
abbrev ckptStepsRefused : Nat := 0x8150 * 256 + 5

/-- `RNG_STATE` (0x9060-0x9063:01, R354). -/
abbrev rngState (i : Nat) : Nat := (0x9060 + i) * 256 + 1

/-- `CTX_REQUEST` (0x9000:01, R371). -/
abbrev ctxRequest : Nat := 0x9000 * 256 + 1

/-- `CTX_REQUEST_STATUS` (0x9000:02, R371). -/
abbrev ctxRequestStatus : Nat := 0x9000 * 256 + 2

/-- `MODULE_FAULT_PENDING` (0x9000:03, R371). -/
abbrev moduleFaultPending : Nat := 0x9000 * 256 + 3

/-- `MODULE_FAULT_SEQ` (0x9000:04, R371). -/
abbrev moduleFaultSeq : Nat := 0x9000 * 256 + 4

/-- `MODULE_FAULT_ACK` (0x9000:05, R371). -/
abbrev moduleFaultAck : Nat := 0x9000 * 256 + 5

/-- `CTX_STATE` (0x9020-0x9023:01, R371). -/
abbrev ctxState (i : Nat) : Nat := (0x9020 + i) * 256 + 1

/-- `CTX_HBM_QUOTA` (0x9020-0x9023:02, R371). -/
abbrev ctxHbmQuota (i : Nat) : Nat := (0x9020 + i) * 256 + 2

/-- `CTX_HBM_USED` (0x9020-0x9023:03, R371). -/
abbrev ctxHbmUsed (i : Nat) : Nat := (0x9020 + i) * 256 + 3

/-- `CTX_HBM_PEAK` (0x9020-0x9023:04, R371). -/
abbrev ctxHbmPeak (i : Nat) : Nat := (0x9020 + i) * 256 + 4

/-- `CTX_QUOTA_STALL_TICKS` (0x9020-0x9023:05, R371). -/
abbrev ctxQuotaStallTicks (i : Nat) : Nat := (0x9020 + i) * 256 + 5

/-- `CTX_RING_BASE` (0x9020-0x9023:06, R371). -/
abbrev ctxRingBase (i : Nat) : Nat := (0x9020 + i) * 256 + 6

/-- `CTX_STEP` (0x9020-0x9023:07, R371). -/
abbrev ctxStep (i : Nat) : Nat := (0x9020 + i) * 256 + 7

/-- `CTX_STEP_SET` (0x9020-0x9023:08, R371). -/
abbrev ctxStepSet (i : Nat) : Nat := (0x9020 + i) * 256 + 8

/-- `CTX_FAULT_PENDING` (0x9020-0x9023:09, R371). -/
abbrev ctxFaultPending (i : Nat) : Nat := (0x9020 + i) * 256 + 9

/-- `CTX_FAULT_SEQ` (0x9020-0x9023:0A, R371). -/
abbrev ctxFaultSeq (i : Nat) : Nat := (0x9020 + i) * 256 + 10

/-- `CTX_FAULT_ACK` (0x9020-0x9023:0B, R371). -/
abbrev ctxFaultAck (i : Nat) : Nat := (0x9020 + i) * 256 + 11

/-- `CTX_FAULT_CODE` (0x9020-0x9023:0C, R371). -/
abbrev ctxFaultCode (i : Nat) : Nat := (0x9020 + i) * 256 + 12

/-- `CTX_FAULT_COMMAND` (0x9020-0x9023:0D, R371). -/
abbrev ctxFaultCommand (i : Nat) : Nat := (0x9020 + i) * 256 + 13

/-- `CTX_FAULT_STEP` (0x9020-0x9023:0E, R371). -/
abbrev ctxFaultStep (i : Nat) : Nat := (0x9020 + i) * 256 + 14

/-- `CTX_TEARDOWNS` (0x9020-0x9023:0F, R371). -/
abbrev ctxTeardowns (i : Nat) : Nat := (0x9020 + i) * 256 + 15

/-- `CTX_GEN_SEQUENCES` (0x9020-0x9023:10, R371). -/
abbrev ctxGenSequences (i : Nat) : Nat := (0x9020 + i) * 256 + 16

/-- `CTX_SEQ_EXCESS` (0x9020-0x9023:11, R371). -/
abbrev ctxSeqExcess (i : Nat) : Nat := (0x9020 + i) * 256 + 17

/-- `EVENT_LOG` (0x9300:01, R371). -/
abbrev eventLog : Nat := 0x9300 * 256 + 1

/-- `EVENT_LOG_HEAD` (0x9300:02, R371). -/
abbrev eventLogHead : Nat := 0x9300 * 256 + 2

/-- `EVENT_ACK` (0x9300:03, R371). -/
abbrev eventAck : Nat := 0x9300 * 256 + 3

/-- `EVENT_UNREAD` (0x9300:04, R371). -/
abbrev eventUnread : Nat := 0x9300 * 256 + 4

/-- `EVENT_LOST` (0x9300:05, R371). -/
abbrev eventLost : Nat := 0x9300 * 256 + 5

/-- `COMPAT_LEVEL` (0x1010:01, R400). -/
abbrev compatLevel : Nat := 0x1010 * 256 + 1

/-- `COMPAT_LEVEL_IN_FORCE` (0x1010:02, R400). -/
abbrev compatLevelInForce : Nat := 0x1010 * 256 + 2

/-- `COMPAT_LEVEL_MAX` (0x1010:03, R400). -/
abbrev compatLevelMax : Nat := 0x1010 * 256 + 3

/-- `NUMERICS_LEVEL_IN_FORCE` (0x1010:04, R400). -/
abbrev numericsLevelInForce : Nat := 0x1010 * 256 + 4

/-- `FIELD_MAC` (0x1030:01, R400). -/
abbrev fieldMac : Nat := 0x1030 * 256 + 1

/-- `FIELD_IPV6_ADDR` (0x1030:02, R400). -/
abbrev fieldIpv6Addr : Nat := 0x1030 * 256 + 2

/-- `FIELD_IPV6_PREFIX` (0x1030:03, R400). -/
abbrev fieldIpv6Prefix : Nat := 0x1030 * 256 + 3

/-- `FIELD_IPV4_ENABLE` (0x1030:04, R400). -/
abbrev fieldIpv4Enable : Nat := 0x1030 * 256 + 4

/-- `FIELD_IPV4_ADDR` (0x1030:05, R400). -/
abbrev fieldIpv4Addr : Nat := 0x1030 * 256 + 5

/-- `DXP_PORT` (0x1030:06, R400). -/
abbrev dxpPort : Nat := 0x1030 * 256 + 6

/-- `DXP_ALLOW` (0x1030:07, R400). -/
abbrev dxpAllow : Nat := 0x1030 * 256 + 7

/-- `DXP_SESSIONS` (0x1030:08, R400). -/
abbrev dxpSessions : Nat := 0x1030 * 256 + 8

/-- `DXP_SESSION_TIMEOUT` (0x1030:09, R400). -/
abbrev dxpSessionTimeout : Nat := 0x1030 * 256 + 9

/-- `DXP_REFUSED_COUNT` (0x1030:0A, R400). -/
abbrev dxpRefusedCount : Nat := 0x1030 * 256 + 10

/-- `CONFIG_CRC_REF` (0x1F00:01, R400). -/
abbrev configCrcRef : Nat := 0x1F00 * 256 + 1

/-- `CONFIG_CRC` (0x1F00:02, R400). -/
abbrev configCrc : Nat := 0x1F00 * 256 + 2

/-- `CONFIG_CRC_STATE` (0x1F00:03, R400). -/
abbrev configCrcState : Nat := 0x1F00 * 256 + 3

/-- `CONFIG_CRC_GRACE` (0x1F00:04, R400). -/
abbrev configCrcGrace : Nat := 0x1F00 * 256 + 4

/-- `CONFIG_CRC_PASS_TIME` (0x1F00:05, R400). -/
abbrev configCrcPassTime : Nat := 0x1F00 * 256 + 5

/-- `MODULE_STATE` (0x1F10:01, R400). -/
abbrev moduleState : Nat := 0x1F10 * 256 + 1

/-- `STATE_REQUEST` (0x1F10:02, R400). -/
abbrev stateRequest : Nat := 0x1F10 * 256 + 2

/-- `STATE_STATUS` (0x1F10:03, R400). -/
abbrev stateStatus : Nat := 0x1F10 * 256 + 3

/-- `CMT_PENDING` (0x1F10:04, R400). -/
abbrev cmtPending : Nat := 0x1F10 * 256 + 4

/-- `WRITE_REFUSED_COUNT` (0x1F10:05, R400). -/
abbrev writeRefusedCount : Nat := 0x1F10 * 256 + 5

/-- `WRITE_LAST_REFUSED` (0x1F10:06, R400). -/
abbrev writeLastRefused : Nat := 0x1F10 * 256 + 6

/-- `BULK_SELECT` (0x1F20:01, R400). -/
abbrev bulkSelect : Nat := 0x1F20 * 256 + 1

/-- `BULK_COMMIT` (0x1F20:02, R400). -/
abbrev bulkCommit : Nat := 0x1F20 * 256 + 2

/-- `BULK_STATUS` (0x1F20:03, R400). -/
abbrev bulkStatus : Nat := 0x1F20 * 256 + 3

/-- `FW_BUNDLE_VERSION` (0x1004:01, R406). -/
abbrev fwBundleVersion : Nat := 0x1004 * 256 + 1

/-- `FW_MC_VERSION` (0x1004:02, R406). -/
abbrev fwMcVersion : Nat := 0x1004 * 256 + 2

/-- `FW_HUB_VERSION` (0x1004:03, R406). -/
abbrev fwHubVersion : Nat := 0x1004 * 256 + 3

/-- `FW_MICROCODE_VERSION` (0x1004:04, R406). -/
abbrev fwMicrocodeVersion : Nat := 0x1004 * 256 + 4

/-- `MEAS_MC_ROMSTAGE` (0x1100:01, R406). -/
abbrev measMcRomstage : Nat := 0x1100 * 256 + 1

/-- `MEAS_MC_FIRMWARE` (0x1100:02, R406). -/
abbrev measMcFirmware : Nat := 0x1100 * 256 + 2

/-- `MEAS_HUB_FIRMWARE` (0x1100:03, R406). -/
abbrev measHubFirmware : Nat := 0x1100 * 256 + 3

/-- `MEAS_TILE_MICROCODE` (0x1100:04, R406). -/
abbrev measTileMicrocode : Nat := 0x1100 * 256 + 4

/-- `MEAS_DEFAULTS` (0x1100:05, R406). -/
abbrev measDefaults : Nat := 0x1100 * 256 + 5

/-- `IDENTITY_PUBKEY` (0x1110:01, R406). -/
abbrev identityPubkey : Nat := 0x1110 * 256 + 1

/-- `IDENTITY_CERT` (0x1110:02, R406). -/
abbrev identityCert : Nat := 0x1110 * 256 + 2

/-- `QUOTE_NONCE` (0x1110:03, R406). -/
abbrev quoteNonce : Nat := 0x1110 * 256 + 3

/-- `QUOTE` (0x1110:04, R406). -/
abbrev quote : Nat := 0x1110 * 256 + 4

/-- `QUOTE_COUNT` (0x1110:05, R406). -/
abbrev quoteCount : Nat := 0x1110 * 256 + 5

/-- `INPUT_POWER` (0x2100:01, R408). -/
abbrev inputPower : Nat := 0x2100 * 256 + 1

/-- `INPUT_VOLTAGE` (0x2100:02, R408). -/
abbrev inputVoltage : Nat := 0x2100 * 256 + 2

/-- `AUX_VOLTAGE` (0x2100:03, R408). -/
abbrev auxVoltage : Nat := 0x2100 * 256 + 3

/-- `POWER_CAP` (0x2100:04, R408). -/
abbrev powerCap : Nat := 0x2100 * 256 + 4

/-- `POWER_CAP_IN_FORCE` (0x2100:05, R408). -/
abbrev powerCapInForce : Nat := 0x2100 * 256 + 5

/-- `POWER_THROTTLE_TICKS` (0x2100:06, R408). -/
abbrev powerThrottleTicks : Nat := 0x2100 * 256 + 6

/-- `ENERGY` (0x2100:07, R408). -/
abbrev energy : Nat := 0x2100 * 256 + 7

/-- `TEMP_SENSORS` (0x2200:01, R408). -/
abbrev tempSensors : Nat := 0x2200 * 256 + 1

/-- `THERMAL_LIMITS` (0x2200:02, R408). -/
abbrev thermalLimits : Nat := 0x2200 * 256 + 2

/-- `THERMAL_MARGIN` (0x2200:03, R408). -/
abbrev thermalMargin : Nat := 0x2200 * 256 + 3

/-- `THERMAL_STATE` (0x2200:04, R408). -/
abbrev thermalState : Nat := 0x2200 * 256 + 4

/-- `THERMAL_EMERGENCY_COUNT` (0x2200:05, R408). -/
abbrev thermalEmergencyCount : Nat := 0x2200 * 256 + 5

/-- `THERMAL_EMERGENCY_TICKS` (0x2200:06, R408). -/
abbrev thermalEmergencyTicks : Nat := 0x2200 * 256 + 6

/-- `FLASH_STATE` (0x8200:01, R410). -/
abbrev flashState : Nat := 0x8200 * 256 + 1

/-- `FLASH_SPARE_BLOCKS` (0x8200:02, R410). -/
abbrev flashSpareBlocks : Nat := 0x8200 * 256 + 2

/-- `FLASH_WEAR` (0x8200:03, R410). -/
abbrev flashWear : Nat := 0x8200 * 256 + 3

/-- `FLASH_BYTES_WRITTEN` (0x8200:04, R410). -/
abbrev flashBytesWritten : Nat := 0x8200 * 256 + 4

/-- `FLASH_PROGRAM_FAILS` (0x8200:05, R410). -/
abbrev flashProgramFails : Nat := 0x8200 * 256 + 5

/-- `START_STAGE` (0xA000:01, R411). -/
abbrev startStage : Nat := 0xA000 * 256 + 1

/-- `START_SAFE_STAGE` (0xA000:02, R411). -/
abbrev startSafeStage : Nat := 0xA000 * 256 + 2

/-- `START_DEGRADED` (0xA000:03, R411). -/
abbrev startDegraded : Nat := 0xA000 * 256 + 3

/-- `START_COUNT` (0xA000:04, R411). -/
abbrev startCount : Nat := 0xA000 * 256 + 4

/-- `START_TIME` (0xA000:05, R411). -/
abbrev startTime : Nat := 0xA000 * 256 + 5

/-- `START_FALLBACK` (0xA000:06, R411). -/
abbrev startFallback : Nat := 0xA000 * 256 + 6

/-- `START_FALLBACK_RESET` (0xA000:07, R411). -/
abbrev startFallbackReset : Nat := 0xA000 * 256 + 7

/-- `BIST_RESULT` (0xA010:01, R411). -/
abbrev bistResult : Nat := 0xA010 * 256 + 1

/-- `BIST_REFERENCE` (0xA010:02, R411). -/
abbrev bistReference : Nat := 0xA010 * 256 + 2

/-- `BIST_BUDGET` (0xA010:03, R411). -/
abbrev bistBudget : Nat := 0xA010 * 256 + 3

/-- `START_LOG` (0xA020:01, R411). -/
abbrev startLog : Nat := 0xA020 * 256 + 1

/-- `START_LOG_HEAD` (0xA020:02, R411). -/
abbrev startLogHead : Nat := 0xA020 * 256 + 2

/-- `HOST_LINK_GEN` (0xA100:01, R411). -/
abbrev hostLinkGen : Nat := 0xA100 * 256 + 1

/-- `HOST_LINK_WIDTH` (0xA100:02, R411). -/
abbrev hostLinkWidth : Nat := 0xA100 * 256 + 2

/-- `FIELD_LINK_UP` (0xA100:03, R411). -/
abbrev fieldLinkUp : Nat := 0xA100 * 256 + 3

end Key

end Sys2Proof.Machine
end

