-- ==== Sys2Proof/Machine/Ops.lean ====
section
/-! DEFINITION. The named operations over registers, memories, events and time that every command's meaning
shares: sparse canonical lists, the Object Dictionary's values, byte memories, the event log with its pending
masks (R365, R367), free values, and the passing of time (R290, R300). -/
namespace Sys2Proof.Machine

/-! ### Sparse lists: keys strictly rising, no entry equal to what an unlisted key reads as -/

/-- The value of a key, `d` where it is not listed. -/
def sparseGet {α : Type} (l : List (Nat × α)) (k : Nat) (d : α) : α :=
  match l with
  | [] => d
  | (a, x) :: t => if a = k then x else sparseGet t k d

/-- Store `v` at `k`; `d` is what the key reads as when not listed, and storing it removes the entry. -/
def sparseSet {α : Type} [DecidableEq α] (l : List (Nat × α)) (k : Nat) (v d : α) : List (Nat × α) :=
  match l with
  | [] => if v = d then [] else [(k, v)]
  | (a, x) :: t =>
    if k < a then (if v = d then (a, x) :: t else (k, v) :: (a, x) :: t)
    else if k = a then (if v = d then t else (k, v) :: t)
    else (a, x) :: sparseSet t k v d

/-- The canonical form of a sparse list whose keys are `lo` or above and whose key `k` reads `d k` when not listed. -/
def sparseWfFrom {α : Type} [DecidableEq α] (d : Nat → α) : Nat → List (Nat × α) → Bool
  | _, [] => true
  | lo, (a, x) :: t => decide (lo ≤ a) && (decide (x ≠ d a) && sparseWfFrom d (a + 1) t)

/-- The canonical form of a sparse list. -/
abbrev sparseWf {α : Type} [DecidableEq α] (d : Nat → α) (l : List (Nat × α)) : Bool := sparseWfFrom d 0 l

/-- First value of a key in a plain association list. -/
def assoc {α : Type} (l : List (Nat × α)) (k : Nat) : Option α :=
  (l.find? (fun p => p.1 == k)).map Prod.snd

/-- An association list without a key. -/
def assocDrop {α : Type} (l : List (Nat × α)) (k : Nat) : List (Nat × α) := l.filter (fun p => p.1 != k)

/-- An association list with a key's value replaced. -/
def assocPut {α : Type} (l : List (Nat × α)) (k : Nat) (v : α) : List (Nat × α) := (k, v) :: assocDrop l k

/-- Indices of a list. -/
def indexed {α : Type} (l : List α) : List (Nat × α) := (List.range l.length).zip l

/-- Runs of consecutive indices of a rising list, as (first, length). -/
def indexRuns : List Nat → List (Nat × Nat)
  | [] => []
  | e :: t =>
    match indexRuns t with
    | (f, n) :: r => if e + 1 = f then (e, n + 1) :: r else (e, 1) :: (f, n) :: r
    | [] => [(e, 1)]

/-- Insertion into a list sorted by `le`. -/
def insertBy {α : Type} (le : α → α → Bool) (x : α) : List α → List α
  | [] => [x]
  | y :: t => if le x y then x :: y :: t else y :: insertBy le x t

/-- Insertion sort, stable. -/
def sortBy {α : Type} (le : α → α → Bool) : List α → List α
  | [] => []
  | x :: t => insertBy le x (sortBy le t)

/-- Replace element `i` of a list. -/
def listSet {α : Type} (l : List α) (i : Nat) (v : α) : List α :=
  (l.zip (List.range l.length)).map (fun x => if x.2 = i then v else x.1)

/-- A list without repeats, first occurrences kept. -/
def dedup {α : Type} [BEq α] (l : List α) : List α :=
  (l.foldl (fun acc x => if acc.contains x then acc else x :: acc) []).reverse

/-! ### CRC-32C (R388) -/

/-- `n` bits of the reflected CRC register. -/
def crcBits : Nat → Nat → Nat
  | 0, c => c
  | n + 1, c => crcBits n (if c % 2 = 1 then (c / 2) ^^^ 0x82F63B78 else c / 2)

/-- The CRC register after a byte string. -/
def crcFrom (c : Nat) : List Byte → Nat
  | [] => c
  | b :: bs => crcFrom (crcBits 8 (c ^^^ b.toNat)) bs

/-- CRC-32C of a byte string. -/
def crc32c (l : List Byte) : Nat := crcFrom 0xFFFFFFFF l ^^^ 0xFFFFFFFF

/-! ### Dictionary values -/

/-- The value of a scalar entry (R372). -/
def State.reg (s : State) (k : Nat) : Nat := sparseGet s.regs k (dictDefault k)

/-- Set a scalar entry, at its width. -/
def State.setReg (s : State) (k v : Nat) : State :=
  { s with regs := sparseSet s.regs k (v % dictModulus k) (dictDefault k) }

/-- Add to a counter entry; past its width the value is free (log 7). -/
def State.bump (s : State) (k n : Nat) : State :=
  if n = 0 then s
  else if s.reg k + n < dictModulus k then s.setReg k (s.reg k + n)
  else s.setReg k (Config.counterOverflow k (s.reg k) n)

/-- Raise an entry to at least `v` (peaks). -/
def State.raise (s : State) (k v : Nat) : State := if s.reg k < v then s.setReg k v else s

/-- An I32 entry as a signed value. -/
def State.regI (s : State) (k : Nat) : Int := toSigned 32 (s.reg k)

/-- Set an I32 entry. -/
def State.setRegI (s : State) (k : Nat) (x : Int) : State := s.setReg k (ofSigned 32 x)

/-- The value in force of an entry: the value kept while a write of an RWC or CMT entry has not yet taken
effect, and otherwise the entry's value (R380, R381). -/
def State.force (s : State) (k : Nat) : Nat :=
  match assoc s.acc.rwc k with
  | some v => v
  | none =>
    match assoc s.acc.cmt k with
    | some p => p.1
    | none => s.reg k

/-- The default of the byte that a bulk key names: entry key·2^20 + offset. -/
def bulkDefaultAt (n : Nat) : Byte := bulkDefault (n / 2 ^ 20) (n % 2 ^ 20)

/-- Byte `off` of a STR, BLOB or TABLE entry. -/
def State.bulkByte (s : State) (k off : Nat) : Byte :=
  sparseGet s.bulk (k * 2 ^ 20 + off) (bulkDefaultAt (k * 2 ^ 20 + off))

/-- Set one byte of a STR, BLOB or TABLE entry. -/
def State.setBulkByte (s : State) (k off : Nat) (b : Byte) : State :=
  { s with bulk := sparseSet s.bulk (k * 2 ^ 20 + off) b (bulkDefaultAt (k * 2 ^ 20 + off)) }

/-- Bytes `off` to `off + n − 1` of a STR, BLOB or TABLE entry. -/
def State.bulkBytes (s : State) (k off n : Nat) : List Byte :=
  (List.range n).map (fun i => s.bulkByte k (off + i))

/-- Set bytes of a STR, BLOB or TABLE entry from `off` on. -/
def State.setBulk (s : State) (k off : Nat) : List Byte → State
  | [] => s
  | b :: bs => State.setBulk (s.setBulkByte k off b) k (off + 1) bs

/-- A little-endian field of `n` bytes of a bulk entry. -/
def State.bulkNat (s : State) (k off n : Nat) : Nat := leNat (s.bulkBytes k off n)

/-- A field of a bulk RWC entry as it is in force: of the value kept while a write has not yet taken effect (R380). -/
def State.bulkForce (s : State) (k off n : Nat) : Nat :=
  match assoc s.acc.rwcBulk k with
  | some bs => leNat ((bs.drop off).take n)
  | none => s.bulkNat k off n

/-! ### Byte memories -/

/-- What a byte of memory that nothing has written reads as: a frame is zero-filled when it is assigned (R155),
and the other memories start so too (log 2). -/
def memDefault (_ : Nat) : Byte := 0

/-- Byte of a memory. -/
def cellGet (m : List Host.Cell) (a : Nat) : Byte := sparseGet m a (memDefault a)

/-- Write one byte of a memory. -/
def cellSet (m : List Host.Cell) (a : Nat) (b : Byte) : List Host.Cell := sparseSet m a b (memDefault a)

/-- `n` bytes of a memory from `a` on. -/
def cellBytes (m : List Host.Cell) (a n : Nat) : List Byte := (List.range n).map (fun i => cellGet m (a + i))

/-- Write bytes of a memory from `a` on. -/
def cellWrite (m : List Host.Cell) (a : Nat) : List Byte → List Host.Cell
  | [] => m
  | b :: bs => cellWrite (cellSet m a b) (a + 1) bs

/-- Drop the entries of `n` bytes from `a` on: they read as unwritten again (zero-fill, R155). -/
def cellClear (m : List Host.Cell) (a n : Nat) : List Host.Cell :=
  m.filter (fun c => decide (c.1 < a) || decide (a + n ≤ c.1))

/-- Canonical form of a byte memory. -/
abbrev Memory.wf (m : List Host.Cell) : Bool := sparseWf memDefault m

/-- Change the memories. -/
def State.modMem (s : State) (f : Mem → Mem) : State := { s with mem := f s.mem }

/-- `n` bytes of module physical memory. -/
def State.memBytes (s : State) (a n : Nat) : List Byte := cellBytes s.mem.cells a n

/-- A little-endian field of module physical memory. -/
def State.memNat (s : State) (a n : Nat) : Nat := leNat (s.memBytes a n)

/-- Write module physical memory. -/
def State.memWrite (s : State) (a : Nat) (bs : List Byte) : State :=
  { s with mem := { s.mem with cells := cellWrite s.mem.cells a bs } }

/-! ### Parts of the state -/

/-- An index as a context number. -/
def ctxIndex? (n : Nat) : Option (Fin 4) := if h : n < 4 then some ⟨n, h⟩ else none

/-- An index as a port number. -/
def portIndex? (n : Nat) : Option (Fin 16) := if h : n < 16 then some ⟨n, h⟩ else none

/-- An index as a stack number. -/
def stackIndex? (n : Nat) : Option (Fin 8) := if h : n < 8 then some ⟨n, h⟩ else none

/-- The contexts in order. -/
def allCtx : List (Fin 4) := [0, 1, 2, 3]

/-- The queues in order. -/
def allQueues : List (Fin 8) := [0, 1, 2, 3, 4, 5, 6, 7]

/-- The ports in order. -/
def allPorts : List (Fin 16) := [0, 1, 2, 3, 4, 5, 6, 7, 8, 9, 10, 11, 12, 13, 14, 15]

/-- A context. -/
def State.ctx (s : State) (c : Fin 4) : Ctx := s.ctxs[c]

/-- Change a context. -/
def State.modCtx (s : State) (c : Fin 4) (f : Ctx → Ctx) : State := { s with ctxs := s.ctxs.set c (f s.ctxs[c]) }

/-- A queue of a context. -/
def State.queue (s : State) (c : Fin 4) (q : Fin 8) : Queue := (s.ctx c).queues[q]

/-- Change a queue. -/
def State.modQueue (s : State) (c : Fin 4) (q : Fin 8) (f : Queue → Queue) : State :=
  s.modCtx c (fun x => { x with queues := x.queues.set q (f x.queues[q]) })

/-- The entry taken at the head of a queue. -/
def State.run (s : State) (c : Fin 4) (q : Fin 8) : Option Run := (s.queue c q).run

/-- Set the entry taken at the head of a queue. -/
def State.setRun (s : State) (c : Fin 4) (q : Fin 8) (r : Option Run) : State :=
  s.modQueue c q (fun x => { x with run := r })

/-- Change the run of a queue, when there is one. -/
def State.modRun (s : State) (c : Fin 4) (q : Fin 8) (f : Run → Run) : State :=
  s.modQueue c q (fun x => { x with run := x.run.map f })

/-- A port. -/
def State.port (s : State) (p : Fin 16) : Port := s.ports[p]

/-- Change a port. -/
def State.modPort (s : State) (p : Fin 16) (f : Port → Port) : State := { s with ports := s.ports.set p (f s.ports[p]) }

/-- Change the fabric state. -/
def State.modFab (s : State) (f : Fabric → Fabric) : State := { s with fab := f s.fab }

/-- Change the coded state. -/
def State.modCoded (s : State) (f : Coded → Coded) : State := { s with coded := f s.coded }

/-- Change the checkpoint state. -/
def State.modCkpt (s : State) (f : Ckpt → Ckpt) : State := { s with ckpt := f s.ckpt }

/-- Change the dictionary's access logic. -/
def State.modAcc (s : State) (f : Access → Access) : State := { s with acc := f s.acc }

/-- Change the pools. -/
def State.modPools (s : State) (f : Pools → Pools) : State := { s with pools := f s.pools }

/-- Change the start-up state. -/
def State.modStart (s : State) (f : Start → Start) : State := { s with start := f s.start }

/-- Change the power state. -/
def State.modPower (s : State) (f : Power → Power) : State := { s with power := f s.power }

/-- Change the clocks. -/
def State.modTime (s : State) (f : Time → Time) : State := { s with time := f s.time }

/-- Fold a change over a list. -/
def State.forEach {α : Type} (s : State) (l : List α) (f : State → α → State) : State := l.foldl f s

/-- Answer the host. -/
def State.toHost (s : State) (o : HostOut) : State := { s with out := { s.out with host := s.out.host ++ [o] } }

/-- A free value: constrained by nothing (log 17). -/
def State.free (s : State) (place : Nat) : Nat × State :=
  (Config.freeValue place s.freeCount, { s with freeCount := s.freeCount + 1 })

/-! ### The address map and writes through the memory controllers (R146, R147, R153, R159) -/

/-- Regions of the module physical address space. -/
inductive Region | hbm | reserve (off : Nat) | store | hub | unpopulated | remote
  deriving DecidableEq, Repr

/-- Bytes of a stack, of a Reserve package. -/
abbrev stackBytes : Nat := 0x1800000000
abbrev packageBytes : Nat := 0x2000000000

/-- Region of a 52-bit address (R146). -/
def regionOf (a : Nat) : Region :=
  if 0x8000000000000 ≤ a then .remote
  else if a < 0xC000000000 then .hbm
  else if 0x10000000000 ≤ a ∧ a < 0x12000000000 then .reserve (a - 0x10000000000)
  else if 0x20000000000 ≤ a ∧ a < 0x20010000000 then .store
  else if 0x30000000000 ≤ a ∧ a < 0x30006000000 then .hub
  else .unpopulated

/-- Stack of an HBM address. -/
def stackOfAddr (a : Nat) : Nat := a / stackBytes

/-- The Reserve address that the window shows (R147). -/
def State.reserveAddr (s : State) (off : Nat) : Nat := s.reg Key.reserveWindowSelect * packageBytes + off

/-- Clear the poison of the code words that a write covers whole (R159). -/
def State.clearPoison (s : State) (a n : Nat) : State :=
  s.modMem (fun m => { m with poison := m.poison.filter (fun p => !(decide (a ≤ p) && decide (p + 64 ≤ a + n))) })

/-- 256-byte units that a write covers only in part (R153). -/
def partialUnits (a n : Nat) : List Nat :=
  ((List.range ((a % 256 + n + 255) / 256)).map (fun i => a / 256 * 256 + 256 * i)).filter
    (fun u => decide (u < a) || decide (a + n < u + 256))

/-- Errors in the units that a write rewrites are gone: it writes their protection bits anew (R153, log 116). -/
def State.clearUpsets (s : State) (a n : Nat) : State :=
  s.modMem (fun m => { m with upsets := m.upsets.filter (fun x =>
    decide (x.1 / 256 * 256 + 256 ≤ a) || decide (a + n ≤ x.1 / 256 * 256)) })

/-- A write through the memory controllers: read-modify-writes counted per stack, poison of covered words cleared,
scrub write-backs to the written units dropped (R153, R159, R164). -/
def State.busWrite (s : State) (a : Nat) (bs : List Byte) : State :=
  match regionOf a with
  | .hbm =>
    let s := s.forEach (partialUnits a bs.length) (fun s u => s.bump (Key.hbmRmwCount (stackOfAddr u)) 1)
    let s := s.modMem (fun m => { m with
      scrubFix := m.scrubFix.filter (fun x => decide (x / 256 * 256 + 256 ≤ a) || decide (a + bs.length ≤ x / 256 * 256)) })
    ((s.clearPoison a bs.length).clearUpsets a bs.length).memWrite a bs
  | .reserve off => s.modMem (fun m => { m with reserve := cellWrite m.reserve (s.reserveAddr off) bs })
  | .store => (s.clearUpsets a bs.length).memWrite a bs
  | _ => s

/-! ### Time -/

/-- The Global Counter's integer part (R290). -/
def State.tick (s : State) : Nat := s.time.gcTicks

/-- The Global Counter with its fraction, in 1/65,536 tick (R290). -/
def State.gc (s : State) : Nat := s.time.gcTicks * 65536 + s.time.gcFraction

/-- The module's own count of 10 ns ticks, which no trim and no step changes (R300). -/
def State.now (s : State) : Nat := s.time.now

/-- What `dt` ticks of the own tick clock add to the Global Counter under the rate trim, with the residue below
one fraction unit carried in 10^-9 units (R290). -/
def gcStep (trim : Int) (residue : Int) (dt : Nat) : Int × Int :=
  let x : Int := (dt : Int) * 65536 * trim + residue
  ((dt : Int) * 65536 + x / 1000000000, x % 1000000000)

/-- Let the counter run for `dt` ticks. -/
def Time.run (t : Time) (trim : Int) (dt : Nat) : Time :=
  if t.gcRunning then
    let g := gcStep trim t.gcResidue dt
    let v := (((t.gcTicks * 65536 + t.gcFraction : Nat) : Int) + g.1) % ((2 ^ 80 : Nat) : Int)
    { t with now := t.now + dt, gcTicks := v.toNat / 65536, gcFraction := v.toNat % 65536, gcResidue := g.2 }
  else { t with now := t.now + dt }

/-! ### Flits that leave a port (R207 to R210, R291) -/

/-- A port carries flits. -/
def State.portUp (s : State) (p : Nat) : Bool := s.reg (Key.portState p) == 5

/-- Credits that the headers of `n` flits return, one (class, VC) pair and at most 255 buffers a flit (R207, R208): what they
return, and what stays freed. -/
def takeFreed : Nat → List (Nat × Nat) → List (Nat × Nat) × List Nat
  | _, [] => ([], [])
  | n, (i, c) :: t =>
    if n = 0 ∨ c = 0 then
      let r := takeFreed n t
      (r.1, c :: r.2)
    else
      let r := takeFreed (n - 1) t
      ((i, min 255 c) :: r.1, (c - min 255 c) :: r.2)

/-- The credits that `n` flits leaving a port return, lowest (class, VC) pair first (log 126). -/
def State.takeReturns (s : State) (p : Fin 16) (n : Nat) : List (Nat × Nat) × State :=
  let fr := takeFreed n (indexed (s.port p).freed)
  (fr.1, s.modPort p (fun x => { x with freed := fr.2 }))

/-- The beacon that an IDLE flit carries: the counter as it leaves, and the source followed (R291). -/
def State.ownBeacon (s : State) : Beacon :=
  let src := s.reg Key.gcSource
  { ticks := s.time.gcTicks, fraction := s.time.gcFraction, stratum := s.reg Key.gcStratum, state := s.reg Key.gcState,
    coord := src % 65536, priority := src / 65536 % 256 }

/-- `n` IDLE flits leave a port (R208, R209). -/
def State.sendIdle (s : State) (p : Fin 16) (n : Nat) : State :=
  let r := s.takeReturns p n
  let s := r.2.modPort p (fun x => { x with sinceIdle := 0 })
  { s with out := { s.out with idle := s.out.idle ++ [IdleOut.mk p r.1 s.ownBeacon] } }

/-- `n` flits other than IDLE are about to leave a port: an IDLE flit goes first when there would be none in 4,096 (R209). -/
def State.countFlits (s : State) (p : Fin 16) (n : Nat) : State :=
  let s := if 4095 < (s.port p).sinceIdle + n then s.sendIdle p 1 else s
  s.modPort p (fun x => { x with sinceIdle := x.sinceIdle + n })

/-- Send a link control message: one LINK flit, with credits in its header (R208, R210, R223). -/
def State.sendLink (s : State) (p : Fin 16) (m : LinkMsg) : State :=
  let r := (s.countFlits p 1).takeReturns p 1
  let s := r.2.bump (Key.portFlitsTx p) 1
  { s with out := { s.out with link := s.out.link ++ [LinkOut.mk p r.1 m] } }

/-- Send an ABORT flit in place of the rest of a packet: it takes one flit buffer of the next hop, like a TAIL (R214). -/
def State.sendAbortFlit (s : State) (p : Fin 16) (tag tc vc : Nat) : State :=
  let r := (s.countFlits p 1).takeReturns p 1
  let s := r.2.bump (Key.portFlitsTx p) 1
  { s with out := { s.out with aborts := s.out.aborts ++ [AbortOut.mk p r.1 tag tc vc] } }

/-- Put a power cap in force (R409). -/
def State.setCap (s : State) (v : Nat) : State :=
  { s.setReg Key.powerCapInForce v with power := { s.power with capSince := s.time.now } }

/-! ### Events and pending masks (R362, R365, R367) -/

/-- Event severities. -/
abbrev sevInfo : Nat := 0
abbrev sevWarning : Nat := 1
abbrev sevRecovered : Nat := 2
abbrev sevContext : Nat := 3
abbrev sevModule : Nat := 4

/-- No context, command, step or entry in an event record. -/
abbrev noCtx : Nat := 0xFF
abbrev none32 : Nat := 0xFFFFFFFF

/-- The pending bit of a fault code (R362). -/
def faultBit : Nat → Nat
  | 0x10 => 0 | 0x11 => 1 | 0x20 => 2 | 0x21 => 3 | 0x22 => 4 | 0x23 => 5 | 0x24 => 6 | 0x25 => 7
  | 0x30 => 8 | 0x40 => 9 | 0x50 => 10 | 0x60 => 11 | 0x70 => 12 | 0x80 => 13 | 0x90 => 14 | _ => 31

/-- Sequence number comparison modulo 2^32 over a half range: `a` is at or before `b` (R367). -/
def seqLe (a b : Nat) : Bool := decide ((b + 2 ^ 32 - a % 2 ^ 32) % 2 ^ 32 < 2 ^ 31)

/-- The key of a pending mask: contexts 0 to 3, the module 4. -/
def maskKey (m : Nat) : Nat := if m < 4 then Key.ctxFaultPending m else Key.moduleFaultPending

/-- The context step an event record carries. -/
def State.stepOf (s : State) (c : Nat) : Nat :=
  match ctxIndex? c with
  | some i => (s.ctx i).step % 2 ^ 32
  | none => none32

/-- Records still held after the acknowledged sequence number (R368). -/
def State.eventUnread (s : State) : Nat :=
  (s.events.filter (fun e => !seqLe e.seq (s.reg Key.eventAck))).length

/-- Interrupts of an event: vector 4 + c or 8 when it sets a pending bit, vector 9 from severity WARNING (R438). -/
def eventVectors (mask : Option Nat) (sev : Nat) : List HostOut :=
  (match mask with | some m => [.msix (4 + m)] | none => []) ++ (if sev = 0 then [] else [.msix 9])

/-- Write one event record; `mask` names the pending mask whose bit the event sets (R365, R367, R368; log 49 on what the
places that log give as entry and value). -/
def State.logMask (s : State) (mask : Option Nat) (code sev c src cmd entry value : Nat) : State :=
  let head := s.reg Key.eventLogHead
  let seq := if head = 0xFFFFFFFF then 1 else head + 1
  let e : Event := { seq := seq, code := code, severity := sev, context := c, source := src, tick := s.tick,
                     step := s.stepOf c, command := cmd, entry := entry * 256, value := value % 2 ^ 32 }
  let lost := match s.events.getLast? with
    | some o => decide (s.events.length ≥ 4096) && !seqLe o.seq (s.reg Key.eventAck)
    | none => false
  let s := { s with events := (e :: s.events).take 4096 }
  let s := s.setReg Key.eventLogHead seq
  let s := if lost then s.bump Key.eventLost 1 else s
  let s := { s with out := { s.out with host := s.out.host ++ eventVectors mask sev } }
  match mask with
  | none => s
  | some m =>
    let b := faultBit code
    let v := s.reg (maskKey m)
    let s := if bit v b then s else s.setReg (maskKey m) (v + 2 ^ b)
    { s with faultSeq := (m, b, seq) :: s.faultSeq.filter (fun x => !(x.1 == m && x.2.1 == b)) }

/-- An event without a fault code. -/
def State.log (s : State) (sev c src cmd entry value : Nat) : State := s.logMask none 0 sev c src cmd entry value

/-- A fault event in a context's mask (R365). -/
def State.logCtx (s : State) (c code sev src cmd entry value : Nat) : State :=
  s.logMask (some c) code sev c src cmd entry value

/-- A fault event in the module's mask (R365). -/
def State.logModule (s : State) (code sev src entry value : Nat) : State :=
  s.logMask (some 4) code sev noCtx src none32 entry value

/-- Newest sequence number over the set bits of a mask, 0 with none (R365). -/
def State.faultSeqOf (s : State) (m : Nat) : Nat :=
  (s.faultSeq.filter (fun x => x.1 == m)).foldl (fun a x => if a = 0 || seqLe a x.2.2 then x.2.2 else a) 0

/-- Acknowledge a mask: clear the bits whose newest sequence number is `w` or earlier (R365). -/
def State.ackMask (s : State) (m w : Nat) : State :=
  let gone := s.faultSeq.filter (fun x => x.1 == m && seqLe x.2.2 w)
  let s := s.forEach gone (fun s x =>
    if bit (s.reg (maskKey m)) x.2.1 then s.setReg (maskKey m) (s.reg (maskKey m) - 2 ^ x.2.1) else s)
  { s with faultSeq := s.faultSeq.filter (fun x => !(x.1 == m && seqLe x.2.2 w)) }

/-! ### Module and context states (R355, R378) -/

abbrev stConfig : Nat := 1
abbrev stRun : Nat := 2
abbrev stSafe : Nat := 3
abbrev cxAbsent : Nat := 0
abbrev cxResident : Nat := 1
abbrev cxPreempted : Nat := 2
abbrev cxTearing : Nat := 3
abbrev cxFaulted : Nat := 4

/-- `MODULE_STATE` (R378). -/
def State.mstate (s : State) : Nat := s.reg Key.moduleState

/-- The hub runs: the core rails are up, and the module is not held in SAFE state, in which only the MC runs (R379, R417). -/
def State.hubUp (s : State) : Bool := s.power.railsOn && s.mstate != stSafe

/-- `CTX_STATE` (R355). -/
def State.cstate (s : State) (c : Fin 4) : Nat := s.reg (Key.ctxState c)

/-- A context holds its resources: RESIDENT or PREEMPTED (R355). -/
def State.holds (s : State) (c : Fin 4) : Bool := s.cstate c == cxResident || s.cstate c == cxPreempted

/-- Some context is RESIDENT. -/
def State.anyResident (s : State) : Bool := allCtx.any (fun c => s.cstate c == cxResident)

/-- No start is in progress: the module has reached ST10 or SAFE (R414, R418). -/
def State.started (s : State) : Bool := s.start.stage.isNone

end Sys2Proof.Machine
end

