-- ==== Sys2Proof/Machine/Clock.lean ====
section
/-! DEFINITION. The passing of time: the module's own tick clock and the Global Counter (R290, R300). -/
namespace Sys2Proof.Machine

/-- The ports in UP send IDLE flits between their other flits and whenever nothing else waits (R208, R209): one record of
`out.idle` stands for a run of them, which returns every credit freed (log 126). -/
def State.idlePorts (s : State) : State := s.forEach allPorts (fun s p => if s.portUp p then s.sendIdle p 16 else s)

/-- The NI refuses a transaction an engine has: 4,096 are outstanding, and one is held back, by the NI or by an async copy (R246,
log 146). -/
def State.niRefuses (s : State) : Bool :=
  decide (4096 ≤ s.fab.txns.length) &&
    (!s.fab.queued.isEmpty || allCtx.any (fun c => allQueues.any (fun q => match s.run c q with
      | some r => (match r.copy with | some k => !k.todo.isEmpty | none => false)
      | none => false)))

/-- Time passes on the clocks; it is counted while the NI refuses transactions at its bound, and during emergency throttling
(R246, R408). -/
def State.passTime (s : State) (dt : Nat) : State :=
  let s := if s.niRefuses then s.bump Key.niBoundStallTicks dt else s
  let s := if s.reg Key.thermalState = 1 then s.bump Key.thermalEmergencyTicks dt else s
  { s with time := s.time.run (s.regI Key.gcRateTrim) dt }

/-- `dt` ticks of the module's own tick clock pass. -/
def State.advance (s : State) (dt : Nat) : State := if dt = 0 then s else (s.passTime dt).idlePorts

end Sys2Proof.Machine
end

