-- ==== Sys2Proof/Machine/Fabric.lean ====
section
/-! DEFINITION. Fabric addressing, routing, flow control and the Network Interface's sending side (spec/12): own
address, rank translation, dimension-order routing with detours, credits, the choice of the next packet, multicast
split, transactions, failed addresses. -/
namespace Sys2Proof.Machine

/-! ### Addresses (R224, R225, R226) -/

def coordS (c : Nat) : Nat := c % 8
def coordX (c : Nat) : Nat := c / 8 % 16
def coordY (c : Nat) : Nat := c / 128 % 32
def coordZ (c : Nat) : Nat := c / 4096 % 16

/-- The address that stands for a rank whose entry is not valid: no coordinate (R225). -/
def noAddr : Addr := ⟨65536, 0⟩

/-- The module's coordinate: slot from the straps (R205). -/
def State.coord (s : State) : Nat := s.force Key.moduleCoord

/-- The module's own address; a hot spare sends as its attach host with the aux of the host port (R224). -/
def State.ownAddr (s : State) : Addr :=
  match s.fab.attach with
  | some a => a.2
  | none => ⟨s.coord, 0⟩

/-- Ring size of a dimension: 1 X, 2 Y, 3 Z (R204). -/
def State.ringSize (s : State) : Nat → Nat
  | 1 => s.force Key.torusSizeX
  | 2 => s.force Key.torusSizeY
  | 3 => s.force Key.torusSizeZ
  | _ => 8

/-- Coordinate in a dimension. -/
def coordIn (d c : Nat) : Nat :=
  match d with
  | 1 => coordX c
  | 2 => coordY c
  | 3 => coordZ c
  | _ => coordS c

/-- A rank table entry (R225). -/
def State.rankEntry (s : State) (r : Nat) : Nat := s.bulkNat Key.rankTable (4 * (r % 65536)) 4

/-- The address an entry of the form [17:16] aux, [15:0] coordinate names. -/
def addrOfWord (w : Nat) : Addr := ⟨w % 65536, w / 65536 % 4⟩

/-- The word of an address. -/
def wordOfAddr (a : Addr) : Nat := a.aux * 65536 + a.coord

/-- Translate a rank; `none` when its entry is not valid (R225). -/
def State.rankAddr (s : State) (r : Nat) : Option Addr :=
  let e := s.rankEntry r
  if bit e 31 then some (addrOfWord e) else none

/-- A destination is a member of the partition: its coordinate, or its attach host's (R226). -/
def State.isMember (s : State) (a : Addr) : Bool := s.fab.members.contains a.coord

def State.isFailed (s : State) (a : Addr) : Bool := s.fab.failed.contains a

/-! ### Link state (R230) -/

/-- Bit of the mesh link between two slots: pairs in lexicographic order (log 20). -/
def meshBit (a b : Nat) : Nat :=
  let lo := min a b
  let hi := max a b
  lo * (15 - lo) / 2 + (hi - lo - 1)

/-- A mesh link of the tray is DOWN in the module's link state. -/
def State.meshDown (s : State) (a b : Nat) : Bool := bit (s.fab.ringState.getD 0 0) (meshBit a b)

/-- The ring link between positions i and i + 1 of a dimension is DOWN (log 20). -/
def State.ringDown (s : State) (d i : Nat) : Bool := bit (s.fab.ringState.getD d 0) i

/-- Positions whose links an arc of `k` hops from `a` uses. -/
def arcLinks (n a k : Nat) (minus : Bool) : List Nat :=
  (List.range k).map (fun i => if minus then (a + n * 2 - i - 1) % n else (a + i) % n)

/-- Some link of an arc is DOWN. -/
def State.arcDown (s : State) (d a k : Nat) (minus : Bool) : Bool :=
  (arcLinks (s.ringSize d) a k minus).any (fun i => s.ringDown d i)

/-- Mesh port from slot `a` to slot `b`. -/
def meshPort (a b : Nat) : Nat := (b + 8 - a - 1) % 8

/-- The torus ports of a dimension and direction, with the second port of a doubled X link (R203, R204). -/
def torusPort (d : Nat) (minus : Bool) : Nat := 6 + 2 * d + (if minus then 1 else 0)

/-- The physical port for a ring hop: on a doubled X link odd parity of src XOR dst takes the second link, and the
other one when its own is down (R229). -/
def State.ringPort (s : State) (d : Nat) (minus : Bool) (src dst : Nat) : Nat :=
  let a := torusPort d minus
  let b := if minus then 15 else 14
  if d = 1 ∧ s.force (Key.portRole b) = (if minus then 4 else 3) ∧ s.portUp b ∧ bit (s.reg (Key.portFeatures b)) 1 then
    let odd := ((List.range 16).filter (fun i => bit src i != bit dst i)).length % 2 == 1
    if odd then b else if s.portUp a then a else b
  else a

/-! ### Routing (R229 to R232, R235) -/

/-- Where a packet leaves: a port with its virtual channel and whether it enters a ring, delivery here, no path, or a
straight hop that is DOWN. -/
inductive Route
  | out (port vc : Nat) (enters detour : Bool)
  | here
  | drop
  deriving DecidableEq, Repr

/-- The dimension and direction of a torus port: (0, _) for another port; L14 and L15 count as L8 and L9 (R232). -/
def portDim (p : Nat) : Nat × Bool :=
  match p with
  | 8 => (1, false) | 9 => (1, true) | 10 => (2, false) | 11 => (2, true) | 12 => (3, false) | 13 => (3, true)
  | 14 => (1, false) | 15 => (1, true) | _ => (0, false)

/-- Whether a port acts as a torus port: L14 and L15 only in their second-link roles. -/
def State.isTorus (s : State) (p : Nat) : Bool :=
  (decide (8 ≤ p) && decide (p ≤ 13)) ||
  ((p == 14 || p == 15) && (s.force (Key.portRole p) == 3 || s.force (Key.portRole p) == 4))

/-- Whether a port is a SPARE port in role. -/
def State.isSparePort (s : State) (p : Nat) : Bool := s.force (Key.portRole p) == 2

/-- Port of an attached spare's aux (R224). -/
def auxPort : Nat → Nat
  | 1 => 7 | 2 => 14 | _ => 15

/-- Virtual channel of a ring hop taken in a direction: in DATELINE mode VC1 from the dateline link to the end of the
dimension (R235). `straight` says the packet came along the same ring on `vc`. -/
def State.ringVc (s : State) (d : Nat) (minus straight : Bool) (vc : Nat) : Nat :=
  if s.fab.flowMode = 0 then 0
  else if !straight then 0
  else
    let here := coordIn d s.coord
    let crossed := if minus then here + 1 == s.ringSize d else here == 0
    if vc = 1 ∨ crossed then 1 else 0

/-- One ring hop in a direction. `straight` packets go on without a decision (R230). -/
def State.ringHop (s : State) (d : Nat) (minus straight detour : Bool) (vc src dst : Nat) : Route :=
  .out (s.ringPort d minus src dst) (s.ringVc d minus straight vc) (!straight) detour

/-- The routing decision at a turn into a ring (R229, R230). -/
def State.ringTurn (s : State) (d src dst : Nat) : Route :=
  let n := s.ringSize d
  let a := coordIn d s.coord
  let k := (coordIn d dst + n - a) % n
  let minus := !decide (k ≤ n / 2)
  let arc := if minus then n - k else k
  if !s.arcDown d a arc minus then s.ringHop d minus false false 0 src dst
  else if !s.arcDown d a (n - arc) (!minus) then s.ringHop d (!minus) false true 0 src dst
  else .drop

/-- Route towards an address; `inPort` is 16 for injection by the own NI, `vc` the packet's channel (R229, R230). A spare is reached over a
link both of whose ends attach spares (R212). -/
def State.route (s : State) (inPort vc : Nat) (src : Addr) (dst : Addr) : Route :=
  if dst = s.ownAddr then .here
  else
    match s.fab.attach with
    | some a => .out a.1 0 false false
    | none =>
      let c := s.coord
      let d := dst.coord
      if coordS c ≠ coordS d then
        if inPort ≤ 6 then
          -- the second hop of a mesh detour, straight on, on VC1
          if s.meshDown (coordS c) (coordS d) then .drop else .out (meshPort (coordS c) (coordS d)) 1 false false
        else if !s.meshDown (coordS c) (coordS d) then .out (meshPort (coordS c) (coordS d)) 0 false false
        else
          match (List.range 8).find? (fun u => u != coordS c && u != coordS d &&
              !s.meshDown (coordS c) u && !s.meshDown u (coordS d)) with
          | some u => .out (meshPort (coordS c) u) 0 false true
          | none => .drop
      else
        match [1, 2, 3].find? (fun k => coordIn k c != coordIn k d) with
        | none =>
          if dst.aux = 0 then .here
          else if bit (s.reg (Key.portFeatures (auxPort dst.aux))) 2 then .out (auxPort dst.aux) 0 false false
          else .drop
        | some k =>
          let pd := portDim inPort
          if s.isTorus inPort ∧ pd.1 = k then
            let minus := !pd.2
            let link := if minus then (coordIn k c + s.ringSize k - 1) % s.ringSize k else coordIn k c
            if s.ringDown k link then .drop else s.ringHop k minus true false vc src.coord d
          else s.ringTurn k src.coord d

/-- The far end of a port, for a straight torus packet entering on `p`: the opposite port of the dimension. -/
def oppositePort : Nat → Nat
  | 8 => 9 | 9 => 8 | 10 => 11 | 11 => 10 | 12 => 13 | 13 => 12 | 14 => 9 | 15 => 8 | p => p

/-! ### Packet sizes (R208, R228) -/

/-- Data bytes after the header, by service. -/
def bodyBytes : Body → Nat
  | .store _ d => d.length
  | .atomic .. => 16
  | .loadData _ _ d => d.length
  | .atomicData .. => 8
  | .landing _ _ _ _ _ first _ row => row.length + (if first = 0 then 16 else 0)
  | .mergeList _ _ _ _ l => 16 * l.length
  | .retRow _ _ _ _ first _ row => row.length + (if first = 0 then 16 else 0)
  | .mirror _ _ _ _ _ first _ d => d.length + (if first = 0 then 64 else 0)
  | .stroke _ _ _ _ _ _ w l => w * l.length + (if l.any (fun x => x.flags != 0) then (3 * l.length + 7) / 8 else 0)
  | .scan _ _ _ _ _ _ _ vs => (vs.map (fun v => 4 * v.counts.length + 9)).foldl (· + ·) 0
  | .parityDelta _ _ _ _ _ _ g => (g.map List.length).foldl (· + ·) 0
  | .decodeTerm _ _ _ d => d.length
  | .decodeData _ _ _ d => d.length
  | .rebuildStart .. => 32
  | .ckptTile _ _ _ _ d => d.length
  | _ => 0

/-- Flits of a packet: header, tree extension and data at 248 bytes a flit, at most 17 (R207, R208, R228). -/
def packetFlits (pk : Packet) : Nat :=
  let h := if pk.mode = 1 then 104 else 32
  min 17 ((h + bodyBytes pk.body + 247) / 248)

/-! ### Output ports: credits and choice (R233, R234, R236) -/

/-- Index of a (class, VC) pair. -/
def vcIndex (tc vc : Nat) : Nat := tc * 2 + vc

/-- A tag is enabled on a port's egress (R218, R219). -/
def State.egressOk (s : State) (p : Fin 16) (tag : Nat) : Bool := (s.port p).tags.any (fun t => t.tag == tag && t.egress)

/-- A tag is accepted on a port's ingress (R218). -/
def State.ingressOk (s : State) (p : Fin 16) (tag : Nat) : Bool := (s.port p).tags.any (fun t => t.tag == tag && t.ingress)

/-- Whether a waiting packet needs the bubble: it enters a ring in BUBBLE mode (R234). -/
def State.bubble (s : State) (w : Waiting) : Bool :=
  s.fab.flowMode == 0 && s.isTorus w.outPort && !(s.isTorus w.inPort && (portDim w.inPort).1 == (portDim w.outPort).1)

/-- A waiting packet may start on its port now. -/
def State.mayStart (s : State) (w : Waiting) : Bool :=
  match portIndex? w.outPort with
  | none => false
  | some p =>
    let cr := (s.port p).credits.getD (vcIndex w.pk.tc w.pk.vc) 0
    s.portUp w.outPort && s.egressOk p w.pk.tag && !bit (s.port p).resync 1 &&
      decide (w.flits + (if s.bubble w then 17 else 0) ≤ cr)

/-- What an exchange packet delivers: tag, token key, and the kind of its delivery (R143). -/
def landingKey : Body → Option (DelivTag × Nat × Nat)
  | .landing tag _ key _ _ _ _ _ => some (tag, key, 0)
  | .mergeList tag _ key down _ => some (tag, key, if down then 2 else 1)
  | .retRow tag _ key expert _ _ _ => some (tag, key, 3 + 4 * expert)
  | _ => none

/-- A landing of the exchange: it keeps its ingress credits until its buffer is granted (R135, R196). -/
def isLanding (b : Body) : Bool := (landingKey b).isSome

/-- Buffers freed on a port's ingress, to be returned as credits. -/
def State.freeBuffers (s : State) (inPort idx n : Nat) : State :=
  match portIndex? inPort with
  | none => s
  | some p => s.modPort p (fun x => { x with
      freed := listSet x.freed idx (x.freed.getD idx 0 + n), used := listSet x.used idx (x.used.getD idx 0 - n) })

/-- Two packets are copies of one packet, as a router or an exchange holds them. -/
def samePacket (a b : Packet) : Bool := a.src == b.src && a.txn == b.txn && a.tc == b.tc && a.attempt == b.attempt && a.body == b.body

/-- A packet that came in on a port still needs its input buffers: a copy has not left (R237), or its landing holds them (R196). -/
def State.stillHeld (s : State) (inPort : Nat) (pk : Packet) : Bool :=
  s.fab.waiting.any (fun x => x.inPort == inPort && samePacket x.pk pk) || s.fab.kept.any (fun x => x.1 == inPort && samePacket x.2 pk)

/-- The flits of the packets of one delivery give their ingress credits back, each on its own port, class and virtual channel, once
no copy of it waits (R135, R196). -/
def State.freeKept (s : State) (tag : DelivTag) (key kind : Nat) : State :=
  let mine := s.fab.kept.filter (fun x => landingKey x.2.body == some (tag, key, kind))
  let s := s.modFab (fun f => { f with kept := f.kept.filter (fun x => landingKey x.2.body != some (tag, key, kind)) })
  s.forEach mine (fun s x => if s.stillHeld x.1 x.2 then s else s.freeBuffers x.1 (vcIndex x.2.tc x.2.vc) (packetFlits x.2))

/-- The exchange packets of a context that is torn down give their ingress credits back (R201). -/
def State.freeKeptOf (s : State) (c : Nat) : State :=
  let of (x : Nat × Packet) : Bool := match landingKey x.2.body with | some k => k.1.ctx == c | none => false
  let mine := s.fab.kept.filter of
  let s := s.modFab (fun f => { f with kept := f.kept.filter (fun x => !of x) })
  s.forEach mine (fun s x => if s.stillHeld x.1 x.2 then s else s.freeBuffers x.1 (vcIndex x.2.tc x.2.vc) (packetFlits x.2))

/-- One packet delivered here gives its ingress credits back: the NI has not accepted it. -/
def State.freeRefused (s : State) (pk : Packet) : State :=
  let mine := s.fab.kept.filter (fun x => samePacket x.2 pk)
  let s := s.modFab (fun f => { f with kept := f.kept.filter (fun x => !samePacket x.2 pk) })
  s.forEach mine (fun s x => if s.stillHeld x.1 x.2 then s else s.freeBuffers x.1 (vcIndex x.2.tc x.2.vc) (packetFlits x.2))

/-- A packet is delivered to the NI; one of the exchange keeps its ingress buffers. -/
def State.deliverHere (s : State) (inPort : Nat) (pk whole : Packet) : State :=
  s.modFab (fun f => { f with
    netIn := f.netIn ++ [pk], kept := if isLanding pk.body && inPort != 16 then f.kept ++ [(inPort, whole)] else f.kept })

/-- Send a waiting packet: it runs to its TAIL, takes credits, and its input buffers are freed (R233). -/
def State.startPacket (s : State) (w : Waiting) : State :=
  match portIndex? w.outPort with
  | none => s
  | some p =>
    let i := vcIndex w.pk.tc w.pk.vc
    let fr := (s.countFlits p w.flits).takeReturns p w.flits
    let s := fr.2.modPort p (fun x => { x with credits := listSet x.credits i (x.credits.getD i 0 - w.flits) })
    let s := { s with out := { s.out with net := s.out.net ++ [NetOut.mk w.outPort fr.1 w.pk] } }
    let s := s.bump (Key.portFlitsTx w.outPort) w.flits
    let s := s.bump Key.frPacketsForwarded 1
    let s := s.modFab (fun f => { f with waiting := f.waiting.erase w })
    let s := if s.stillHeld w.inPort w.pk then s else s.freeBuffers w.inPort (vcIndex w.pk.tc w.inVc) w.flits
    match portIndex? w.inPort with
    | none => s
    | some q => s.modPort q (fun x => { x with inPacket := x.inPacket.map (fun ip =>
        if ip.pk.src == w.pk.src && ip.pk.txn == w.pk.txn && ip.pk.body == w.pk.body then
          { ip with outs := ip.outs ++ [w.outPort] } else ip) })

/-- Quantum of a class: 17 flits times its weight (R236). -/
def State.quantum (s : State) (tc : Nat) : Nat := 17 * (s.bulkNat Key.frTcWeight (tc - 1) 1)

/-- The next of `l` in round robin after input `rr`. -/
def nextRobin (l : List Waiting) (rr : Nat) : Option Waiting :=
  match l.find? (fun w => decide (rr < w.inPort)) with
  | some w => some w
  | none => l.head?

/-- The packet an output port starts next: TC0 first; then TC1 to TC4 by deficit, the class with credit left in its
quantum first in class order; within each class round robin over the inputs (R236). -/
def State.choose (s : State) (p : Fin 16) : Option Waiting :=
  let cand := sortBy (fun a b => decide (a.inPort ≤ b.inPort)) (s.fab.waiting.filter (fun w => w.outPort == p.val && s.mayStart w))
  let of (tc : Nat) := cand.filter (fun w => w.pk.tc == tc)
  match nextRobin (of 0) ((s.port p).rr.getD 0 0) with
  | some w => some w
  | none =>
    let ready := [1, 2, 3, 4].filter (fun tc => (of tc).any (fun w => decide (w.flits ≤ (s.port p).deficits.getD tc 0)))
    match ready.head? with
    | some tc => nextRobin ((of tc).filter (fun w => decide (w.flits ≤ (s.port p).deficits.getD tc 0))) ((s.port p).rr.getD tc 0)
    | none => none

/-- A new round of quanta for the classes with a packet that may start. -/
def State.addQuanta (s : State) (p : Fin 16) : State :=
  let cand := s.fab.waiting.filter (fun w => w.outPort == p.val && s.mayStart w)
  s.modPort p (fun x => { x with deficits := (List.range 5).map (fun tc =>
    if cand.any (fun w => w.pk.tc == tc) then x.deficits.getD tc 0 + s.quantum tc else 0) })

/-- Start packets on a port while any may start; `fuel` bounds the packets and rounds of quanta. -/
def State.pumpPort (s : State) (p : Fin 16) : Nat → State
  | 0 => s
  | fuel + 1 =>
    match s.choose p with
    | some w =>
      let s := s.startPacket w
      let s := s.modPort p (fun x => { x with
        rr := (List.range 5).map (fun tc => if tc = w.pk.tc then w.inPort else x.rr.getD tc 0), deficits := listSet x.deficits w.pk.tc (x.deficits.getD w.pk.tc 0 - w.flits) })
      State.pumpPort s p fuel
    | none =>
      if s.fab.waiting.any (fun w => w.outPort == p.val && s.mayStart w) then State.pumpPort (s.addQuanta p) p fuel else s

/-- Start every packet that may start. -/
def State.pump (s : State) : State :=
  s.forEach allPorts (fun s p => s.pumpPort p (2 * s.fab.waiting.length + 2))

/-! ### Placing a packet on its way -/

/-- Put one copy of a packet, which came in on virtual channel `inVc`, before its output port. -/
def State.queuePacket (s : State) (inPort inVc outPort : Nat) (pk : Packet) : State :=
  s.modFab (fun f => { f with waiting := f.waiting ++ [⟨inPort, inVc, outPort, pk, packetFlits pk⟩] })

/-- Drop a packet at this router: counted, credits returned (R230). -/
def State.dropHere (s : State) (inPort : Nat) (pk : Packet) (k : Nat) : State :=
  (s.bump k 1).freeBuffers inPort (vcIndex pk.tc pk.vc) (packetFlits pk)

/-- A packet on a torus port whose next hop goes straight on over a port that is not UP (R230). -/
def State.straightDown (s : State) (inPort p : Nat) : Bool :=
  !s.portUp p && inPort != 16 && s.isTorus inPort && (portDim inPort).1 == (portDim p).1

/-- Route one unicast packet that is at this router (R229 to R231). -/
def State.forward1 (s : State) (inPort : Nat) (pk : Packet) (d : Addr × Nat) : State :=
  match s.route inPort pk.vc pk.src d.1 with
  | .here =>
    let s := s.deliverHere inPort pk pk
    if isLanding pk.body then s else s.freeBuffers inPort (vcIndex pk.tc pk.vc) (packetFlits pk)
  | .drop => s.dropHere inPort pk Key.frUnroutableDrop
  | .out p vc _ detour =>
    let hop := pk.hops + 1
    if 64 < hop then s.dropHere inPort pk Key.frHopLimitDrop
    else
      let s := if detour then s.bump Key.frDetourCount 1 else s
      if s.straightDown inPort p then s.dropHere inPort pk Key.frUnroutableDrop
      else s.queuePacket inPort pk.vc p { pk with hops := hop, vc := vc }

/-- Group a tree packet's destinations by what this router does with them, in order of first appearance: each is routed as a unicast
at this point of its path would be, the parity of a doubled X link by the packet's own source (R229, R237; DEDUCED, log 137). -/
def State.treeGroups (s : State) (inPort : Nat) (pk : Packet) : List (Route × List (Addr × Nat)) :=
  let rs := pk.dsts.map (fun d => (s.route inPort pk.vc pk.src d.1, d))
  let keys := dedup (rs.map (fun r => match r.1 with | .out p vc _ _ => Route.out p vc false false | x => x))
  keys.map (fun k => (k, (rs.filter (fun r =>
    (match r.1 with | .out p vc _ _ => Route.out p vc false false | x => x) == k)).map Prod.snd))

/-- Some destination of a copy is reached by a detour. -/
def State.detours (s : State) (inPort : Nat) (pk : Packet) (ds : List (Addr × Nat)) : Bool :=
  ds.any (fun d => match s.route inPort pk.vc pk.src d.1 with | .out _ _ _ true => true | _ => false)

/-- Fork a tree packet (R237): a copy is treated as a unicast, so each that detours counts, one whose straight hop is DOWN is
discarded, and past 64 hops what would go on is discarded as one packet (R230, R231). -/
def State.forwardTree (s : State) (inPort : Nat) (pk : Packet) : State :=
  let groups := s.treeGroups inPort pk
  let goesOn := groups.any (fun g => match g.1 with | .out .. => true | _ => false)
  let hop := pk.hops + 1
  let s := if goesOn ∧ 64 < hop then s.bump Key.frHopLimitDrop 1 else s
  let s := s.forEach groups (fun s g =>
    match g.1 with
    | .here => s.deliverHere inPort { pk with dsts := g.2 } pk
    | .drop => s.bump Key.frUnroutableDrop 1
    | .out p vc _ _ =>
      if 64 < hop then s
      else
        let s := if s.detours inPort pk g.2 then s.bump Key.frDetourCount 1 else s
        if s.straightDown inPort p then s.bump Key.frUnroutableDrop 1
        else s.queuePacket inPort pk.vc p { pk with dsts := g.2, hops := hop, vc := vc })
  if s.stillHeld inPort pk then s else s.freeBuffers inPort (vcIndex pk.tc pk.vc) (packetFlits pk)

/-- Inject a packet of the own NI. -/
def State.inject (s : State) (pk : Packet) : State :=
  let s := if pk.mode = 1 then s.forwardTree 16 pk
    else match pk.dsts.head? with
      | some d => s.forward1 16 pk d
      | none => s
  s.pump

/-- Send a TC0 message to one address: unacknowledged, never retried (R227). -/
def State.sendControl (s : State) (dst : Addr) (ctx : Nat) (b : Body) : State :=
  s.inject { tag := s.reg Key.partitionTag, tc := 0, mode := 0, src := s.ownAddr, dsts := [(dst, 0)], ctx := ctx, body := b }

/-- Spans of the two copies of a ring line: ⌈(n−1)/2⌉ plus and ⌊(n−1)/2⌋ minus; a DOWN link on one arc gives the other
copy the span that reaches every module the first cannot (R239). -/
def State.lineSpans (s : State) (d : Nat) : Nat × Nat :=
  let n := s.ringSize d
  let a := coordIn d s.coord
  let p := (n - 1 + 1) / 2
  let m := (n - 1) / 2
  let firstDown (k : Nat) (minus : Bool) := (arcLinks n a k minus).findIdx? (fun i => s.ringDown d i)
  match firstDown p false, firstDown m true with
  | some i, none => (i, n - 1 - i)
  | none, some i => (n - 1 - i, i)
  | some i, some j => (i, j)
  | none, none => (p, m)

/-- A copy of a LINE packet leaves on a port; over a link that is DOWN it is discarded (R230). -/
def State.startLine (s : State) (p : Nat) (pk : Packet) : State :=
  if s.portUp p then s.queuePacket 16 0 p pk else s.bump Key.frUnroutableDrop 1

/-- Send a TC0 message along one line: the tray (0) or the ring of X, Y or Z (R239). It enters a ring on VC0 (R235). -/
def State.sendLine (s : State) (d : Nat) (b : Body) : State :=
  let pk : Packet := { tag := s.reg Key.partitionTag, tc := 0, mode := 2, src := s.ownAddr, dsts := [(s.ownAddr, 0)],
                       hops := 1, lineDim := d, body := b }
  let s := if d = 0 then
      s.forEach (List.range 7) (fun s p => s.startLine p { pk with span := 1 })
    else
      let sp := s.lineSpans d
      let here := s.ownAddr.coord
      let s := if sp.1 = 0 then s else s.startLine (s.ringPort d false here here) { pk with span := sp.1 }
      if sp.2 = 0 then s else s.startLine (s.ringPort d true here here) { pk with span := sp.2, minus := true }
  s.pump

/-! ### Transactions (R225, R226, R242, R243, R246) -/

/-- Outstanding transactions to an address, up to their last acknowledgement, response or failure; a tree packet counts once at each
of its destinations (R246). -/
def State.outstandingTo (s : State) (a : Addr) : Nat :=
  (s.fab.txns.filter (fun t => t.left.any (fun d => d.1 == a) || (match t.acked with | some x => x.2 == a | none => false))).length

/-- The next free 12-bit transaction tag. -/
def State.freeTag (s : State) : Nat :=
  match (List.range 4096).find? (fun i => !s.fab.txns.any (fun t => t.id == (s.fab.nextTxn + i) % 4096)) with
  | some i => (s.fab.nextTxn + i) % 4096
  | none => s.fab.nextTxn

/-- Take the next sequence number of the stream to an address in a class (R240). -/
def State.nextSeq (s : State) (a : Addr) (tc : Nat) : Nat × State :=
  match s.fab.sendStreams.find? (fun x => x.addr == a && x.tc == tc) with
  | some x => (x.next, s.modFab (fun f => { f with sendStreams := f.sendStreams.map (fun y =>
      if y.addr == a && y.tc == tc then { y with next := (y.next + 1) % 65536 } else y) }))
  | none => (0, s.modFab (fun f => { f with sendStreams := f.sendStreams ++ [⟨a, tc, 1, 0⟩] }))

/-- Sequence numbers for a list of destinations. -/
def State.nextSeqs (s : State) (tc : Nat) : List Addr → List (Addr × Nat) × State
  | [] => ([], s)
  | a :: l =>
    let r := s.nextSeq a tc
    let r' := State.nextSeqs r.2 tc l
    ((a, r.1) :: r'.1, r'.2)

/-- The owner of a transaction is told of a failure with a code. -/
def State.txnFailed (s : State) (o : TxnOwner) (code : Nat) (a : Addr) (piece : Nat) : State :=
  s.modFab (fun f => { f with fails := f.fails ++ [(o, code, a, piece)] })

/-- The packet of a transaction as it is sent. -/
def State.txnPacket (s : State) (t : Txn) : Packet :=
  { tag := s.reg Key.partitionTag, tc := t.tc, mode := (if t.tree then 1 else 0), src := s.ownAddr,
    dsts := t.left, txn := t.id, attempt := t.attempt, ctx := t.ctx, body := t.body }

/-- The NI at a bound: 4,096 outstanding, or 64 to one of the destinations (R246). -/
def State.atBound (s : State) (dsts : List Addr) : Bool :=
  decide (4096 ≤ s.fab.txns.length) || dsts.any (fun a => decide (64 ≤ s.outstandingTo a))

/-- First send of a transaction: tag, sequence numbers, packet. -/
def State.launchTxn (s : State) (t : Txn) : State :=
  let sq := s.nextSeqs t.tc (t.left.map Prod.fst)
  let s := sq.2
  let t := { t with id := s.freeTag, left := sq.1, attempt := 0, sentAt := s.now }
  let s := s.modFab (fun f => { f with txns := f.txns ++ [t], nextTxn := (t.id + 1) % 4096 })
  s.inject (s.txnPacket t)

/-- Code with which transactions to a failed address complete: HEARTBEAT_LOST after a notice, else RETRY_EXHAUSTED
(R243). -/
def State.failCode (s : State) (a : Addr) : Nat := if s.fab.noticed.contains a then 0x25 else 0x21

/-- Destinations of a delivery that may be sent: ones of a rank without a valid entry complete as failed (R225), refused ones complete as failed with RETRY_EXHAUSTED, ones marked
failed with the code of their mark, without being sent (R226, R243). -/
def State.screenDsts (s : State) (t : Txn) : State × List Addr :=
  t.left.foldl (fun (r : State × List Addr) d =>
    let s := r.1
    if d.1 = noAddr then (s.txnFailed t.owner 0x21 d.1 t.piece, r.2)
    else if !s.isMember d.1 then
      (((s.bump Key.niRefusedDest 1).log sevWarning noCtx 0x0A none32 Key.niRefusedDest (wordOfAddr d.1)).txnFailed
        t.owner 0x21 d.1 t.piece, r.2)
    else if s.isFailed d.1 then (s.txnFailed t.owner (s.failCode d.1) d.1 t.piece, r.2)
    else (s, r.2 ++ [d.1])) (s, [])

/-- The NI takes a transaction from an engine, or holds it at a bound (R246). -/
def State.submit (s : State) (t : Txn) : State :=
  let r := s.screenDsts t
  if r.2.isEmpty then r.1
  else
    let t := { t with left := r.2.map (fun a => (a, 0)) }
    if s.atBound r.2 || r.1.fab.queued.any (fun q => q.left.any (fun d => r.2.contains d.1)) then
      r.1.modFab (fun f => { f with queued := f.queued ++ [t] })
    else r.1.launchTxn t

/-- A transaction of one delivery. -/
def mkTxn (owner : TxnOwner) (ctx tc : Nat) (dsts : List Addr) (piece : Nat) (b : Body) : Txn :=
  { id := 0, ctx := ctx, tc := tc, left := dsts.map (fun a => (a, 0)), attempt := 0, sentAt := 0, owner := owner,
    acked := none, piece := piece, abandoned := false, tree := false, body := b }

/-- Send one delivery to one address. -/
def State.sendTo (s : State) (owner : TxnOwner) (ctx tc : Nat) (a : Addr) (piece : Nat) (b : Body) : State :=
  s.submit (mkTxn owner ctx tc [a] piece b)

/-- Output port under which a destination leaves this module, 17 for none (R238). -/
def State.leavesOn (s : State) (a : Addr) : Nat :=
  match s.route 16 0 s.ownAddr a with
  | .out p _ _ _ => p
  | .here => 16
  | .drop => 17

/-- Tree packets of a delivery: one while one packet carries its destinations (R237); more are grouped by output port, at most 16 a
packet in ascending address order (R238). -/
def State.treeSplit (s : State) (l : List Addr) : List (List Addr) :=
  let sorted := sortBy (fun a b => decide (wordOfAddr a ≤ wordOfAddr b)) (dedup l)
  if sorted.length ≤ 16 then (if sorted.isEmpty then [] else [sorted])
  else
    (dedup (sorted.map s.leavesOn)).flatMap (fun p =>
      let g := sorted.filter (fun a => s.leavesOn a == p)
      (List.range ((g.length + 15) / 16)).map (fun i => (g.drop (16 * i)).take 16))

/-- Send one delivery to many addresses by tree multicast (R237, R238); refused on a class without trees. -/
def State.sendTree (s : State) (owner : TxnOwner) (ctx tc : Nat) (l : List Addr) (piece : Nat) (b : Body) : State :=
  if tc = 1 ∨ tc = 2 then s.forEach (s.treeSplit l) (fun s g => s.submit { mkTxn owner ctx tc g piece b with tree := true })
  else (s.bump Key.niRefusedDest 1).forEach l (fun s a => s.txnFailed owner 0x21 a piece)

/-- Launch held transactions in order while no bound holds them; `fuel` bounds their number. -/
def State.niPump (s : State) : Nat → State
  | 0 => s
  | fuel + 1 =>
    match s.fab.queued.find? (fun t => !s.atBound (t.left.map Prod.fst)) with
    | none => s
    | some t => State.niPump ((s.modFab (fun f => { f with queued := f.queued.erase t })).launchTxn t) fuel

/-- A rank entry is replaced: the transactions to its old address that have not been injected take the new one, responses and SKIPs,
which go to an address, apart (R225). -/
def State.requeueRank (s : State) (old new : Addr) : State :=
  s.modFab (fun f => { f with queued := f.queued.map (fun t => match t.owner with
    | .response => t
    | .skipFor _ => t
    | _ => { t with left := t.left.map (fun d => if d.1 = old then (new, d.2) else d) }) })

/-- Held transactions are tried again. -/
def State.niResume (s : State) : State := s.niPump s.fab.queued.length

/-- Transactions of an owner not yet finished, sent or held. -/
def State.ownerBusy (s : State) (o : TxnOwner) : Bool :=
  s.fab.txns.any (fun t => t.owner == o && !t.abandoned) || s.fab.queued.any (fun t => t.owner == o)

/-- Withdraw an owner's transactions that have not been sent; abandon those that have when asked (R247, R360). -/
def State.withdraw (s : State) (o : TxnOwner) (abandon : Bool) : State :=
  s.modFab (fun f =>
    { f with queued := f.queued.filter (fun t => t.owner != o),
             txns := f.txns.map (fun t => if t.owner == o && abandon then { t with abandoned := true } else t) })

/-- A destination of a transaction is finished; the transaction ends with its last one unless it awaits a response. -/
def Txn.without (t : Txn) (a : Addr) : Txn := { t with left := t.left.filter (fun d => d.1 != a) }

/-- A request answered by a response: LOAD, or ATOMIC that returns its old value (R263). -/
def awaitsResponse : Body → Bool
  | .load .. => true
  | .atomic _ _ _ nr _ _ => !nr
  | _ => false

/-- A TC3 request of the memory fabric, applied at its target (R255, R256). -/
def isRequest : Body → Bool
  | .load .. => true
  | .store .. => true
  | .atomic .. => true
  | .signal .. => true
  | _ => false

/-- Remove finished transactions. -/
def State.reapTxns (s : State) : State :=
  (s.modFab (fun f => { f with txns := f.txns.filter (fun t =>
    !(t.left.isEmpty && !(awaitsResponse t.body && t.acked.isSome && !t.abandoned))) })).niResume

/-- Mark an address failed (R243): its outstanding transactions complete as failed with `code`, its streams are
discarded, the mark is listed. -/
def State.markFailed (s : State) (a : Addr) (code : Nat) : State :=
  let full := decide (256 ≤ s.fab.failed.length)
  let fresh := !s.isFailed a
  let s := if s.isFailed a then s else
    let s := if full then s.log sevWarning noCtx 0x0A none32 Key.niFailedAddresses (wordOfAddr a) else s
    s.modFab (fun f => { f with failed := (if full then f.failed.drop 1 else f.failed) ++ [a] })
  let s := if fresh || code == 0x25 then s.modFab (fun f => { f with noticed := f.noticed.filter (fun x => x != a) ++ (if code = 0x25 then [a] else []) }) else s
  let hit := s.fab.txns.filter (fun t => t.left.any (fun d => d.1 == a) ||
    (match t.acked with | some x => x.2 == a | none => false))
  let s := s.forEach hit (fun s t => if t.abandoned then s else s.txnFailed t.owner code a t.piece)
  let s := s.modFab (fun f => { f with txns := (f.txns.filter (fun t =>
                                         match t.acked with | some x => x.2 != a | none => true)).map (fun t => t.without a),
                                       sendStreams := f.sendStreams.filter (fun x => x.addr != a),
                                       recvStreams := f.recvStreams.filter (fun x => x.addr != a),
                                       unapplied := f.unapplied.filter (fun x => x.1 != a) })
  let held := s.fab.queued.filter (fun t => t.left.any (fun d => d.1 == a))
  let s := s.forEach held (fun s t => s.txnFailed t.owner code a t.piece)
  let s := s.modFab (fun f => { f with queued := (f.queued.map (fun t => t.without a)).filter (fun t => !t.left.isEmpty) })
  s.reapTxns

/-- Next number an ACK of a source's stream names: a request accepted and not yet applied is not acknowledged (R241, R256). -/
def State.ackNext (s : State) (x : Stream) : Nat :=
  match s.fab.unapplied.find? (fun y => x.tc == 3 && y.1 == x.addr) with
  | some y => y.2
  | none => x.next

/-- Acknowledge a source's stream: TC0 ACK with the next expected number and the bitmap (R241). -/
def State.sendAck (s : State) (a : Addr) (tc : Nat) : State :=
  match s.fab.recvStreams.find? (fun x => x.addr == a && x.tc == tc) with
  | some x => s.sendControl a 0 (.ack [(tc, s.ackNext x, x.bitmap)])
  | none => s.sendControl a 0 (.ack [(tc, 0, 0)])

end Sys2Proof.Machine
end

