-- ==== Sys2Proof/Machine/Frames.lean ====
section
/-! DEFINITION. HBM frames and object copies (spec/09, R155, R169 to R174): free frames of a stack, the layout of a
HOT copy, zero-fill on assignment, releasing, versions, and reading and writing an object's bytes. -/
namespace Sys2Proof.Machine

/-- Bytes of a frame, frames of a stack, frames of HBM (R146, R155). -/
abbrev frameBytes : Nat := 65536
abbrev stackFrames : Nat := 0x180000
abbrev hbmFrames : Nat := 0xC00000

/-- The image buffer's frames: 4 GiB at 0x0_00B0_0000_0000 (R23, R149). -/
abbrev bufferFirst : Nat := 0xB00000
abbrev bufferCount : Nat := 0x10000

/-! ### Free frames -/

/-- The lowest frame from `f` on where `n` frames in a row meet no extent; extents in rising order. -/
def gapFrom : List Extent → Nat → Nat → Nat
  | [], f, _ => f
  | e :: t, f, n => if f + n ≤ e.first then f else gapFrom t (max f (e.first + e.count)) n

/-- Insert an extent in rising order, joined to a neighbour of the same holder and class. -/
def extentInsert (l : List Extent) (x : Extent) : List Extent :=
  match l with
  | [] => [x]
  | e :: t =>
    if e.first + e.count = x.first ∧ e.holder = x.holder ∧ e.check = x.check then
      { e with count := e.count + x.count } :: t
    else if x.first < e.first then x :: e :: t
    else e :: extentInsert t x

/-- Extents without one frame. -/
def extentRemove (l : List Extent) (f : Nat) : List Extent :=
  match l with
  | [] => []
  | e :: t =>
    if e.first ≤ f ∧ f < e.first + e.count then
      (if e.first < f then [{ e with count := f - e.first }] else []) ++
      (if f + 1 < e.first + e.count then [{ e with first := f + 1, count := e.first + e.count - f - 1 }] else []) ++ t
    else e :: extentRemove t f

/-- Whether the image buffer lies in a stack: it does in H7. -/
def bufferExtent : Extent := ⟨bufferFirst, bufferCount, 0, .coded 0xFF⟩

/-- Extents with the image buffer, in rising order. -/
def Mem.used (m : Mem) : List Extent := extentInsert m.extents bufferExtent

/-- Lowest start of `n` free frames in a row on stack `st`, `none` when it has no such stretch. -/
def Mem.stretch (m : Mem) (st n : Nat) : Option Nat :=
  let f := gapFrom m.used (st * stackFrames) n
  if f + n ≤ (st + 1) * stackFrames then some f else none

/-- Free frames of a stack. -/
def Mem.freeOn (m : Mem) (st : Nat) : Nat :=
  stackFrames - ((m.used).foldl (fun n e =>
    n + (min (e.first + e.count) ((st + 1) * stackFrames) - max e.first (st * stackFrames))) 0)

/-- The stack with the most free frames, the lower index winning a tie (R174). -/
def Mem.mostFree (m : Mem) : Nat :=
  ((List.range 8).foldl (fun (b : Nat × Nat) st => if b.2 < m.freeOn st then (st, m.freeOn st) else b) (0, m.freeOn 0)).1

/-! ### Layout (R171, R174) -/

/-- `QUARTERED` (R170). -/
def ObjRec.quartered (o : ObjRec) : Bool := bit o.tiles 4

def ObjRec.isExpert (o : ObjRec) : Bool := bit o.flags 0
def ObjRec.perContext (o : ObjRec) : Bool := bit o.flags 1
def ObjRec.coded (o : ObjRec) : Bool := bit o.flags 2

/-- Tiles of `n` bytes. -/
def tilesOf (n : Nat) : Nat := (n + frameBytes - 1) / frameBytes

/-- Tiles of an object, each part tiled on its own when quartered (R171). -/
def ObjRec.tileCount (o : ObjRec) : Nat := if o.quartered then 4 * tilesOf (o.size / 4) else tilesOf o.size

/-- The near stacks of the tiles a mask names, lowest tile first. -/
def nearStacks (mask : Nat) : List Nat :=
  ((List.range 4).filter (fun t => bit mask t)).flatMap (fun t => [2 * t, 2 * t + 1])

/-- Preferred stack of tile `j` (over all parts): `none` for the stack with most free frames (R174). -/
def ObjRec.stackOf (o : ObjRec) (j : Nat) : Option Nat :=
  let per := tilesOf (o.size / 4)
  let part := if o.quartered then j / per else 0
  let jj := if o.quartered then j % per else j
  let near := nearStacks (o.tiles % 16)
  let asNear := if o.quartered then 2 * part + jj % 2 else near.getD (jj % near.length) 0
  match o.placement with
  | 0 => some (if o.quartered || !near.isEmpty then asNear else jj % 8)
  | 1 => some (if o.quartered || !near.isEmpty then asNear else jj % 8)
  | 2 => some (jj % 8)
  | _ => none

/-- Take one frame on the preferred stack, else on the stack with most free frames (then the tile counts in
`PLACE_FAR_TILES`), zero-filled in its class. -/
def Mem.takeFrame (m : Mem) (want : Option Nat) (check : Nat) (h : Holder) : Option (Nat × Bool × Mem) :=
  let st := match want with
    | some st => if (m.stretch st 1).isSome then st else m.mostFree
    | none => m.mostFree
  match m.stretch st 1 with
  | none => none
  | some f =>
    some (f, (match want with | some w => w != st | none => false),
      { m with extents := extentInsert m.extents ⟨f, 1, check, h⟩, cells := cellClear m.cells (f * frameBytes) frameBytes,
               poison := m.poison.filter (fun a => a / frameBytes != f),
               upsets := m.upsets.filter (fun x => x.1 / frameBytes != f) })

/-- Frames for tiles whose preferred stacks are listed; also how many lie away from them. -/
def Mem.takeFrames (m : Mem) (check : Nat) (h : Holder) : List (Option Nat) → Option (List Nat × Nat × Mem)
  | [] => some ([], 0, m)
  | w :: ws =>
    match m.takeFrame w check h with
    | none => none
    | some (f, far, m) =>
      match Mem.takeFrames m check h ws with
      | none => none
      | some (fs, n, m) => some (f :: fs, n + (if far then 1 else 0), m)

/-- Release frames: they become free and hold nothing (R31). -/
def Mem.releaseFrames (m : Mem) (fs : List Nat) : Mem :=
  fs.foldl (fun m f =>
    { m with extents := extentRemove m.extents f, cells := cellClear m.cells (f * frameBytes) frameBytes,
             poison := m.poison.filter (fun a => a / frameBytes != f),
             upsets := m.upsets.filter (fun x => x.1 / frameBytes != f) }) m

/-- Take frames for a copy of an object. -/
def State.takeObject (s : State) (o : ObjRec) (h : Holder) : Option (List Nat × State) :=
  match s.mem.takeFrames o.protection h ((List.range o.tileCount).map o.stackOf) with
  | none => none
  | some (fs, far, m) => some (fs, ({ s with mem := m }).bump Key.placeFarTiles far)

/-! ### Objects of the image -/

/-- The record of a handle. -/
def State.objRec (s : State) (h : Nat) : Option ObjRec :=
  match s.image with
  | some im => im.objects[h]?
  | none => none

/-- The context that owns the instance a command of context `c` uses: its own for a `PER_CONTEXT` object. -/
def State.ownerOf (s : State) (h c : Nat) : Nat :=
  match s.objRec h with
  | some o => if o.perContext then c else 4
  | none => 4

/-- The instance of an object that context `c` uses. -/
def State.inst (s : State) (h c : Nat) : Option ObjInst :=
  s.mem.objects.find? (fun i => i.handle == h && i.owner == s.ownerOf h c)

/-- Change the instances of a handle and owner. -/
def State.modInst (s : State) (h o : Nat) (f : ObjInst → ObjInst) : State :=
  s.modMem (fun m => { m with objects := m.objects.map (fun i => if i.handle == h && i.owner == o then f i else i) })

/-- The frame-relative place of byte `off` of a copy: tile and byte within it (R171). -/
def ObjRec.tileAt (o : ObjRec) (off : Nat) : Nat × Nat :=
  if o.quartered then
    let ps := o.size / 4
    (off / ps * tilesOf ps + off % ps / frameBytes, off % ps % frameBytes)
  else (off / frameBytes, off % frameBytes)

/-- The object offset at which tile `j` begins, and its bytes. -/
def ObjRec.tileSpan (o : ObjRec) (j : Nat) : Nat × Nat :=
  if o.quartered then
    let ps := o.size / 4
    let per := tilesOf ps
    (j / per * ps + j % per * frameBytes, min frameBytes (ps - j % per * frameBytes))
  else (j * frameBytes, min frameBytes (o.size - j * frameBytes))

/-- Module physical address of byte `off` of a version, in the Working Store where a schedule placed it there, `none` past
its end (R66, R171). -/
def Version.addr (v : Version) (o : ObjRec) (off : Nat) : Option Nat :=
  if off < o.size then
    match v.store.find? (fun x => decide (x.1 ≤ off ∧ off < x.1 + x.2.1)) with
    | some x => some (x.2.2 + (off - x.1))
    | none =>
      let t := o.tileAt off
      (v.frames[t.1]?).map (fun f => f * frameBytes + t.2)
  else none

/-- An address lies in what a version holds: one of its frames, or a part of it in a Working Store. -/
def Version.holds (v : Version) (a : Nat) : Bool :=
  (decide (a < 0xC000000000) && v.frames.contains (a / frameBytes)) ||
    v.store.any (fun x => decide (x.2.2 < a / 256 * 256 + 256 ∧ a / 256 * 256 < x.2.2 + x.2.1))

/-- Byte `off` of a REMOTE object from its staged copy, or from the ring of a streamed fetch (R185, R186). -/
def State.stagedByte (s : State) (o : ObjRec) (h off : Nat) : Byte :=
  let t := o.tileAt off
  match s.mem.stagings.find? (fun g => g.handle == h && g.tiles.contains t.1) with
  | none => 0
  | some g =>
    if g.streamed then cellGet g.ring off
    else match (g.tiles.zip g.frames).find? (fun x => x.1 == t.1) with
      | some x => cellGet s.mem.cells (x.2 * frameBytes + t.2)
      | none => 0

/-- Byte `off` of the committed version a command of context `c` reads: the HOT copy, else the decompressed content
of the lower copy (R24, R169, R183). -/
def State.objByte (s : State) (h c off : Nat) : Byte :=
  match s.objRec h, s.inst h c with
  | some o, some i =>
    match i.hot with
    | some v => match v.addr o off with
      | some a => cellGet s.mem.cells a
      | none => 0
    | none => match i.low with
      | some l => cellGet l.cells off
      | none => s.stagedByte o h off
  | _, _ => 0

/-- Bytes of the committed version. -/
def State.objBytes (s : State) (h c off n : Nat) : List Byte := (List.range n).map (fun i => s.objByte h c (off + i))

/-- Byte `off` of a given version. -/
def State.verByte (s : State) (o : ObjRec) (v : Version) (off : Nat) : Byte :=
  match v.addr o off with
  | some a => cellGet s.mem.cells a
  | none => 0

/-- The whole content of a version as object bytes that differ from zero; what lies in a Working Store, the oldest part
first, in place of the frames' bytes. -/
def State.verCells (s : State) (o : ObjRec) (v : Version) : List Host.Cell :=
  let inFrames := ((List.range o.tileCount).map (fun j =>
    let sp := o.tileSpan j
    match v.frames[j]? with
    | none => []
    | some f =>
      ((s.mem.cells.filter (fun c => decide (f * frameBytes ≤ c.1) && decide (c.1 < f * frameBytes + sp.2))).map
        (fun c => (sp.1 + (c.1 - f * frameBytes), c.2))))).flatten
  v.store.reverse.foldl (fun m x =>
    (List.range (min x.2.1 (o.size - x.1))).foldl (fun m i => cellSet m (x.1 + i) (cellGet s.mem.cells (x.2.2 + i))) m) inFrames

/-- Put content into the frames of a version, whole tiles at a time. -/
def State.verFill (s : State) (o : ObjRec) (v : Version) (cs : List Host.Cell) : State :=
  s.forEach cs (fun s c => match v.addr o c.1 with
    | some a => s.memWrite a [c.2]
    | none => s)

/-! ### HBM held by a context (R358, R359) -/

/-- Frames the `PER_CONTEXT` HOT copies of a context hold. -/
def State.ctxHotFrames (s : State) (c : Nat) : Nat :=
  (s.mem.extents.filter (fun e => match e.holder with | .object _ o => o == c | _ => false)).foldl (fun n e => n + e.count) 0

/-- Frames its staged versions hold. -/
def State.ctxStagedFrames (s : State) (c : Nat) : Nat :=
  (s.mem.extents.filter (fun e => match e.holder with | .staged x _ => x == c | _ => false)).foldl (fun n e => n + e.count) 0

/-- Report `CTX_HBM_USED` and `CTX_HBM_PEAK` (R359). -/
def State.noteHbm (s : State) (c : Fin 4) : State :=
  let used := (s.ctxHotFrames c + s.ctxStagedFrames c) * frameBytes
  (s.setReg (Key.ctxHbmUsed c) used).raise (Key.ctxHbmPeak c) used

/-! ### Compressed copies (R182) -/

/-- Bytes a RAW compressed tile of `n` bytes occupies: header, payload, whole 256-byte units. -/
def rawStored (n : Nat) : Nat := (32 + n + 255) / 256 * 256

/-- Bytes a compressed tile occupies: the payload of a coding method is not given (log 13); a tile the method cannot
store in fewer than 65,536 bytes is stored RAW. Answers also the method used. -/
def codecStored (codec : Nat) (content : List Byte) : Nat × Nat :=
  if codec = 0 then (rawStored content.length, 0)
  else
    let n := rawStored (Config.codecPayload codec content).length
    if n < 65536 then (n, codec) else (rawStored content.length, 0)

/-- A compressed copy of given content, with the number of its tiles that a coding method could not store. -/
def lowCopyOf (h : Nat) (o : ObjRec) (t : Tier) (cs : List Host.Cell) (step : Nat) (prod : Option (Nat × Nat)) : LowCopy × Nat :=
  let sizes := (List.range o.tileCount).map (fun j =>
    let sp := o.tileSpan j
    codecStored o.codec ((List.range sp.2).map (fun i => cellGet cs (sp.1 + i))))
  ({ handle := h, tier := t, cells := cs, stored := sizes.map Prod.fst, methods := sizes.map Prod.snd, poisoned := [], step := step,
     prod := prod }, (sizes.filter (fun x => x.2 != o.codec)).length)

/-- The tile field of a header: the tile in the object, or in the part of a `QUARTERED` one (R182). -/
def ObjRec.tileField (o : ObjRec) (j : Nat) : Nat :=
  let per := tilesOf (o.size / 4)
  if o.quartered then j / per * 2 ^ 30 + j % per else j

/-- The 32-byte header of a compressed tile (table "Compressed tile header"). -/
def tileHeader (method stored handle tile step : Nat) (content : List Byte) : List Byte :=
  leBytes 1 method ++ leBytes 1 0 ++ leBytes 2 (content.length - 1) ++ leBytes 4 stored ++ leBytes 4 handle ++ leBytes 4 tile ++
    leBytes 4 step ++ leBytes 4 (crc32c content) ++ leBytes 8 0

/-- The bytes of a compressed tile: header, payload, zeros to a whole number of 256-byte units (R182, log 13). -/
def compressedTile (codec handle tile step : Nat) (content : List Byte) : List Byte :=
  let x := codecStored codec content
  let b := tileHeader x.2 x.1 handle tile step content ++ (if x.2 = 0 then content else Config.codecPayload x.2 content)
  b ++ List.replicate (x.1 - b.length) 0

/-- The header of tile `j` of a compressed copy. -/
def LowCopy.header (l : LowCopy) (o : ObjRec) (j : Nat) : List Byte :=
  let sp := o.tileSpan j
  tileHeader (l.methods.getD j 0) (l.stored.getD j 0) l.handle (o.tileField j) l.step
    ((List.range sp.2).map (fun i => cellGet l.cells (sp.1 + i)))

/-- Bytes a lower copy occupies. -/
def LowCopy.bytes (l : LowCopy) : Nat := l.stored.foldl (· + ·) 0

/-- Count what writing a lower copy programs into the Local Flash Store (R410). -/
def State.noteProgrammed (s : State) (l : LowCopy) : State :=
  if l.tier = .cold then s.bump Key.flashBytesWritten l.bytes else s

/-- Recompute `HOT_BYTES`, `WARM_BYTES` and `COLD_BYTES` (R188). -/
def State.noteTiers (s : State) : State :=
  let hot := s.mem.objects.foldl (fun n i => match i.hot with | some v => n + v.frames.length * frameBytes | none => n) 0
  let sum (t : Tier) := s.mem.objects.foldl (fun n i => match i.low with
    | some l => if l.tier = t then n + l.bytes else n
    | none => n) 0
  ((s.setReg Key.hotBytes hot).setReg Key.warmBytes (sum .warm)).setReg Key.coldBytes (sum .cold)

end Sys2Proof.Machine
end

