-- ==== Sys2Proof/Machine/Crews.lean ====
section
/-! DEFINITION. Crews (spec/14): member addresses and positions, the stages of a plan with the members a member
sends to and receives from, signatures, abort precedence and abort notices. -/
namespace Sys2Proof.Machine

/-! ### Members and positions (R267, R268, R272) -/

/-- A crew of the loaded image. -/
def State.crew? (s : State) (i : Nat) : Option Crew :=
  match s.image with
  | some im => im.crews[i]?
  | none => none

/-- This module's member index, all ones when it is not a member (R268). -/
def State.selfIndex (s : State) (i : Nat) : Nat := s.reg (Key.crewSelfIndex i)

/-- Address of a member: its coordinate, or the address its rank maps to (R225, R268). -/
def State.memberAddr (s : State) (cr : Crew) (m : Nat) : Option Addr :=
  match cr.members[m]? with
  | none => none
  | some e => if cr.addressing = 1 then s.rankAddr (e % 65536) else some (addrOfWord (e % 2 ^ 18))

/-- Address of a member for a delivery: none for a rank whose entry is not valid, which fails (R225). -/
def State.addrTo (s : State) (cr : Crew) (m : Nat) : Addr := (s.memberAddr cr m).getD noAddr

/-- Index of the list entry that is this module's own; both entries are taken as they are written when the image loads (R268,
log 78). -/
def State.findSelf (s : State) (cr : Crew) : Nat :=
  let own := if cr.addressing = 1 then s.reg Key.crewSelfRank else s.reg Key.moduleCoord
  match cr.members.findIdx? (fun e => (if cr.addressing = 1 then e % 65536 else e) == own) with
  | some i => i
  | none => none32

/-- Stage sizes: 0 tray, 1 X, 2 Y, 3 Z. -/
def Crew.size (cr : Crew) : Nat → Nat
  | 0 => cr.ds | 1 => cr.dx | 2 => cr.dy | _ => cr.dz

/-- Distance in member index between neighbouring positions of a stage. -/
def Crew.step (cr : Crew) : Nat → Nat
  | 0 => 1 | 1 => cr.ds | 2 => cr.ds * cr.dx | _ => cr.ds * cr.dx * cr.dy

/-- Position of member `i` in a stage (R272). -/
def Crew.pos (cr : Crew) (i st : Nat) : Nat := i / cr.step st % cr.size st

/-- The member at position `p` of `i`'s group of a stage. -/
def Crew.atPos (cr : Crew) (i st p : Nat) : Nat := i - cr.pos i st * cr.step st + p * cr.step st

/-! ### Partners (R273, R274, R275) -/

/-- First position of the minus arc: m = ⌊D ÷ 2⌋ + 1 (R273). -/
def arcSplit (d : Nat) : Nat := d / 2 + 1

/-- The neighbour towards position 0 along the arcs of a tree stage; none for position 0. -/
def towardRoot (d x : Nat) : Option Nat :=
  if x = 0 then none else if x < arcSplit d then some (x - 1) else some ((x + 1) % d)

/-- The neighbours away from position 0 along the arcs of a tree stage. -/
def awayFromRoot (d x : Nat) : List Nat :=
  let m := arcSplit d
  if x = 0 then (if 1 < m ∧ 1 < d then [1] else []) ++ (if m < d then [d - 1] else [])
  else if x < m then (if x < m - 1 then [x + 1] else [])
  else if m < x then [x - 1] else []

/-- How a stage of a plan works. -/
inductive StageKind | direct | ringScatter | ringGather | tree | treeDown (root : Nat) | all
  deriving DecidableEq, Repr

/-- Positions a position receives from in one stage. -/
def recvPos (k : StageKind) (d x : Nat) : List Nat :=
  if d ≤ 1 then []
  else match k with
    | .direct => (List.range d).filter (· != x)
    | .all => (List.range d).filter (· != x)
    | .ringScatter => [(x + d - 1) % d]
    | .ringGather => [(x + d - 1) % d]
    | .tree => (towardRoot d x).toList ++ awayFromRoot d x
    | .treeDown r => (towardRoot d ((x + d - r) % d)).toList.map (fun y => (y + r) % d)

/-- Positions a position sends to in one stage. -/
def sendPos (k : StageKind) (d x : Nat) : List Nat :=
  if d ≤ 1 then []
  else match k with
    | .direct => (List.range d).filter (· != x)
    | .all => (List.range d).filter (· != x)
    | .ringScatter => [(x + 1) % d]
    | .ringGather => [(x + 1) % d]
    | .tree => (towardRoot d x).toList ++ awayFromRoot d x
    | .treeDown r => (awayFromRoot d ((x + d - r) % d)).map (fun y => (y + r) % d)

/-- Operation codes of COLLECTIVE records (R270); 7 is a count exchange. -/
abbrev opAllReduce : Nat := 1
abbrev opReduceScatter : Nat := 2
abbrev opAllGather : Nat := 3
abbrev opBroadcast : Nat := 4
abbrev opAllToAll : Nat := 5
abbrev opBarrier : Nat := 6
abbrev opCount : Nat := 7

/-- Stages of a plan for member `i`, in order, with the stage index (R273). `tree` chooses the tree plan of ALL_REDUCE.
A broadcast stage concerns only the members that share the root's positions in the later-running stages. -/
def Crew.stages (cr : Crew) (op : Nat) (tree : Bool) (root i : Nat) : List (Nat × StageKind) :=
  if op = opReduceScatter then [(0, .direct), (1, .ringScatter), (2, .ringScatter), (3, .ringScatter)]
  else if op = opAllGather then [(3, .ringGather), (2, .ringGather), (1, .ringGather), (0, .direct)]
  else if op = opAllReduce ∧ !tree then
    [(0, .direct), (1, .ringScatter), (2, .ringScatter), (3, .ringScatter),
     (3, .ringGather), (2, .ringGather), (1, .ringGather), (0, .direct)]
  else if op = opBroadcast then
    let same (st : Nat) := cr.pos i st == cr.pos root st
    (if same 0 && same 1 && same 2 then [(3, StageKind.treeDown (cr.pos root 3))] else []) ++
    (if same 0 && same 1 then [(2, StageKind.treeDown (cr.pos root 2))] else []) ++
    (if same 0 then [(1, StageKind.treeDown (cr.pos root 1))] else []) ++ [(0, .direct)]
  else if op = opAllToAll then []
  else [(0, .direct), (1, .tree), (2, .tree), (3, .tree)]

/-- Members that send data to member `i` in a plan (R275). -/
def Crew.senders (cr : Crew) (op : Nat) (tree : Bool) (root i : Nat) : List Nat :=
  if op = opAllToAll then (List.range cr.members.length).filter (· != i)
  else dedup ((cr.stages op tree root i).flatMap (fun st =>
    if op = opBroadcast ∧ st.1 = 0 then
      (if cr.size 0 ≤ 1 ∨ cr.pos i 0 = cr.pos root 0 then [] else [cr.atPos i 0 (cr.pos root 0)])
    else (recvPos st.2 (cr.size st.1) (cr.pos i st.1)).map (cr.atPos i st.1)))

/-- Members that member `i` sends data to in a plan. -/
def Crew.receivers (cr : Crew) (op : Nat) (tree : Bool) (root i : Nat) : List Nat :=
  if op = opAllToAll then (List.range cr.members.length).filter (· != i)
  else dedup ((cr.stages op tree root i).flatMap (fun st =>
    if op = opBroadcast ∧ st.1 = 0 then
      (if cr.size 0 ≤ 1 ∨ cr.pos i 0 ≠ cr.pos root 0 then [] else
        ((List.range (cr.size 0)).filter (· != cr.pos i 0)).map (cr.atPos i 0))
    else (sendPos st.2 (cr.size st.1) (cr.pos i st.1)).map (cr.atPos i st.1)))

/-- Stage partners and ring neighbours of a plan: every member it exchanges with and the neighbours of its rings
(R280). -/
def Crew.partners (cr : Crew) (op : Nat) (tree : Bool) (root i : Nat) : List Nat :=
  let rings := [1, 2, 3].flatMap (fun st =>
    let d := cr.size st
    if d ≤ 1 then [] else [cr.atPos i st ((cr.pos i st + 1) % d), cr.atPos i st ((cr.pos i st + d - 1) % d)])
  (dedup (cr.senders op tree root i ++ cr.receivers op tree root i ++ rings)).filter (· != i)

/-- ALL_REDUCE runs the tree plan (R273). -/
def State.useTree (s : State) (cr : Crew) (r : CollRec) : Bool :=
  r.op == opAllReduce && decide (r.elements * 8 ≤ (if cr.treeMax = 0 then s.force Key.collTreeMax else cr.treeMax))

/-! ### Numerics modes (R52) -/

/-- The anchor record of a handle (R48). -/
def State.anchorRec (s : State) (h : Nat) : Option Anchor :=
  match s.image with
  | some im => im.anchors.find? (fun a => a.handle == h)
  | none => none

/-- The anchor of a handle; 0 where the image has no record, which a load that needs it refuses. -/
def State.anchorOf (s : State) (h : Nat) : Int :=
  match s.anchorRec h with
  | some a => a.anchor
  | none => 0

/-- Effective mode of an accumulation into handle `h` by a command: 1 DEFAULT, 2 STRICT, 3 BF16_FAST (R52). -/
def State.effMode (s : State) (cmd : Command) (h : Nat) : Nat :=
  let am := match s.anchorRec h with
    | some a => a.mode
    | none => 0
  let strictDefault := match s.image with
    | some im => bit im.header.flags 1
    | none => false
  if s.force Key.strictForce = 1 then 2
  else if bit cmd.flags 0 then 2
  else if am = 2 then 2
  else if am = 1 then 1
  else if am = 3 ∧ cmd.kind = 3 ∧ s.force Key.bf16FastAllow = 1 then 3
  else if strictDefault then 2
  else 1

/-! ### Signatures (R275) -/

/-- Build a signature. -/
def signature (op fmt out mode anchor elements : Nat) : Nat :=
  op * 2 ^ 60 + fmt * 2 ^ 56 + out * 2 ^ 52 + mode * 2 ^ 50 + anchor * 2 ^ 32 + elements

/-- Signature of a COLLECTIVE. -/
def State.collSignature (s : State) (cmd : Command) (r : CollRec) : Nat :=
  let red := decide (r.op = opAllReduce ∨ r.op = opReduceScatter)
  let h := cmd.outputs.headD none32
  let anchor := if red then ofSigned 16 (s.anchorOf h) else if r.op = opBroadcast then r.root else 0
  signature r.op r.format r.outFormat (if red then s.effMode cmd h else 0) anchor r.elements

/-- Signature of a ledger round or merge of a layer's count exchange. -/
def countSignature (experts : Nat) : Nat := signature opCount 6 0 0 0 experts

/-! ### Plans of a running crew command -/

/-- A kind that acts over a crew: EXCHANGE or COLLECTIVE (R25). -/
def Command.isCrew (c : Command) : Bool := c.kind == 2 || c.kind == 3

/-- Operation, plan choice and root of a command over its crew. -/
def State.planOf (s : State) (cr : Crew) (cmd : Command) : Nat × Bool × Nat :=
  match cmd.param with
  | .collective r => (r.op, s.useTree cr r, r.root)
  | _ => (opCount, true, 0)

/-- Partners of this module in a command's plan. -/
def State.partnersOf (s : State) (cmd : Command) : List Nat :=
  match s.crew? cmd.target with
  | none => []
  | some cr =>
    let p := s.planOf cr cmd
    cr.partners p.1 p.2.1 p.2.2 (s.selfIndex cmd.target)

/-! ### Aborts (R279, R280) -/

/-- Precedence of abort codes, 1 the highest; 0 for a code that is none (R280). -/
def abortRank : Nat → Nat
  | 0x70 => 1 | 0x24 => 2 | 0x50 => 3 | 0x25 => 4 | 0x21 => 5 | 0x23 => 6 | 0x22 => 7 | _ => 0

/-- Final codes: every member raises them (R280). -/
def abortFinal (code : Nat) : Bool := code == 0x70 || code == 0x24

/-- Send CREW_ABORT to the partners of a command's plan, except addresses marked failed (R280). -/
def State.sendAbort (s : State) (c : Nat) (cmd : Command) (cr : CrewRun) (origin code : Nat) : State :=
  match s.crew? cmd.target with
  | none => s
  | some crew => s.forEach (s.partnersOf cmd) (fun s m =>
      match s.memberAddr crew m with
      | some a => if s.isFailed a then s else s.sendControl a c (.crewAbort cmd.target origin cr.inst cr.attempt code)
      | none => s)

/-- Crews with a command between entry and commit or abort, helpers included (R288). -/
def State.activeCrews (s : State) : List Nat :=
  dedup (allCtx.flatMap (fun c =>
    (allQueues.filterMap (fun q => match s.run c q with
      | some r => if r.cmd.isCrew && (r.phase == .running || r.phase == .atCommit) then r.crew.map CrewRun.crew else none
      | none => none)) ++
    ((s.ctx c).helped.filterMap (fun h => h.run.map CrewRun.crew))))

/-- Report `CREWS_ACTIVE`. -/
def State.noteCrews (s : State) : State := s.setReg Key.crewsActive s.activeCrews.length

end Sys2Proof.Machine
end

