-- ==== Sys2Proof/Machine/Elementary.lean ====
section
/-! DEFINITION. The exact values the Vector Unit's functions are held to within 2 units in the last place (R60), to far more
bits than a binary32 result has: every result is a magnitude and a power of two whose relative error is below 2^-80. -/
namespace Sys2Proof.Machine

/-- Fraction bits of the fixed-point numbers used here. -/
abbrev fixBits : Nat := 256

/-- 1 as a fixed-point number. -/
abbrev fixOne : Nat := 2 ^ 256

/-- ln 2, log2 e and pi with 256 fraction bits, 2/pi with 448. -/
def fixLn2 : Nat := 0xb17217f7d1cf79abc9e3b39803f2f6af40f343267298b62d8a0d175b8baafa2b
def fixLog2e : Nat := 0x171547652b82fe1777d0ffda0d23a7d11d6aef551bad2b4b1164a2cd9a342648f
def fixPi : Nat := 0x3243f6a8885a308d313198a2e03707344a4093822299f31d0082efa98ec4e6c89
def twoOverPi : Nat := 0xa2f9836e4e441529fc2757d1f534ddc0db6295993c439041fe5163abdebbc561b7246e3a424dd2e006492eea09d1921cfe1deb1cb129a73e

/-- A power series in `t`: the sum of `n` terms from `term` on, each the one before times t·t^(step-1)/(k·…), where `next` gives
the divisor of the step from term `k`. -/
def fixSeries (t : Nat) (next : Nat → Nat) : Nat → Nat → Nat → Nat
  | 0, _, _ => 0
  | n + 1, k, term => term + fixSeries t next n (k + 1) (term * t / fixOne / next k)

/-- 2^f for a fraction f, as a fixed-point number of 1 to 2. -/
def fixExp2 (f : Nat) : Nat := fixSeries (f * fixLn2 / fixOne) id 70 1 fixOne

/-- The sum of t^(2k+1)/(2k+1) over `n` terms: `p` is the power reached. -/
def fixAtanh (t2 : Nat) : Nat → Nat → Nat → Nat
  | 0, _, _ => 0
  | n + 1, k, p => p / k + fixAtanh t2 n (k + 2) (p * t2 / fixOne)

/-- The alternating series of sine and cosine: `sign` of the next term, `t2` the angle squared. -/
def fixTrig (t2 : Nat) : Nat → Nat → Nat → Int
  | 0, _, _ => 0
  | n + 1, k, term => (term : Int) - fixTrig t2 n (k + 2) (term * t2 / fixOne / ((k + 1) * (k + 2)))

/-- Integer square root by Newton's steps from above. -/
def rootStep (x : Nat) : Nat → Nat → Nat
  | 0, y => y
  | n + 1, y => rootStep x n ((y + x / y) / 2)

def isqrt (x : Nat) : Nat := rootStep x 24 (2 ^ (Nat.log2 x / 2 + 1))

/-- A value of a function: its sign, magnitude and power of two; `none` where there is none or it is past any binary32. -/
abbrev FnValue : Type := Option (Bool × Nat × Int)

/-- A value a little below m · 2^e. -/
def justBelow (neg : Bool) (m : Nat) (e : Int) : FnValue := some (neg, m * 2 ^ 200 - 1, e - 200)

/-- Floor and fraction of ±m · 2^e, the fraction in fixed point; values of 2^12 and more give that bound. -/
def fixSplit (neg : Bool) (m : Nat) (e : Int) : Int × Nat :=
  let big := decide (12 ≤ (Nat.log2 m : Int) + e)
  let x : Nat := if big then 4096 * fixOne else if 0 ≤ e then m * 2 ^ e.toNat * fixOne else m * fixOne / 2 ^ (-e).toNat
  let v : Int := if neg then -(x : Int) else (x : Int)
  (v / (fixOne : Int), (v % (fixOne : Int)).toNat)

/-- 2^x. -/
def fnExp2 (neg : Bool) (m : Nat) (e : Int) : FnValue :=
  let x := fixSplit neg m e
  if 1000 < x.1 then none else some (false, fixExp2 x.2, x.1 - 256)

/-- log2 of a positive value. -/
def fnLog2 (m : Nat) (e : Int) : FnValue :=
  if m = 0 then none
  else
    let l := Nat.log2 m
    let up := decide (3 * 2 ^ l < 2 * m)
    let one : Nat := if up then 2 ^ (l + 1) else 2 ^ l
    let n : Int := (l : Int) + e + (if up then 1 else 0)
    let neg := decide (m < one)
    let z := (if neg then one - m else m - one) * fixOne / (m + one)
    let ln := 2 * fixAtanh (z * z / fixOne) 70 1 z
    let x : Int := n * (fixOne : Int) + (if neg then -((ln * fixOne / fixLn2 : Nat) : Int) else ((ln * fixOne / fixLn2 : Nat) : Int))
    some (decide (x < 0), x.natAbs, -256)

/-- 1/x. -/
def fnRecip (neg : Bool) (m : Nat) (e : Int) : FnValue := if m = 0 then none else some (neg, fixOne / m, -256 - e)

/-- 1/√x of a positive value. -/
def fnRsqrt (m : Nat) (e : Int) : FnValue :=
  if m = 0 then none
  else
    let odd := decide (e % 2 ≠ 0)
    let m := if odd then 2 * m else m
    let e := if odd then e - 1 else e
    some (false, isqrt (fixOne * fixOne / m), -256 - e / 2)

/-- e^(k·x) for x = ±m · 2^e as a magnitude of 256 fraction bits and a power of two. -/
def expOf (k : Nat) (neg : Bool) (m : Nat) (e : Int) : Nat × Int :=
  let x := fixSplit neg (k * m * fixLog2e) (e - 256)
  (fixExp2 x.2, x.1)

/-- tanh x. -/
def fnTanh (neg : Bool) (m : Nat) (e : Int) : FnValue :=
  if m = 0 then some (neg, 0, 0)
  else if (Nat.log2 m : Int) + e < -50 then justBelow neg m e
  else if 7 ≤ (Nat.log2 m : Int) + e then justBelow neg 1 0
  else
    let x := expOf 2 false m e
    let t := x.1 * 2 ^ x.2.toNat
    some (neg, (t - fixOne) * fixOne / (t + fixOne), -256)

/-- 1/(1 + e^-x). -/
def fnSigmoid (neg : Bool) (m : Nat) (e : Int) : FnValue :=
  let x := expOf 1 (!neg) m e
  if 1000 < x.2 then some (false, 1, -1000)
  else if x.2 < -1000 then justBelow false 1 0
  else if 0 ≤ x.2 then some (false, fixOne ^ 6 / (fixOne + x.1 * 2 ^ x.2.toNat), -1280)
  else some (false, fixOne * 2 ^ (-x.2).toNat * fixOne / (fixOne * 2 ^ (-x.2).toNat + x.1), -256)

/-- The sine of a quarter turn's fraction r, or its cosine: both from an eighth of a turn. -/
def quarterSin (r : Nat) : Nat :=
  if 2 * r ≤ fixOne then
    let t := r * fixPi / (2 * fixOne)
    (fixTrig (t * t / fixOne) 40 1 t).toNat
  else
    let t := (fixOne - r) * fixPi / (2 * fixOne)
    (fixTrig (t * t / fixOne) 40 0 fixOne).toNat

/-- sin x, or cos x a quarter turn on. -/
def fnSin (cosine neg : Bool) (m : Nat) (e : Int) : FnValue :=
  let y := if 0 ≤ e then m * 2 ^ e.toNat * twoOverPi / 2 ^ 192 else m * twoOverPi / 2 ^ (192 + (-e).toNat)
  let q := (y / fixOne + (if cosine then 1 else 0)) % 4
  let r := y % fixOne
  let s := if q % 2 = 0 then quarterSin r else quarterSin (fixOne - r)
  some ((if cosine then false else neg) != decide (2 ≤ q), s, -256)

end Sys2Proof.Machine
end

