-- ==== Sys2Proof/Machine/Numerics.lean ====
section
/-! DEFINITION. Number formats and order-free accumulation (spec/03): decoding and rounding of every
floating-point format, entry, narrowing and exit of anchored sums, conversions, block quantization, and the
Vector Unit's arithmetic. Values are exact: a sign, a magnitude and a power of two. -/
namespace Sys2Proof.Machine

/-- A decoded value: (-1)^neg · m · 2^e. -/
inductive FVal
  | nan
  | inf (neg : Bool)
  | fin (neg : Bool) (m : Nat) (e : Int)
  deriving DecidableEq, Repr

/-- Field layout of a format: exponent bits, fraction bits, bias, magnitude codes of the largest finite value and
of infinity (0 for none), canonical NaN code (R44). -/
structure FmtSpec where
  expBits : Nat
  fracBits : Nat
  bias : Nat
  maxCode : Nat
  infCode : Nat
  nanCode : Nat
  deriving DecidableEq, Repr

/-- Add staged counts. -/
def Sat.add (a b : Sat) : Sat :=
  ⟨a.entry + b.entry, a.exit + b.exit, a.wire + b.wire, a.vanished + b.vanished, a.special + b.special⟩

def Sat.zero : Sat := ⟨0, 0, 0, 0, 0⟩
def Sat.oneEntry : Sat := ⟨1, 0, 0, 0, 0⟩
def Sat.oneExit : Sat := ⟨0, 1, 0, 0, 0⟩
def Sat.oneWire : Sat := ⟨0, 0, 1, 0, 0⟩
def Sat.oneVanished : Sat := ⟨0, 0, 0, 1, 0⟩
def Sat.oneSpecial : Sat := ⟨0, 0, 0, 0, 1⟩

/-- Any count is nonzero (R53). -/
def Sat.any (a : Sat) : Bool := decide (a ≠ Sat.zero)

/-- Any saturation or special, what STRICT faults (R54). -/
def Sat.faults (a : Sat) : Bool := decide (0 < a.entry + a.exit + a.wire + a.special)

end Sys2Proof.Machine

namespace Sys2Proof
open Sys2Proof.Machine

/-- The layouts of the table "Floating-point formats" (R44). -/
def Fmt.spec : Fmt → FmtSpec
  | .fp32 => ⟨8, 23, 127, 0x7F7FFFFF, 0x7F800000, 0x7FC00000⟩
  | .bf16 => ⟨8, 7, 127, 0x7F7F, 0x7F80, 0x7FC0⟩
  | .e4m3 => ⟨4, 3, 7, 0x7E, 0, 0x7F⟩
  | .e5m2 => ⟨5, 2, 15, 0x7B, 0x7C, 0x7F⟩
  | .fp4 => ⟨2, 1, 1, 7, 0, 0⟩
  | .w64 => ⟨0, 0, 0, 0, 0, 0⟩
  | .bytes => ⟨0, 0, 0, 0, 0, 0⟩

/-- Bits of one element as stored alone; an FP4 element has 4. -/
def Fmt.width : Fmt → Nat
  | .fp32 => 32 | .bf16 => 16 | .e4m3 => 8 | .e5m2 => 8 | .fp4 => 4 | .w64 => 64 | .bytes => 8

/-- Whether the magnitude code is a NaN. -/
def Fmt.isNanCode (f : Fmt) (mag : Nat) : Bool :=
  match f with
  | .e4m3 => mag == 0x7F
  | .fp32 => decide (mag > 0x7F800000)
  | .bf16 => decide (mag > 0x7F80)
  | .e5m2 => decide (mag > 0x7C)
  | _ => false

/-- Decode the bits of one element (R44, R45); an FP4 negative zero reads as zero; W64 and raw bytes are integers. -/
def Fmt.decode (f : Fmt) (v : Nat) : FVal :=
  match f with
  | .w64 => let x := toSigned 64 v; .fin (decide (x < 0)) x.natAbs 0
  | .bytes => .fin false (v % 256) 0
  | _ =>
    let sp := f.spec
    let w := f.width
    let v := v % 2 ^ w
    let neg := decide (v ≥ 2 ^ (w - 1))
    let mag := v % 2 ^ (w - 1)
    if f.isNanCode mag then .nan
    else if sp.infCode ≠ 0 ∧ mag = sp.infCode then .inf neg
    else
      let ex := mag / 2 ^ sp.fracBits
      let fr := mag % 2 ^ sp.fracBits
      if ex = 0 then .fin (neg && !(f == .fp4 && fr == 0)) fr (1 - (sp.bias : Int) - sp.fracBits)
      else .fin neg (2 ^ sp.fracBits + fr) ((ex : Int) - sp.bias - sp.fracBits)

end Sys2Proof

namespace Sys2Proof.Machine

/-- m · 2^k rounded to an integer, ties to even (R49). -/
def roundHalfEven (m : Nat) (k : Int) : Nat :=
  if 0 ≤ k then m * 2 ^ k.toNat
  else
    let d := 2 ^ (-k).toNat
    let q := m / d
    let r := m % d
    if 2 * r < d then q else if 2 * r > d then q + 1 else if q % 2 = 0 then q else q + 1

end Sys2Proof.Machine

namespace Sys2Proof
open Sys2Proof.Machine

/-- Magnitude code of m · 2^e rounded once to a format with the exponent unbounded above, ties to even, subnormals
kept (R51, R58). -/
def Fmt.magCode (f : Fmt) (m : Nat) (e : Int) : Nat :=
  if m = 0 then 0
  else
    let sp := f.spec
    let emin : Int := 1 - (sp.bias : Int)
    let top : Int := (Nat.log2 m : Int) + e
    let unit : Int := (if top < emin then emin else top) - sp.fracBits
    let n := roundHalfEven m (e - unit)
    let n' := if n = 2 ^ (sp.fracBits + 1) then n / 2 else n
    let unit' := if n = 2 ^ (sp.fracBits + 1) then unit + 1 else unit
    if n' < 2 ^ sp.fracBits then n'
    else ((unit' + sp.fracBits + sp.bias).toNat) * 2 ^ sp.fracBits + (n' - 2 ^ sp.fracBits)

/-- Put the sign on a magnitude code. -/
def Fmt.signed (f : Fmt) (neg : Bool) (mag : Nat) : Nat := if neg then 2 ^ (f.width - 1) + mag else mag

/-- Round a finite value to a format, limiting to the largest finite value and counting that (R51, R58). -/
def Fmt.ofFin (f : Fmt) (neg : Bool) (m : Nat) (e : Int) : Nat × Sat :=
  match f with
  | .w64 => (ofSigned 64 (if neg then -(roundHalfEven m e : Int) else (roundHalfEven m e : Int)), Sat.zero)
  | .bytes => (roundHalfEven m e % 256, Sat.zero)
  | _ =>
    let c := f.magCode m e
    if f.spec.maxCode < c then (f.signed neg f.spec.maxCode, Sat.oneExit) else (f.signed neg c, Sat.zero)

/-- Infinity in a format: the largest finite value, counted, where it has none (R51, R58). -/
def Fmt.ofInf (f : Fmt) (neg : Bool) : Nat × Sat :=
  if f.spec.infCode ≠ 0 then (f.signed neg f.spec.infCode, Sat.zero) else (f.signed neg f.spec.maxCode, Sat.oneExit)

/-- Conversion of a value to a format outside the accumulation sites (R58). -/
def Fmt.convert (f : Fmt) : FVal → Nat × Sat
  | .nan => (f.spec.nanCode, Sat.zero)
  | .inf neg => f.ofInf neg
  | .fin neg m e => f.ofFin neg m e

/-! ### Anchored accumulation -/

end Sys2Proof

namespace Sys2Proof.Machine

def Acc.zero : Acc := ⟨0, false, false, false⟩

/-- One term into an accumulator (R49, pseudocode "Entry"). -/
def Acc.enter (acc : Acc) (v : FVal) (anchor : Int) : Acc × Sat :=
  match v with
  | .nan => ({ acc with nan := true }, Sat.oneSpecial)
  | .inf neg => (if neg then { acc with ninf := true } else { acc with pinf := true }, Sat.oneSpecial)
  | .fin neg m e =>
    let t := roundHalfEven m (e - anchor)
    let c := if t = 0 ∧ m ≠ 0 then Sat.oneVanished else Sat.zero
    let lim := 2 ^ 95 - 1
    let (t, c) := if lim < t then (lim, c.add Sat.oneEntry) else (t, c)
    ({ acc with sum := acc.sum + (if neg then -(t : Int) else (t : Int)) }, c)

/-- Enter a list of terms. -/
def Acc.enterAll (acc : Acc) (anchor : Int) : List FVal → Acc × Sat
  | [] => (acc, Sat.zero)
  | v :: vs =>
    let r := acc.enter v anchor
    let r' := Acc.enterAll r.1 anchor vs
    (r'.1, r.2.add r'.2)

/-- The sum of two accumulators: sums add, flags combine by OR (R46). -/
def Acc.merge (a b : Acc) : Acc := ⟨a.sum + b.sum, a.nan || b.nan, a.pinf || b.pinf, a.ninf || b.ninf⟩

/-- The three sticky flags as bits: [2] NAN, [1] PINF, [0] NINF (log 19). -/
def Acc.flagBits (a : Acc) : Nat := (if a.nan then 4 else 0) + (if a.pinf then 2 else 0) + (if a.ninf then 1 else 0)

/-- An A128 sum narrowed to W64 at the same anchor (R50). -/
def Acc.narrow (a : Acc) : Elem × Sat :=
  let lim : Int := 2 ^ 47 - 1
  if lim < a.sum then (⟨lim, a.flagBits⟩, Sat.oneWire)
  else if a.sum < -lim then (⟨-lim, a.flagBits⟩, Sat.oneWire)
  else (⟨a.sum, a.flagBits⟩, Sat.zero)

end Sys2Proof.Machine

namespace Sys2Proof
open Sys2Proof.Machine

/-- A W64 element widened to A128. -/
def Elem.widen (x : Elem) : Acc := ⟨x.val, bit x.flags 2, bit x.flags 1, bit x.flags 0⟩

end Sys2Proof

namespace Sys2Proof.Machine

/-- An anchored sum leaving for a format other than FP4 (R51, pseudocode "Exit"). -/
def Acc.leave (a : Acc) (anchor : Int) (f : Fmt) : Nat × Sat :=
  if a.nan || (a.pinf && a.ninf) then (f.spec.nanCode, Sat.zero)
  else if a.pinf || a.ninf then f.ofInf a.ninf
  else if a.sum = 0 then (0, Sat.zero)
  else f.ofFin (decide (a.sum < 0)) a.sum.natAbs anchor

/-! ### Block quantization (R59) -/

/-- floor(log2(|v|)) of a nonzero finite value. -/
def finExp (m : Nat) (e : Int) : Int := (Nat.log2 m : Int) + e

/-- Quantize one block: scale code and E2M1 codes (R59). -/
def quantizeBlock (x : List FVal) : Nat × List Nat × Sat :=
  if x.any (fun v => match v with | .fin .. => false | _ => true) then (0xFF, x.map (fun _ => 0), Sat.oneSpecial)
  else
    let tops := x.filterMap (fun v => match v with | .fin _ m e => if m = 0 then none else some (finExp m e) | _ => none)
    match tops with
    | [] => (0x7F, x.map (fun _ => 0), Sat.zero)
    | t :: ts =>
      let e := ts.foldl max t - 2
      let e := if e < -127 then -127 else if 127 < e then 127 else e
      ((e + 127).toNat,
       x.map (fun v => match v with
         | .fin neg m ex => Fmt.fp4.signed neg (min 7 (Fmt.fp4.magCode m (ex - e)))
         | _ => 0), Sat.zero)

/-! ### Elements in memory (R45, R46) -/

end Sys2Proof.Machine

namespace Sys2Proof
open Sys2Proof.Machine

/-- The code byte range of element `j`: offset of its first byte and its byte count; FP4 elements lie in groups of
512 at 272 bytes. -/
def Fmt.elemAt (f : Fmt) (j : Nat) : Nat × Nat :=
  match f with
  | .fp32 => (4 * j, 4) | .bf16 => (2 * j, 2) | .e4m3 => (j, 1) | .e5m2 => (j, 1) | .w64 => (8 * j, 8) | .bytes => (j, 1)
  | .fp4 => (272 * (j / 512) + 16 + j % 512 / 2, 1)

/-- Bytes of `n` elements from the start of a tensor (R45 for FP4). -/
def Fmt.bytesOf (f : Fmt) (n : Nat) : Nat :=
  match f with
  | .fp4 => 272 * ((n + 511) / 512)
  | _ => (f.elemAt 1).1 * n

end Sys2Proof

namespace Sys2Proof.Machine

/-- The value of an FP4 element with its block scale: a scale of 0xFF is NaN (R44). -/
def fp4Value (code scale : Nat) : FVal :=
  if scale = 0xFF then .nan
  else match Fmt.fp4.decode code with
    | .fin neg m e => .fin neg m (e + (scale : Int) - 127)
    | v => v

end Sys2Proof.Machine

namespace Sys2Proof
open Sys2Proof.Machine

/-- Element `j` of a tensor whose bytes `rd` reads. -/
def Fmt.load (f : Fmt) (rd : Nat → Byte) (j : Nat) : FVal :=
  match f with
  | .fp4 =>
    let g := 272 * (j / 512)
    let r := j % 512
    let b := (rd (g + 16 + r / 2)).toNat
    fp4Value (if r % 2 = 0 then b % 16 else b / 16) (rd (g + r / 32)).toNat
  | _ =>
    let p := f.elemAt j
    f.decode (leNat ((List.range p.2).map (fun i => rd (p.1 + i))))

/-- The bytes of a list of values in a format other than FP4, with counts of the conversion. -/
def Fmt.encodeAll (f : Fmt) : List FVal → List Byte × Sat
  | [] => ([], Sat.zero)
  | v :: vs =>
    let r := f.convert v
    let t := Fmt.encodeAll f vs
    (leBytes (f.width / 8) r.1 ++ t.1, r.2.add t.2)

end Sys2Proof

namespace Sys2Proof.Machine

/-- The first `n` elements of a list in blocks of `k`, at most `fuel` blocks. -/
def chunks {α : Type} (k : Nat) : Nat → List α → List (List α)
  | 0, _ => []
  | _, [] => []
  | fuel + 1, l => l.take k :: chunks k fuel (l.drop k)

/-- One FP4 group of 272 bytes from at most 512 FP32 values: padding elements are zero with scale 0x7F (R45, R59). -/
def fp4Group (x : List FVal) : List Byte × Sat :=
  let blocks := (chunks 32 16 x).map quantizeBlock
  let scales := blocks.map (fun b => BitVec.ofNat 8 b.1) ++ List.replicate (16 - blocks.length) (BitVec.ofNat 8 0x7F)
  let codes := (blocks.map (fun b => b.2.1)).flatten
  let codes := codes ++ List.replicate (512 - codes.length) 0
  let bytes := (chunks 2 256 codes).map (fun p => BitVec.ofNat 8 (p.headD 0 + 16 * (p.drop 1).headD 0))
  (scales ++ bytes, (blocks.map (fun b => b.2.2)).foldl Sat.add Sat.zero)

end Sys2Proof.Machine

namespace Sys2Proof
open Sys2Proof.Machine

/-- The bytes of a list of values as a tensor of a format. -/
def Fmt.store (f : Fmt) (vs : List FVal) : List Byte × Sat :=
  match f with
  | .fp4 =>
    let gs := (chunks 512 (vs.length / 512 + 1) vs).map fp4Group
    ((gs.map Prod.fst).flatten, (gs.map Prod.snd).foldl Sat.add Sat.zero)
  | _ => f.encodeAll vs

end Sys2Proof

namespace Sys2Proof.Machine

/-- Anchored sums leaving for a format: FP4 through FP32 (R51). -/
def leaveAll (accs : List Acc) (anchor : Int) (f : Fmt) : List Byte × Sat :=
  match f with
  | .fp4 =>
    let xs := accs.map (fun a => a.leave anchor .fp32)
    let r := Fmt.fp4.store (xs.map (fun x => Fmt.fp32.decode x.1))
    (r.1, (xs.map Prod.snd).foldl Sat.add r.2)
  | .w64 =>
    let xs := accs.map Acc.narrow
    ((xs.map (fun x => leBytes 8 (ofSigned 64 x.1.val))).flatten, (xs.map Prod.snd).foldl Sat.add Sat.zero)
  | _ =>
    let xs := accs.map (fun a => a.leave anchor f)
    ((xs.map (fun x => leBytes (f.width / 8) x.1)).flatten, (xs.map Prod.snd).foldl Sat.add Sat.zero)

/-! ### Vector Unit arithmetic (R60) -/

/-- FP32 result of an exact value: IEEE 754 rounding, overflow to infinity; `zneg` is the sign of an exact zero. -/
def fp32Of (x : Int) (e : Int) (zneg : Bool) : Nat :=
  if x = 0 then Fmt.fp32.signed zneg 0
  else
    let c := Fmt.fp32.magCode x.natAbs e
    Fmt.fp32.signed (decide (x < 0)) (if 0x7F7FFFFF < c then 0x7F800000 else c)

def signedMag (neg : Bool) (m : Nat) : Int := if neg then -(m : Int) else (m : Int)

/-- Exact sum of two finite values: integer and exponent. -/
def finAdd (n1 : Bool) (m1 : Nat) (e1 : Int) (n2 : Bool) (m2 : Nat) (e2 : Int) : Int × Int :=
  let e := min e1 e2
  (signedMag n1 m1 * 2 ^ (e1 - e).toNat + signedMag n2 m2 * 2 ^ (e2 - e).toNat, e)

/-- a + b in binary32. -/
def fvAdd (a b : FVal) : Nat :=
  match a, b with
  | .nan, _ => 0x7FC00000
  | _, .nan => 0x7FC00000
  | .inf n1, .inf n2 => if n1 = n2 then Fmt.fp32.signed n1 0x7F800000 else 0x7FC00000
  | .inf n, .fin .. => Fmt.fp32.signed n 0x7F800000
  | .fin .., .inf n => Fmt.fp32.signed n 0x7F800000
  | .fin n1 m1 e1, .fin n2 m2 e2 =>
    let r := finAdd n1 m1 e1 n2 m2 e2
    fp32Of r.1 r.2 (n1 && n2)

/-- The value with its sign changed. -/
def FVal.neg : FVal → FVal
  | .nan => .nan
  | .inf n => .inf (!n)
  | .fin n m e => .fin (!n) m e

/-- Exact product; an infinity times zero is NaN. -/
def FVal.mul : FVal → FVal → FVal
  | .nan, _ => .nan
  | _, .nan => .nan
  | .inf n1, .inf n2 => .inf (n1 != n2)
  | .inf n1, .fin n2 m _ => if m = 0 then .nan else .inf (n1 != n2)
  | .fin n1 m _, .inf n2 => if m = 0 then .nan else .inf (n1 != n2)
  | .fin n1 m1 e1, .fin n2 m2 e2 => .fin (n1 != n2) (m1 * m2) (e1 + e2)

/-- a · b in binary32. -/
def fvMul (a b : FVal) : Nat :=
  match a.mul b with
  | .nan => 0x7FC00000
  | .inf n => Fmt.fp32.signed n 0x7F800000
  | .fin n m e => fp32Of (signedMag n m) e n

/-- a · b + c in binary32, one rounding. -/
def fvFma (a b c : FVal) : Nat := fvAdd (a.mul b) c

/-- Order of two values that are not NaN: a < b, zeros equal. -/
def fvLt (a b : FVal) : Bool :=
  match a, b with
  | .nan, _ => false
  | _, .nan => false
  | .inf n1, .inf n2 => n1 && !n2
  | .inf n, .fin .. => n
  | .fin .., .inf n => !n
  | .fin n1 m1 e1, .fin n2 m2 e2 => decide ((finAdd n1 m1 e1 (!n2) m2 e2).1 < 0)

def fvIsNan : FVal → Bool
  | .nan => true
  | _ => false

/-- Equality of two values, zeros equal; false with a NaN. -/
def fvEq (a b : FVal) : Bool := !fvIsNan a && !fvIsNan b && !fvLt a b && !fvLt b a

/-- The six compares (R60): 0 equal, 1 not equal, 2 less, 3 less or equal, 4 greater, 5 greater or equal. -/
def fvCmp (k : Nat) (a b : FVal) : Bool :=
  match k with
  | 0 => fvEq a b
  | 1 => !fvEq a b
  | 2 => fvLt a b
  | 3 => fvLt a b || fvEq a b
  | 4 => fvLt b a
  | _ => fvLt b a || fvEq a b

/-- +1.0 or +0.0. -/
def fpBool (b : Bool) : Nat := if b then 0x3F800000 else 0

/-- Bits of a binary32 code with a NaN made canonical. -/
def canonNan (v : Nat) : Nat := if fvIsNan (Fmt.fp32.decode v) then 0x7FC00000 else v

/-- Whether a code is zero of either sign. -/
def isZeroCode (v : Nat) : Bool := v % 2 ^ 31 == 0

/-- select(c, a, b) (R60). -/
def fpSelect (c a b : Nat) : Nat := if isZeroCode c then canonNan b else canonNan a

/-- min, ordering −0 below +0 (R60). -/
def fpMin (a b : Nat) : Nat :=
  let x := Fmt.fp32.decode a
  let y := Fmt.fp32.decode b
  if fvIsNan x || fvIsNan y then 0x7FC00000
  else if isZeroCode a && isZeroCode b then (if decide (a ≥ 2 ^ 31) then a else b)
  else if fvLt y x then b else a

/-- max, ordering −0 below +0 (R60). -/
def fpMax (a b : Nat) : Nat :=
  let x := Fmt.fp32.decode a
  let y := Fmt.fp32.decode b
  if fvIsNan x || fvIsNan y then 0x7FC00000
  else if isZeroCode a && isZeroCode b then (if decide (a ≥ 2 ^ 31) then b else a)
  else if fvLt x y then b else a

/-- The exact value of a function of R60 by code (1 exp2, 2 log2, 3 reciprocal, 4 reciprocal square root, 5 tanh, 6 sigmoid,
7 sine, 8 cosine); `none` where the function has none there. -/
def exactFn (code : Nat) : FVal → FnValue
  | .fin neg m e =>
    match code with
    | 1 => fnExp2 neg m e
    | 2 => if neg then none else fnLog2 m e
    | 3 => fnRecip neg m e
    | 4 => if neg then none else fnRsqrt m e
    | 5 => fnTanh neg m e
    | 6 => fnSigmoid neg m e
    | 7 => fnSin false neg m e
    | 8 => fnSin true neg m e
    | _ => none
  | _ => none

/-- Power of two of one unit in the last place of a binary32 result of the size of m · 2^e. -/
def ulp32 (m : Nat) (e : Int) : Int :=
  let top : Int := (Nat.log2 m : Int) + e
  (if m = 0 ∨ top < -126 then -126 else top) - 23

/-- The binary32 code lies within 2 units in the last place of a value (R60). -/
def withinTwoUlp (x : Bool × Nat × Int) (code : Nat) : Bool :=
  match Fmt.fp32.decode code with
  | .fin n m e =>
    let u := ulp32 x.2.1 x.2.2
    let d := finAdd n m e (!x.1) x.2.1 x.2.2
    let l := min u d.2
    decide (d.1.natAbs * 2 ^ (d.2 - l).toNat ≤ 2 * 2 ^ (u - l).toNat)
  | _ => false

/-- The binary32 results that R60 allows for an exact value, the lowest code first: codes about its own, and both signs about
zero. -/
def allowedFn (x : Bool × Nat × Int) : List Nat :=
  let c := Fmt.fp32.magCode x.2.1 x.2.2
  let near := (List.range 11).filterMap (fun i => if 5 ≤ c + i then some (c + i - 5) else none)
  let l := near.map (Fmt.fp32.signed x.1) ++ (if c < 5 then (List.range 5).map (Fmt.fp32.signed (!x.1)) else [])
  l.filter (withinTwoUlp x)

/-- The functions of R60: the canonical NaN for a NaN operand, and otherwise one of the results within 2 units in the last place
of the exact value, fixed per operand; which one is not published, and where the function has no exact value in the format's
range any result is possible (log 8). -/
def vecFunction (code v : Nat) : Nat :=
  let y := Config.vectorFn code v
  let x := Fmt.fp32.decode v
  if fvIsNan x then 0x7FC00000
  else match (exactFn code x).map allowedFn with
    | some (c :: cs) => (c :: cs).getD (y % (cs.length + 1)) c
    | _ => y % 2 ^ 32

/-- BF16 sum of two BF16 codes with one rounding; overflow gives the largest finite value and is counted (R61). An exact sum of
zero is −0 only where both operands are negative (DESIGN CHOICE, log 113). -/
def bf16Add (a b : Nat) : Nat × Sat :=
  match Fmt.bf16.decode a, Fmt.bf16.decode b with
  | .nan, _ => (0x7FC0, Sat.zero)
  | _, .nan => (0x7FC0, Sat.zero)
  | .inf n1, .inf n2 => if n1 = n2 then (Fmt.bf16.signed n1 0x7F80, Sat.zero) else (0x7FC0, Sat.zero)
  | .inf n, .fin .. => (Fmt.bf16.signed n 0x7F80, Sat.zero)
  | .fin .., .inf n => (Fmt.bf16.signed n 0x7F80, Sat.zero)
  | .fin n1 m1 e1, .fin n2 m2 e2 =>
    let r := finAdd n1 m1 e1 n2 m2 e2
    if r.1 = 0 then (Fmt.bf16.signed (n1 && n2) 0, Sat.zero)
    else
      let c := Fmt.bf16.ofFin (decide (r.1 < 0)) r.1.natAbs r.2
      (c.1, if c.2.exit = 0 then Sat.zero else Sat.oneWire)

/-- The residue check passes for the addition a + b giving c: residues modulo 7 (R63). -/
def residueOk (a b c : Int) : Bool := (a % 7 + b % 7) % 7 == c % 7

end Sys2Proof.Machine
end

