-- ==== Sys2Proof/Machine/Pool.lean ====
section
/-! DEFINITION. The Buffer Pool Manager (spec/10): granting, levels, reference counts, freeing, and the meaning of
POOL_WAIT_GRANT. -/
namespace Sys2Proof.Machine

/-- Buffers of pool `p` allocated now. -/
def State.poolUsed (s : State) (p : Nat) : Nat := (s.pools.bufs.filter (fun b => b.pool == p)).length

/-- Buffers of pool `p` as configured at the last image load (R189, R202). -/
def State.poolCount (s : State) (p : Nat) : Nat := s.pools.counts.getD p 0

/-- Buffer bytes of pool `p` as configured at the last image load. -/
def State.poolSize (s : State) (p : Nat) : Nat := s.pools.sizes.getD p 0

/-- Buffers owner `o` holds in its own pool (R193). -/
def State.ownerHeld (s : State) (o : Nat) : Nat :=
  (s.pools.bufs.filter (fun b => b.owner == o && b.pool == s.force (Key.ownerPool o))).length

/-- What the reservations in pool `p` still lack (R194). -/
def State.poolOwed (s : State) (p : Nat) : Nat :=
  (List.range 32).foldl (fun n o =>
    if s.force (Key.ownerPool o) = p then n + (s.force (Key.ownerReserved o) - s.ownerHeld o) else n) 0

/-- ⌈count × percent ÷ 100⌉ (R194). -/
def poolLevel (count percent : Nat) : Nat := (count * percent + 99) / 100

def State.poolWarnLevel (s : State) (p : Nat) : Nat := poolLevel (s.poolCount p) (s.force (Key.poolWarn p))
def State.poolBpLevel (s : State) (p : Nat) : Nat := poolLevel (s.poolCount p) (s.force (Key.poolBackpressure p))
def State.poolRearmLevel (s : State) (p : Nat) : Nat :=
  poolLevel (s.poolCount p) (s.force (Key.poolWarn p) - s.force Key.poolHysteresis)

/-- Owner `o` still lacks part of its reservation in pool `p` (R194, first test). -/
def State.poolReserved (s : State) (o p : Nat) : Bool :=
  s.force (Key.ownerPool o) == p && decide (s.ownerHeld o < s.force (Key.ownerReserved o))

/-- A buffer is left beyond what is owed, below the back-pressure level (R194, second test). -/
def State.poolRoom (s : State) (p : Nat) : Bool :=
  decide (s.poolUsed p < s.poolBpLevel p) && decide (s.poolUsed p + s.poolOwed p < s.poolCount p)

/-- Report the counts of a pool and of an owner. -/
def State.notePool (s : State) (o p : Nat) : State :=
  let s := (s.setReg (Key.poolAllocated p) (s.poolUsed p)).raise (Key.poolPeak p) (s.poolUsed p)
  (s.setReg (Key.ownerHeld o) (s.ownerHeld o)).raise (Key.ownerPeak o) (s.ownerHeld o)

/-- The lowest buffer of pool `p` whose state bit is clear. -/
def State.poolFreeIndex (s : State) (p : Nat) : Nat :=
  let taken := sortBy (fun a b => decide (a ≤ b)) ((s.pools.bufs.filter (fun b => b.pool == p)).map Buf.index)
  taken.foldl (fun i t => if t = i then i + 1 else i) 0

/-- A pool with `used` buffers allocated is in BACK_PRESSURE: from bp_level to one below its count (R194, table "Pool states"). -/
def State.poolPressed (s : State) (p used : Nat) : Bool := decide (s.poolBpLevel p ≤ used) && decide (used < s.poolCount p)

/-- Count an entry into BACK_PRESSURE when the allocated count of a pool went from `was` to what it is now. -/
def State.notePressed (s : State) (p was : Nat) : State :=
  if s.poolPressed p (s.poolUsed p) ∧ !s.poolPressed p was then s.bump (Key.poolBpCount p) 1 else s

/-- The address of a buffer's contents. -/
def State.bufAddr (s : State) (b : Buf) : Nat := s.reg (Key.poolBase b.pool) + b.index * s.poolSize b.pool

/-- Add a landed piece to a landing: complete with its last byte (R200). -/
def Buf.add (b : Buf) (first n : Nat) : Buf :=
  let got := if b.got.any (fun g => g.1 == first) then b.got else b.got ++ [(first, n)]
  { b with got := got, complete := decide (b.bytes ≤ got.foldl (fun k g => k + g.2) 0) }

/-- A piece of a landing has been written to its buffer (R133). -/
def State.poolMark (s : State) (b : Buf) (first n : Nat) : State :=
  s.modPools (fun x => { x with bufs := x.bufs.map (fun y => if y.pool == b.pool && y.index == b.index then y.add first n else y) })

/-- Take a buffer for `b`, which is answered with its index; the levels act as R197 lays down. The reference count has 8 bits
(R198). -/
def State.poolTake (s : State) (b : Buf) : Buf × State :=
  let p := b.pool
  let i := s.poolFreeIndex p
  let was := s.poolUsed p
  let b := { b with index := i, refs := b.refs % 256, got := [], complete := decide (b.bytes = 0) }
  let s := s.modPools (fun x => { x with bufs := x.bufs ++ [b] })
  let s := s.notePool b.owner p
  let s := if was + 1 = s.poolWarnLevel p ∧ !s.pools.disarmed.contains p then
      ((s.log sevWarning noCtx 0x08 none32 (Key.poolWarnCount p) p).bump (Key.poolWarnCount p) 1).modPools
        (fun x => { x with disarmed := p :: x.disarmed })
    else s
  (b, s.notePressed p was)

/-- A request for one buffer (R194): granted at once, or queued in arrival order with the pieces that have arrived for it. Answers
the buffer granted. -/
def State.poolRequest (s : State) (b : Buf) (port : Nat) (pieces : List (Nat × List Byte)) : Option Buf × State :=
  let waiting := s.pools.waits.any (fun w => w.pool == b.pool)
  if s.poolReserved b.owner b.pool || (!waiting && s.poolRoom b.pool) then
    ((some (s.poolTake b).1), (s.poolTake b).2)
  else
    (none, (s.modPools (fun x => { x with waits := x.waits ++ [⟨b.pool, b.owner, port, s.now, b, pieces⟩] })).bump
      (Key.ownerStalls b.owner) 1)

/-- Free a buffer: its state bit clears and it returns to the free list; the pool may be rearmed (R197, R198). -/
def State.poolFree (s : State) (b : Buf) : State :=
  let was := s.poolUsed b.pool
  let s := s.modPools (fun x => { x with bufs := x.bufs.filter (fun y => !(y.pool == b.pool && y.index == b.index)) })
  let s := (s.notePool b.owner b.pool).notePressed b.pool was
  if s.poolUsed b.pool < s.poolRearmLevel b.pool then
    s.modPools (fun x => { x with disarmed := x.disarmed.filter (· != b.pool) })
  else s

/-- Subtract `n` references of buffer `index` of pool `p` (R198); a double free is discarded and counted (R199).
Answers whether it was a double free. -/
def State.poolDrop (s : State) (p index n : Nat) : Bool × State :=
  match s.pools.bufs.find? (fun b => b.pool == p && b.index == index) with
  | none => (true, s.bump (Key.poolDoubleFreeCount p) 1)
  | some b =>
    if b.refs < n then (true, s.bump (Key.poolDoubleFreeCount p) 1)
    else if b.refs = n then (false, s.poolFree b)
    else (false, s.modPools (fun x => { x with bufs := x.bufs.map (fun y =>
      if y.pool == p && y.index == index then { y with refs := y.refs - n } else y) }))

/-- Replace the count of a buffer, of 8 bits; zero frees it (R198). -/
def State.poolSetRefs (s : State) (b : Buf) (n : Nat) : State :=
  if n % 256 = 0 then s.poolFree b
  else s.modPools (fun x => { x with bufs := x.bufs.map (fun y =>
    if y.pool == b.pool && y.index == b.index then { y with refs := n % 256 } else y) })

/-- Time a queued request has waited is added to its pool's stall ticks when it leaves the queue. -/
def State.poolStalled (s : State) (w : PoolWait) : State :=
  s.bump (Key.poolStallTicks w.pool) (s.now - w.since)

/-- `POOL_STALL_TICKS` as it reads now: with what the requests still in the queue have waited (R202). -/
def State.poolStallRead (s : State) (p : Nat) : Nat :=
  (s.pools.waits.filter (fun w => w.pool == p)).foldl (fun n w => n + (s.now - w.since)) (s.reg (Key.poolStallTicks p))

/-- A freed buffer lets the head of pool `p`'s wait queue be tested again, strictly in arrival order (R194). Answers the request
granted and its buffer. -/
def State.poolTestHead (s : State) (p : Nat) : Option (PoolWait × Buf) × State :=
  match s.pools.waits.find? (fun w => w.pool == p) with
  | none => (none, s)
  | some w =>
    if s.poolReserved w.owner p || s.poolRoom p then
      let r := ((s.modPools (fun x => { x with waits := x.waits.erase w })).poolStalled w).poolTake w.buf
      (some (w, r.1), r.2)
    else (none, s)

/-- The landings of one command's deliveries that are not complete are freed when it is killed (R200). -/
def State.freeIncomplete (s : State) (c cmd : Nat) : State :=
  s.forEach (s.pools.bufs.filter (fun b => b.owner / 8 == c && !b.complete && b.tag.cmd == cmd)) State.poolFree

/-- Teardown of a context: its buffers are freed, counts ignored, and its held landings discarded (R200, R201). -/
def State.poolTeardown (s : State) (c : Nat) : State :=
  let s := s.forEach (s.pools.waits.filter (fun w => w.owner / 8 == c)) (fun s w =>
    (s.poolStalled w).bump (Key.xchPoolStallTicks c) (s.now - w.since))
  let s := s.modPools (fun x => { x with waits := x.waits.filter (fun w => w.owner / 8 != c) })
  s.forEach (s.pools.bufs.filter (fun b => b.owner / 8 == c)) State.poolFree

end Sys2Proof.Machine
end

