-- ==== Sys2Proof/Machine/Command.lean ====
section
/-! DEFINITION. The command mechanism (spec/02, spec/18): arrival counters, wait trace, completion and saturation
records, releasing versions, kill, teardown and context faults, queue heads and the conditions of issue. -/
namespace Sys2Proof.Machine

/-! ### Arrival counters (R34) -/

/-- An arrival counter of a context. -/
def State.counter (s : State) (c : Fin 4) (i : Nat) : Nat := sparseGet (s.ctx c).counters i 0

/-- Add to an arrival counter; it sticks at 0xFFFF_FFFF (R34). -/
def State.addCounter (s : State) (c : Fin 4) (i n : Nat) : State :=
  s.modCtx c (fun x => { x with counters := sparseSet x.counters i (min none32 (sparseGet x.counters i 0 + n)) 0 })

/-! ### Wait trace (R301) -/

/-- Write one wait record; `obj` and `value` are `none` where the table gives the field no meaning for the kind, and
the field then holds a free value (log 21). -/
def State.writeWait (s : State) (c : Fin 4) (cmd start dur : Nat) (obj : Option Nat) (kind tile : Nat)
    (value : Option Nat) (seg : Nat) : State :=
  let base := s.force (Key.waitTraceBase c)
  if base = 0 then s
  else
    let head := s.reg (Key.waitTraceHead c)
    let o := match obj with
      | some v => (v, s)
      | none => s.free 21
    let v := match value with
      | some v => (v, o.2)
      | none => o.2.free 21
    let s := v.2
    let rec_ := leBytes 4 cmd ++ leBytes 4 (s.ctx c).step ++ leBytes 8 start ++ leBytes 4 (min none32 dur) ++ leBytes 2 o.1 ++
      leBytes 1 kind ++ leBytes 1 tile ++ leBytes 4 v.1 ++ leBytes 2 seg ++ leBytes 2 0
    (s.busWrite (base + 32 * (head % s.force (Key.waitTraceRecords c))) rec_).bump (Key.waitTraceHead c) 1

/-! ### Completion ring (R29) -/

/-- The completion ring takes a record now: space is free, or the context has no ring. -/
def State.ringRoom (s : State) (c : Fin 4) : Bool :=
  s.force (Key.completionBase c) == 0 ||
    decide ((s.reg (Key.completionHead c) + 2 ^ 32 - s.reg (Key.completionAck c)) % 2 ^ 32 < 4096)

/-- Advance a U32 count modulo 2^32. -/
def State.advanceCount (s : State) (k : Nat) : State := s.setReg k ((s.reg k + 1) % 2 ^ 32)

/-- Write one completion record; the interrupt is vector c (R29, R438). -/
def State.postRecord (s : State) (c : Fin 4) (r : Record) : State :=
  let base := s.force (Key.completionBase c)
  let head := s.reg (Key.completionHead c)
  let s := if base = 0 then s else
    let phase := if head / 4096 % 2 = 0 then 1 else 0
    (s.busWrite (base + 16 * (head % 4096))
      (leBytes 8 r.hostTag ++ leBytes 4 r.command ++ leBytes 1 r.status ++ leBytes 1 r.reruns ++ leBytes 2 phase)).toHost
      (.msix c)
  (s.advanceCount (Key.completionHead c)).advanceCount (Key.queueHead c r.queue)

/-- Write the records of a teardown that wait, while the ring has space (R29). -/
def State.flushRecords (s : State) (c : Fin 4) : Nat → State
  | 0 => s
  | fuel + 1 =>
    match (s.ctx c).records with
    | [] => s
    | r :: rest =>
      if s.ringRoom c then State.flushRecords ((s.postRecord c r).modCtx c (fun x => { x with records := rest })) c fuel else s

/-! ### Saturation (R53, R54) -/

/-- Stage saturation counts of one accumulation whose effective mode is `mode`. -/
def Run.addSat (r : Run) (mode : Nat) (x : Sat) : Run :=
  { r with sat := r.sat.add x, strict := r.strict || mode == 2, hard := r.hard || (mode == 2 && x.faults) }

/-- Stage a count (R53, R99, R124). -/
def Run.addCount (r : Run) (k n : Nat) : Run :=
  if n = 0 then r else { r with counts := assocPut r.counts k ((assoc r.counts k).getD 0 + n) }

/-- Add the staged saturation counts to the context's counters and write one record when any is nonzero (R53). -/
def State.writeSat (s : State) (c : Fin 4) (r : Run) (mode : Nat) : State :=
  if !r.sat.any then s
  else
    let s := ((((s.bump (Key.satEntryCount c) r.sat.entry).bump (Key.satExitCount c) r.sat.exit).bump
      (Key.satWireCount c) r.sat.wire).bump (Key.vanishedCount c) r.sat.vanished).bump (Key.specialCount c) r.sat.special
    let base := s.force (Key.satRecordBase c)
    if base = 0 then s
    else
      let head := s.reg (Key.satRecordHead c)
      let stick (v : Nat) := leBytes 2 (min 0xFFFF v)
      (s.busWrite (base + 16 * (head % 256)) (leBytes 4 r.entry.command ++ leBytes 4 (s.ctx c).step ++ stick r.sat.entry ++
        stick r.sat.exit ++ stick r.sat.wire ++ leBytes 1 mode ++ leBytes 1 (min 0xFF r.sat.special))).bump
        (Key.satRecordHead c) 1

/-! ### Versions that other rules hold (R282, R339) -/

/-- A version's frames are held: a checkpoint has still to read it, or a helper may need it (R282, R339). -/
def State.versionHeld (s : State) (fs : List Nat) : Bool :=
  (match s.ckpt.run with
   | some r => r.items.any (fun i => i.2.2.frames == fs && !fs.isEmpty)
   | none => false) ||
  allCtx.any (fun c => (s.ctx c).helped.any (fun h => fs.any (fun f => h.frames.contains f)))

/-- Hand frames to another holder. -/
def Mem.rehold (m : Mem) (fs : List Nat) (h : Holder) : Mem :=
  fs.foldl (fun m f =>
    match m.extents.find? (fun e => decide (e.first ≤ f ∧ f < e.first + e.count)) with
    | some e => { m with extents := extentInsert (extentRemove m.extents f) ⟨f, 1, e.check, h⟩ }
    | none => m) m

/-- Release a version's frames, or keep them as retained while another rule holds them (R31). -/
def State.dropFrames (s : State) (fs : List Nat) : State :=
  if s.versionHeld fs then s.modMem (fun m => m.rehold fs .retained) else s.modMem (fun m => m.releaseFrames fs)

/-- Frames kept only by a rule that held them are released once it holds them no more. -/
def State.releaseHeld (s : State) (fs : List Nat) : State :=
  let kept := fs.filter (fun f => s.mem.extents.any (fun e => decide (e.first ≤ f ∧ f < e.first + e.count) && e.holder == .retained))
  if kept.isEmpty || s.versionHeld fs then s else s.modMem (fun m => m.releaseFrames kept)

/-! ### Runs -/

/-- A command is running: issued and neither committed nor killed. -/
def Run.running (r : Run) : Bool := r.phase == .running || r.phase == .atCommit || r.phase == .repair

/-- Shielded kinds: EXCHANGE, COLLECTIVE, and a remote COPY (R25). -/
def Command.shielded (c : Command) : Bool :=
  c.isCrew || (match c.param with | .copy r => c.kind == 4 && r.op != 1 | _ => false)

/-- Queues of a context whose command is running. -/
def State.runningQueues (s : State) (c : Fin 4) : List (Fin 8) :=
  allQueues.filter (fun q => match s.run c q with | some r => r.running | none => false)

/-- Owner of a running command's transactions. -/
def runOwner (c : Fin 4) (q : Fin 8) : TxnOwner := .run c q

/-- Durations of waits inside a block are written in CCLK: 16 a tick (R10, R301). -/
abbrev cclkPerTick : Nat := 16

/-- Kind, object and value of the wait record of a wait point: for a fetch the number of its staging (R301). -/
def State.waitRecordOf (s : State) : WaitPoint → Nat × Option Nat × Option Nat
  | .counter i t => (2, some i, some t)
  | .farStream st => (3, some st, none)
  | .codec n => (4, some n, none)
  | .fetch h => (5, (s.mem.stagings.find? (fun g => g.handle == h)).map (fun g => g.number % 65536), none)
  | .fabric n => (6, some n, none)

/-- CCLK for which a gated wait wakes its rows (R80). -/
abbrev wakeCclk : Nat := 8

/-- Module CCLK of the own tick (R10). -/
def State.nowCclk (s : State) : Nat := s.now * cclkPerTick

/-- Gating of a tile's rows. -/
def State.tileHw (s : State) (tile : Nat) : TileHw := s.tiles.toList.getD tile { gated := [], counted := 0 }

/-- Change the gating of a tile's rows. -/
def State.modTile (s : State) (tile : Nat) (f : TileHw → TileHw) : State :=
  if h : tile < 4 then { s with tiles := s.tiles.set tile (f s.tiles[tile]) } else s

/-- A stretch of `dur` CCLK in which a tile issues nothing, with `wake` CCLK after it: the rows gated before it stay gated, the
others are gated for its last `all` CCLK (R80, log 119); 64 CCLK make a quiet slot of its near stacks (R161). -/
def State.gatedWait (s : State) (tile dur wake all : Nat) : State :=
  let n := (s.tileHw tile).gated.length
  let s := s.bump (Key.featheredRowCycles tile) (n * dur + (32 - n) * all)
  let s := s.modTile tile (fun h => { h with counted := max h.counted s.nowCclk + wake })
  if dur < 64 then s
  else s.modMem (fun m => { m with chan := Vector.ofFn (fun i : Fin 8 =>
    if i.val / 2 = tile then { m.chan[i] with sinceSlot := 0 } else m.chan[i]) })

/-- Close a wait inside a block that lasted from own tick `start` until now: its record (R35, R301), `WAIT_CYCLES`, and the
row cycles gated; a gated wait wakes its rows, unless a kill ended it, for 8 CCLK that are part of the wait (R80 to R82). Rows that the
segment before masked are awake until the wait gates all 32 (DESIGN CHOICE, log 119). -/
def State.closeWait (s : State) (c : Fin 4) (cmd : Nat) (t : TileRun) (w : WaitPoint) (start tick : Nat) (killed : Bool) : State :=
  let x := s.waitRecordOf w
  let dur := (s.now - start) * cclkPerTick
  let wake := if t.gated && !killed then wakeCclk else 0
  let all := dur + wake
  let s := s.writeWait c cmd tick (if x.1 = 6 then (all + cclkPerTick - 1) / cclkPerTick else all) x.2.1 x.1 t.tile x.2.2 t.segIndex
  let s := (s.bump (Key.waitCycles t.tile) all).gatedWait t.tile dur wake
    (if t.gated then dur - s.force Key.featherIdleMin else 0)
  if t.gated then s.modTile t.tile (fun h => { h with gated := if killed then List.range 32 else [] }) else s

/-- Close the decode hold of a tile: its record of kind 7, and `WAIT_CYCLES` (R160, R301). -/
def State.closeHold (s : State) (c : Fin 4) (cmd : Nat) (t : TileRun) : State :=
  let dur := (s.now - t.holdSince.1) * cclkPerTick
  ((s.writeWait c cmd t.holdSince.2 dur none 7 t.tile none t.segIndex).bump (Key.waitCycles t.tile) dur).gatedWait t.tile dur 0 0

/-- Close the waits and holds inside a block of a run that ends: records with the duration up to now (R305). -/
def State.closeBlockWaits (s : State) (c : Fin 4) (r : Run) : State :=
  s.forEach r.tiles (fun s t =>
    let s := if t.hold.isEmpty then s else s.closeHold c r.entry.command t
    match t.waiting with
    | none => s
    | some (w, start, tick) => s.closeWait c r.entry.command t w start tick true)

/-- Release a staged version that does not commit: its frames, and what it left in a Working Store (R31). -/
def State.dropStaged (s : State) (v : Version) : State :=
  let s := s.modMem (fun m => m.releaseFrames v.frames)
  s.forEach v.store (fun s x => s.modMem (fun m => { m with cells := cellClear m.cells x.2.2 x.2.1 }))

/-- A run as a kill leaves it: staging discarded, ready to be reissued; instance, attempt and acknowledged deliveries
are kept (R38, R143). -/
def Run.afterKill (r : Run) (now tick : Nat) : Run :=
  { r with
    phase := .killed, reached := now, waitSince := tick, waited := [], stall := none, budgetFrom := none, staged := [], gateKeys := [], bias := [], objs := [], fetched := [], counts := [],
    sat := Sat.zero, hard := false, strict := false, tiles := [], served := [], blockCycles := 0, grace := 0,
    copy := none, commitSince := none,
    xch := r.xch.map (fun x => { x with stage := 0, round := 0, tokens := [], requests := [], room := [], adm := [], vals := [], serve := [] }),
    crew := r.crew.map (fun k => { k with entered := [], pieces := [], scans := [], sent := [], contribution := [],
                                          round := 0, stroke := 0, sig := 0 }) }

/-- What a run streamed through the ring of the staging area is kept nowhere: a later use fetches it again (R186). -/
def State.endStreams (s : State) (c : Fin 4) (q : Fin 8) : State :=
  s.modMem (fun m => { m with stagings := m.stagings.filter (fun g => !(g.streamed && g.ctx == c.val && g.queue == q.val)) })

/-- Kill a running command: staged versions released, counts discarded, unsent transactions withdrawn, timers
stopped (R38); landings of its deliveries that are not complete are freed (R200); it counts in `KILL_COUNT` (R23). What staged versions left in a Working Store goes with them (R31, log 115). -/
def State.killRun (s : State) (c : Fin 4) (q : Fin 8) : State :=
  match s.run c q with
  | none => s
  | some r =>
    if !r.running then s
    else
      let s := s.closeBlockWaits c r
      let s := match r.commitSince with
        | some t => s.bump Key.ckptPinWaitTicks (s.now - t)
        | none => s
      let s := s.forEach r.staged (fun s v => s.dropStaged v.2)
      let s := (s.withdraw (runOwner c q) true).endStreams c q
      let s := s.setRun c q (some (r.afterKill s.now s.tick))
      let s := if r.cmd.kind = 6 then s.modCtx c (fun x => { x with committing := none }) else s
      let s := if r.cmd.kind = 2 then s.freeIncomplete c r.entry.command else s
      let s := s.bump Key.killCount 1
      (s.noteHbm c).noteCrews

/-- Emergency throttling holds (R444). -/
def State.emergency (s : State) : Bool := s.reg Key.thermalState == 1

/-- Cap in force under emergency throttling (R444). -/
abbrev emergencyCap : Nat := 900

/-- A pending power cap takes effect; during emergency throttling it becomes the cap to return to (R409, R444, log 69). -/
def State.takeCap (s : State) : State :=
  match s.power.capPending with
  | none => s
  | some v =>
    let s := s.modPower (fun p => { p with capPending := none, capBefore := if s.emergency then v else p.capBefore })
    s.setCap (if s.emergency then min v emergencyCap else v)

/-- A pending power cap takes effect once no context is RESIDENT (R409, R413). -/
def State.capIdle (s : State) : State := if s.anyResident then s else s.takeCap

/-- A pre-emption is complete when no command of the context is running (R39). -/
def State.settlePreempt (s : State) (c : Fin 4) : State :=
  if (s.ctx c).preempting ∧ s.cstate c = cxResident ∧ (s.runningQueues c).isEmpty then
    ((s.modCtx c (fun x => { x with preempting := false })).setReg (Key.ctxState c) cxPreempted).capIdle
  else s

/-! ### Teardown (R360, R370) -/

/-- Tell the crew of an entered, uncommitted crew command that this member leaves it (R279, R360). -/
def State.leaveCrew (s : State) (c : Fin 4) (r : Run) (code : Nat) : State :=
  match r.crew with
  | some k => if r.cmd.isCrew && r.running && k.sig != 0 then s.sendAbort c r.cmd k (s.selfIndex r.cmd.target) code else s
  | none => s

/-- Release everything a context holds on its own (R360, step 4). -/
def State.releaseContext (s : State) (c : Fin 4) : State :=
  let own := s.mem.objects.filter (fun i => i.owner == c.val)
  let s := s.forEach own (fun s i =>
    let s := match i.hot with
      | some v => s.dropFrames v.frames
      | none => s
    match i.prev with
    | some v => s.dropFrames v.frames
    | none => s)
  let s := s.modMem (fun m => { m with
    objects := m.objects.filter (fun i => i.owner != c.val),
    moves := m.moves.filter (fun i => i.owner != c.val),
    plans := m.plans.map (fun p => { p with tiers := p.tiers.filter (fun t => t.2.1 != c.val) }) })
  let gone := s.mem.stagings.filter (fun g => g.ctx == c.val && g.user != 2)
  let s := s.forEach gone (fun s g => s.modMem (fun m => m.releaseFrames g.frames))
  let s := s.modMem (fun m => { m with stagings := m.stagings.filter (fun g => !(g.ctx == c.val && g.user != 2)) })
  let s := (s.poolTeardown c).freeKeptOf c
  let s := s.modCtx c (fun x => { x with
    counters := [], exports := [], xeQueue := [], served := [], xchCounts := [], admitted := [], begun := [], hints := [], landed := [],
    mirrorPending := none, mirrorBusy := false,
    helped := x.helped.map (fun h => { h with run := none }) })
  let s := s.setBulk (Key.exportStatus c) 0 (List.replicate 32 0)
  (s.noteHbm c).noteTiers

/-- Begin the teardown of a context with a code, 0xFF for a release (R360): steps 1 to 4, and the records of step 5
made ready (log 90). -/
def State.beginTeardown (s : State) (c : Fin 4) (code cmd : Nat) : State :=
  let s := s.bump (Key.ctxTeardowns c) 1
  let s := if code = 0xFF then s else
    ((s.setReg (Key.ctxFaultCode c) code).setReg (Key.ctxFaultCommand c) cmd).setReg (Key.ctxFaultStep c) ((s.ctx c).step % 2 ^ 32)
  let s := (s.setReg (Key.ctxState c) cxTearing).modCtx c (fun x => { x with
    preempting := false, committing := none, teardown := some code })
  let runs := allQueues.filterMap (fun q => (s.run c q).map (fun r => (q, r)))
  let recs := (runs.filter (fun x => x.2.phase != .waiting)).map (fun x =>
    Record.mk x.1 x.2.entry.hostTag x.2.entry.command code x.2.reruns)
  let s := s.forEach runs (fun s x => s.leaveCrew c x.2 0x22)
  let s := s.forEach runs (fun s x => s.killRun c x.1)
  let s := s.modCtx c (fun x => { x with records := x.records ++ recs })
  let s := s.forEach allQueues (fun s q => s.setRun c q none)
  let s := s.modFab (fun f => { f with
    queued := f.queued.filter (fun t => !(t.ctx == c.val && (match t.owner with
      | .run _ _ => true | .exchange _ _ => true | .mirror _ => true | .signal _ => true | .helper _ _ => true | _ => false))),
    txns := f.txns.map (fun t => if t.ctx == c.val && (match t.owner with
      | .run _ _ => true | .exchange _ _ => true | .mirror _ => true | .signal _ => true | .helper _ _ => true | _ => false) then { t with abandoned := true } else t) })
  ((s.releaseContext c).noteCrews).capIdle

/-- A fault on a context (R360, R362, R370): logged in its mask, and its teardown begins unless the context is already
being torn down, faulted or absent. -/
def State.ctxFault (s : State) (c : Fin 4) (code cmd src entry value : Nat) : State :=
  let s := s.logCtx c code sevContext src cmd entry value
  if s.holds c then s.beginTeardown c code cmd else s

/-! ### Crew aborts (R279 to R281) -/

/-- The code this crew command has already acted on for an attempt (R280). -/
def CrewRun.hasActed (k : CrewRun) (att code : Nat) : Bool := k.acted.contains (att, code)

/-- Originate or receive an abort of the current attempt of a crew command (R280). -/
def State.abortAt (s : State) (c : Fin 4) (q : Fin 8) (code origin : Nat) : State :=
  match s.run c q with
  | none => s
  | some r =>
    match r.crew with
    | none => s
    | some k =>
      if k.hasActed k.attempt code then s
      else
        let k := { k with acted := (k.attempt, code) :: k.acted }
        match r.abort with
        | none =>
          if !r.running then s
          else
            let s := s.sendAbort c r.cmd k origin code
            let s := s.killRun c q
            let s := s.modRun c q (fun x => { x with
              abort := some ⟨code, origin, s.now, false⟩, crew := x.crew.map (fun y => { y with acted := k.acted }) })
            s.settlePreempt c
        | some ab =>
          let s := s.modRun c q (fun x => { x with crew := x.crew.map (fun y => { y with acted := k.acted }) })
          if abortRank code < abortRank ab.code then
            (s.sendAbort c r.cmd k origin code).modRun c q (fun x => { x with abort := some { ab with code := code, origin := origin } })
          else s

/-- This member originates an abort with a code (R279). -/
def State.originateAbort (s : State) (c : Fin 4) (q : Fin 8) (code : Nat) : State :=
  match s.run c q with
  | some r => s.abortAt c q code (s.selfIndex r.cmd.target)
  | none => s

/-- The run of a context that is an EXCHANGE of a layer and still uncommitted. -/
def State.exchangeQueue (s : State) (c : Fin 4) (layer : Nat) : Option (Fin 8) :=
  allQueues.find? (fun q => match s.run c q with
    | some r => r.running && (match r.cmd.param with | .exchange x => r.cmd.kind == 2 && x.layer == layer | _ => false)
    | none => false)

/-- A transaction of a running command failed (R264, R279, R362). -/
def State.runTxnFailed (s : State) (c : Fin 4) (q : Fin 8) (code : Nat) (a : Addr) : State :=
  match s.run c q with
  | none => s
  | some r =>
    if !r.running then s
    else if r.cmd.isCrew then s.originateAbort c q code
    else s.ctxFault c code r.entry.command 0x0B Key.niRetryExhausted (wordOfAddr a)

/-- The checkpoint context: `CODED_CONTEXT` when the image holds a coded object, else `CKPT_CONTEXT` (R338). -/
def State.hasCoded (s : State) : Bool :=
  match s.image with
  | some im => im.objects.any (fun o => o.coded)
  | none => false

def State.ckptCtx (s : State) : Nat := if s.hasCoded then s.force Key.codedContext % 4 else s.force Key.ckptContext % 4

/-- Bytes of the offers a member contributes to a restore: two slots of 32 bytes (R350, log 51). -/
abbrev offerBytes : Nat := 64

/-- The gathering of a restore seen as a crew command (R350). -/
def State.restoreCommand (s : State) : Command :=
  { kind := 3, flags := 0, deadline := 0, target := s.force Key.ckptCrew, inputs := [], outputs := [], waits := [], signals := [],
    param := .collective ⟨opAllGather, 5, 5, 1, offerBytes, 0⟩ }

/-- A restore ends as failed, and the crew is told under the abort rules (R350, R352, R353). -/
def State.restoreFail (s : State) (code origin : Nat) : State :=
  match s.ckpt.restore with
  | none => s
  | some r =>
    let s := s.sendAbort s.ckptCtx s.restoreCommand r.crew origin code
    let s := (s.modCkpt (fun k => { k with restore := none })).setReg Key.ckptState 0
    let s := s.withdraw .checkpoint true
    (s.setReg Key.ckptRestoreStatus 3).log sevWarning noCtx 0x0F none32 Key.ckptRestoreStatus code

/-- A helper run whose transaction failed ends, and the crew is told (R279, R282). -/
def State.helperFail (s : State) (c : Fin 4) (crew code : Nat) : State :=
  match (s.ctx c).helped.find? (fun h => h.crew == crew && h.run.isSome) with
  | none => s
  | some h =>
    let s := match h.run with
      | some k => s.sendAbort c h.cmd k (s.selfIndex crew) code
      | none => s
    (s.modCtx c (fun x => { x with helped := x.helped.map (fun y =>
      if y.crew = h.crew ∧ y.inst = h.inst then { y with run := none } else y) })).noteCrews

/-- A delta whose holder failed is owed again: 2·stripe + row, all ones for another transaction (R324). -/
def State.codingFail (s : State) (piece : Nat) : State :=
  if piece = none32 then s
  else s.modCoded (fun c => { c with owed := if c.owed.contains piece then c.owed else c.owed ++ [piece] })

/-- Tell the owners of failed transactions (R242, R243, R263, R264). A failed delta is owed until it is sent again; a
failed mirror leaves the partner's last slot. -/
def State.tellFail (s : State) (f : TxnOwner × Nat × Addr × Nat) : State :=
  match f with
  | (.run c q, code, a, _) =>
    match ctxIndex? c, (if h : q < 8 then some (⟨q, h⟩ : Fin 8) else none) with
    | some c, some q => s.runTxnFailed c q code a
    | _, _ => s
  | (.exchange c layer, code, _, _) =>
    match ctxIndex? c with
    | some c =>
      match s.exchangeQueue c layer with
      | some q => s.originateAbort c q code
      | none => s
    | none => s
  | (.response, code, a, _) =>
    if code = 0x21 then (s.bump Key.mfRespExhausted 1).log sevWarning noCtx 0x0B none32 Key.mfRespExhausted (wordOfAddr a) else s
  | (.mirror c, _, _, _) =>
    match ctxIndex? c with
    | some c => s.modCtx c (fun x => { x with mirrorBusy := false })
    | none => s
  | (.coding, _, _, piece) => s.codingFail piece
  | (.checkpoint, code, _, _) => s.restoreFail code (s.selfIndex (s.force Key.ckptCrew))
  | (.skipFor _, _, _, _) => s
  | (.signal c, code, a, _) =>
    match ctxIndex? c with
    | some c => if code = 0x21 ∧ !s.isMember a then s.ctxFault c code none32 0x0A Key.niRefusedDest (wordOfAddr a) else s
    | none => s
  | (.helper c crew, code, _, _) =>
    match ctxIndex? c with
    | some c => s.helperFail c crew code
    | none => s

/-- Tell every owner of a failed transaction. -/
def State.drainFails (s : State) : State :=
  let l := s.fab.fails
  (s.modFab (fun f => { f with fails := [] })).forEach l State.tellFail

/-! ### Queue heads (R27, R28, R30, R301) -/

/-- Read entry `n` of a queue from its ring (R30). -/
def State.readEntry (s : State) (c : Fin 4) (q : Fin 8) (n : Nat) : QEntry × Bool :=
  let a := s.force (Key.queueBase c q) + 32 * (n % s.force (Key.queueDepth c))
  let f := s.memNat (a + 4) 2
  (⟨s.memNat a 4, f, s.memNat (a + 8) 8, s.memNat (a + 0x10) 4, s.memNat (a + 0x18) 8⟩,
   decide (f / 2 = 0) && s.memNat (a + 6) 2 == 0 && s.memNat (a + 0x14) 4 == 0)

/-- The command an entry names, with its argument in place of `inputs[0]`; `none` for a malformed entry (R26, R30). -/
def State.entryCommand (s : State) (e : QEntry) (reserved0 : Bool) : Option Command :=
  match s.image with
  | none => none
  | some im =>
    match im.commands[e.command]? with
    | none => none
    | some cmd =>
      if !reserved0 then none
      else if e.argument = none32 then some cmd
      else if e.argument < im.objects.length then some { cmd with inputs := listSet cmd.inputs 0 e.argument }
      else none

/-- A run that has just reached the head of its queue. -/
def Run.fresh (e : QEntry) (cmd : Command) (now tick : Nat) : Run :=
  { entry := e, cmd := cmd, phase := .waiting, order := 0, reached := now, waited := [], stall := none, budgetFrom := none, issuedAt := 0,
    timer := 0, blockCycles := 0, grace := 0, reruns := 0, staged := [], counts := [], sat := Sat.zero, hard := false,
    strict := false, gateKeys := [], bias := [], objs := [], fetched := [], repairOf := none, tiles := [], served := [], xch := none, crew := none, abort := none, copy := none,
    waitSince := tick, commitSince := none }

/-- Entries that reach the head of a queue are taken; a malformed one is refused and the queue moves on (R30). -/
def State.settleQueue (s : State) (c : Fin 4) (q : Fin 8) : Nat → State
  | 0 => s
  | fuel + 1 =>
    let x := s.queue c q
    if s.mstate ≠ stRun ∨ s.cstate c ≠ cxResident ∨ x.run.isSome ∨ x.next = x.tail then s
    else
      let e := s.readEntry c q x.next
      match s.entryCommand e.1 e.2 with
      | some cmd => s.setRun c q (some (Run.fresh e.1 cmd s.now s.tick))
      | none =>
        if (s.ctx c).committing.isSome || !s.ringRoom c then s
        else
          let s := s.bump (Key.queueRefused c) 1
          let s := s.log sevWarning c 0x01 e.1.command (Key.queueHead c q) x.next
          let s := s.postRecord c ⟨q, e.1.hostTag, e.1.command, 0xFE, 0⟩
          State.settleQueue (s.modQueue c q (fun y => { y with next := (y.next + 1) % 2 ^ 32 })) c q fuel

/-- Waits of a command before issue that are used. -/
def Command.usedWaits (cmd : Command) : List (Nat × CounterWait) :=
  ((List.range cmd.waits.length).zip cmd.waits).filter (fun w => w.2.counter != 0xFFFF)

/-- Every wait of a command is satisfied (R34). -/
def State.waitsMet (s : State) (c : Fin 4) (cmd : Command) : Bool :=
  cmd.usedWaits.all (fun w => decide (w.2.threshold ≤ s.counter c w.2.counter))

/-- Write the records of the waits before issue that have ended (R35, R301). -/
def State.settleWaits (s : State) (c : Fin 4) (q : Fin 8) : State :=
  match s.run c q with
  | none => s
  | some r =>
    if (r.phase ≠ .waiting ∧ r.phase ≠ .killed) ∨ s.cstate c ≠ cxResident ∨ (s.ctx c).preempting ∨
       (s.ctx c).committing.isSome ∨ r.abort.isSome ∨ r.repairOf.isSome then s
    else
      let met := r.cmd.usedWaits.filter (fun w =>
        decide (w.2.threshold ≤ s.counter c w.2.counter) && !r.waited.contains w.1)
      let s := s.forEach met (fun s w =>
        s.writeWait c r.entry.command r.waitSince (s.now - r.reached) (some w.2.counter) 1 0xFF (some w.2.threshold) 0xFFFF)
      s.modRun c q (fun x => { x with waited := x.waited ++ met.map Prod.fst })

/-- Take what has reached the heads of the queues and close the waits that have ended. -/
def State.settle (s : State) : State :=
  let s := s.forEach allCtx (fun s c => s.forEach allQueues (fun s q => s.settleQueue c q 4097))
  s.forEach allCtx (fun s c => s.forEach allQueues (fun s q => s.settleWaits c q))

/-! ### Issue (R25 to R28, R33, R246, R269, R297, R359, R379, R444) -/

/-- Issue is open under emergency throttling: the first 250 ns of each 1 µs of the Global Counter (R444). -/
def State.issueWindow (s : State) : Bool := !s.emergency || decide (s.tick % 100 < 25)

/-- Handles of a command's outputs that are used. -/
def Command.usedOutputs (cmd : Command) : List Nat := cmd.outputs.filter (· != none32)

/-- Frames of the working vector of a reduction: 8 bytes for each element of the member's contribution (R277). -/
def Command.workFrames (cmd : Command) : Nat :=
  match cmd.param with
  | .collective r => if cmd.kind = 3 ∧ (r.op = opAllReduce ∨ r.op = opReduceScatter) then tilesOf (8 * r.elements) else 0
  | _ => 0

/-- Frames the staged outputs of a command need, and its working vector. -/
def State.outputFrames (s : State) (cmd : Command) : Nat :=
  cmd.workFrames + (cmd.usedOutputs.map (fun h => match s.objRec h with | some o => o.tileCount | none => 0)).foldl (· + ·) 0

/-- An in-flight bound or the quota that holds a command at issue: 1 copy descriptors, 2 active crews, 3 the
context's quota, 4 free frames (R246, R359). -/
def State.boundAt (s : State) (c : Fin 4) (cmd : Command) : Option Nat :=
  let copies := (allCtx.flatMap (fun x => allQueues.filter (fun q => match s.run x q with
    | some r => r.running && r.cmd.kind == 4 | none => false))).length
  if cmd.kind = 4 ∧ 1024 ≤ copies then some 1
  else if cmd.isCrew ∧ 64 ≤ s.activeCrews.length ∧ !s.activeCrews.contains cmd.target then some 2
  else
    let need := s.outputFrames cmd
    if need ≠ 0 ∧ (s.ctx c).quota < (s.ctxHotFrames c + s.ctxStagedFrames c + need) * frameBytes then some 3
    else if (s.mem.freeOn 0 + s.mem.freeOn 1 + s.mem.freeOn 2 + s.mem.freeOn 3 + s.mem.freeOn 4 + s.mem.freeOn 5 +
        s.mem.freeOn 6 + s.mem.freeOn 7) < need then some 4
    else none

/-- Another command of this module on the same crew is issued and uncommitted (R269). -/
def State.crewBusy (s : State) (c : Fin 4) (q : Fin 8) (crew : Nat) : Bool :=
  allCtx.any (fun x => allQueues.any (fun y => !(x == c && y == q) && (match s.run x y with
    | some r => r.cmd.isCrew && r.cmd.target == crew && r.phase != .waiting
    | none => false)))

/-- What every kind needs to issue the entry at the head of a queue, bounds and throttling apart: module RUN (R379), context
RESIDENT and not stopping, no COMMIT pending for a new command, waits satisfied, launch tick reached, crew free. -/
def State.readyToIssue (s : State) (c : Fin 4) (q : Fin 8) (r : Run) : Bool :=
  s.mstate == stRun && s.cstate c == cxResident && !(s.ctx c).preempting &&
  (r.phase == .killed || (r.phase == .waiting && (s.ctx c).committing.isNone)) &&
  r.abort.isNone && (r.repairOf.isSome || s.waitsMet c r.cmd) &&
  (r.phase == .killed || !bit r.entry.flags 0 || decide (r.entry.launch ≤ s.tick)) &&
  !(r.cmd.isCrew && s.crewBusy c q r.cmd.target)

/-- A command that only a bound holds starts its stall (R246, R301, R359). -/
def State.noteStall (s : State) (c : Fin 4) (q : Fin 8) (b : Nat) : State :=
  s.modRun c q (fun r => if r.stall.isSome then r else
    { r with stall := some (s.now, s.tick, b), budgetFrom := some (r.budgetFrom.getD s.now) })

/-- A command whose issue emergency throttling withholds: the time counts in its budget (R36, R444). -/
def State.noteHeld (s : State) (c : Fin 4) (q : Fin 8) : State :=
  s.modRun c q (fun r => { r with budgetFrom := some (r.budgetFrom.getD s.now) })

/-- Close the stall of a command that issues: its record, and the quota's stall ticks. -/
def State.closeStall (s : State) (c : Fin 4) (r : Run) : State :=
  match r.stall with
  | none => s
  | some (since, tick, b) =>
    let s := s.writeWait c r.entry.command tick (s.now - since) none 10 0xFF none 0xFFFF
    if b = 3 then s.bump (Key.ctxQuotaStallTicks c) (s.now - since) else s

/-- What an AT_TICK entry does at its issue: a kind 9 record with its lateness, and one warning a step when the counter
is not synchronised (R298, R301). -/
def State.atTickIssue (s : State) (c : Fin 4) (r : Run) : State :=
  let s := s.writeWait c r.entry.command r.waitSince (s.now - r.reached) none 9 0xFF (some (min none32 (s.tick - r.entry.launch))) 0xFFFF
  if (s.reg Key.gcState = 2 ∨ s.reg Key.gcState = 4) ∨ (s.ctx c).launchWarned then s
  else (s.log sevWarning c 0x0D r.entry.command Key.gcState (s.reg Key.gcState)).modCtx c (fun x => { x with launchWarned := true })

/-- Allocate the staged versions of a command's outputs (R24). -/
def State.stageOutputs (s : State) (c : Fin 4) (q : Fin 8) : List Nat → State × List (Nat × Version)
  | [] => (s, [])
  | h :: hs =>
    match s.objRec h with
    | none => State.stageOutputs s c q hs
    | some o =>
      match s.takeObject o (.staged c q) with
      | none => State.stageOutputs s c q hs
      | some (fs, s) =>
        let r := State.stageOutputs s c q hs
        (r.1, (h, ({ frames := fs, prod := none, gen := 0 } : Version)) :: r.2)

/-- Allocate the working vector of a reduction, which is part of its staging and is released with it (R277); it lies where most frames
are free (DESIGN CHOICE, log 138). -/
def State.stageWorking (s : State) (c : Fin 4) (q : Fin 8) (cmd : Command) (l : List (Nat × Version)) : State × List (Nat × Version) :=
  if cmd.workFrames = 0 then (s, l)
  else match s.mem.takeFrames 0 (.staged c q) (List.replicate cmd.workFrames none) with
    | none => (s, l)
    | some (fs, _, m) => ({ s with mem := m }, l ++ [(none32, ({ frames := fs, prod := none, gen := 0 } : Version))])

/-- Issue the entry at the head of a queue: phase, issue order, timer, rerun counts, records, staged outputs. -/
def State.startRun (s : State) (c : Fin 4) (q : Fin 8) (r : Run) : State :=
  let first := r.phase == .waiting
  let s := s.closeStall c r
  let s := if first && bit r.entry.flags 0 then s.atTickIssue c r else s
  let st := s.stageOutputs c q r.cmd.usedOutputs
  let st := st.1.stageWorking c q r.cmd st.2
  let s := st.1
  let late := if first && bit r.entry.flags 0 then s.tick - r.entry.launch else 0
  -- what was held at a bound or withheld counts from when it was (R36); a launch counts from its tick
  let since := if late = 0 then r.budgetFrom.getD s.now else s.now
  let r := { r with
    phase := (if r.repairOf.isSome then .repair else .running), order := (if first then (s.ctx c).issued else r.order), issuedAt := since, timer := late,
    stall := none, budgetFrom := none, staged := st.2, reruns := (if first ∨ r.repairOf.isSome then r.reruns else r.reruns + 1) }
  let s := s.setRun c q (some r)
  let s := if first then s.modCtx c (fun x => { x with issued := x.issued + 1 }) else s.bump Key.rerunCount 1
  let s := if r.cmd.kind = 6 then s.modCtx c (fun x => { x with committing := some q.val }) else s
  s.noteHbm c

/-- Issue a command of one kind when it may: `none` when it does not issue now. A bound that holds it starts its stall. -/
def State.issue (s : State) (c : Fin 4) (q : Fin 8) (ok : Run → Bool) : State × Bool :=
  match s.run c q with
  | none => (s, false)
  | some r =>
    if s.readyToIssue c q r && ok r then
      if !s.issueWindow then (s.noteHeld c q, false)
      else match s.boundAt c r.cmd with
      | some b => (s.noteStall c q b, false)
      | none => (s.startRun c q r, true)
    else (s, false)

/-- Entries a plain issue row serves: all but the first issue of an AT_TICK entry, which LAUNCH_TICK serves. -/
def Run.plainIssue (r : Run) : Bool := !bit r.entry.flags 0 || r.phase == .killed

end Sys2Proof.Machine
end

