-- ==== Sys2Proof/Machine/Coding.lean ====
section
/-! DEFINITION. The coding of coded state (spec/16, R307 to R323): the field GF(2^8), the stripe map, units and their
versions, the group and its coordinator, loss reports, and decodes asked for and completed. -/
namespace Sys2Proof.Machine

/-! ### GF(2^8) with polynomial 0x11D (R310) -/

/-- Product of two field elements: `fuel` bits of `b`. -/
def gfMulAux : Nat → Nat → Nat → Nat → Nat
  | 0, _, _, acc => acc
  | n + 1, a, b, acc =>
    gfMulAux n (if 2 * a < 256 then 2 * a else (2 * a) ^^^ 0x11D) (b / 2) (if b % 2 = 1 then acc ^^^ a else acc)

/-- Product of two field elements. -/
def gfMul (a b : Nat) : Nat := gfMulAux 8 a b 0

/-- Power of a field element. -/
def gfPow (a : Nat) : Nat → Nat
  | 0 => 1
  | n + 1 => gfMul a (gfPow a n)

/-- Inverse of a nonzero field element. -/
def gfInv (a : Nat) : Nat := gfPow a 254

/-- α^d. -/
def gfAlpha (d : Nat) : Nat := gfPow 2 d

/-- Coefficient of data slot `d` in parity row `i` (R310). -/
def parityCoeff (i d : Nat) : Nat := if i = 0 then 1 else gfAlpha d

/-! ### Unit contents as sparse bytes -/

/-- Bytewise XOR of sparse contents. -/
def cellsXor (a b : List Host.Cell) : List Host.Cell := b.foldl (fun m c => cellSet m c.1 (cellGet m c.1 ^^^ c.2)) a

/-- Bytewise product with a coefficient. -/
def cellsScale (k : Nat) (a : List Host.Cell) : List Host.Cell :=
  (a.map (fun c => (c.1, BitVec.ofNat 8 (gfMul k c.2.toNat)))).filter (fun c => c.2 != 0)

/-- Sparse content of a byte string. -/
def cellsOf (l : List Byte) : List Host.Cell := cellWrite [] 0 l

/-- Content of a frame. -/
def Mem.frameCells (m : Mem) (f : Nat) : List Host.Cell :=
  (m.cells.filter (fun c => decide (f * frameBytes ≤ c.1) && decide (c.1 < (f + 1) * frameBytes))).map
    (fun c => (c.1 - f * frameBytes, c.2))

/-- Replace the content of a frame, clearing its poison (R160). -/
def Mem.setFrame (m : Mem) (f : Nat) (cs : List Host.Cell) : Mem :=
  { m with cells := cs.foldl (fun x c => cellSet x (f * frameBytes + c.1) c.2) (cellClear m.cells (f * frameBytes) frameBytes),
           poison := m.poison.filter (fun a => a / frameBytes != f),
           upsets := m.upsets.filter (fun x => x.1 / frameBytes != f) }

/-! ### The group and the stripe map (R309, R310, R311) -/

/-- Own group index, 0xFF for none. -/
def State.groupIndex (s : State) : Nat := s.reg Key.codedGroupIndex

/-- Rank at a group index. -/
def State.groupRank (s : State) (i : Nat) : Nat := s.coded.groupRanks.getD i 0xFFFF

/-- Address at a group index. -/
def State.groupAddr (s : State) (i : Nat) : Option Addr := s.rankAddr (s.groupRank i)

/-- A group index is lost: its rank maps to a failed address, or to none. -/
def State.groupLost (s : State) (i : Nat) : Bool :=
  match s.groupAddr i with
  | some a => s.isFailed a
  | none => true

/-- The coordinator's group index, 0xFF when every index is lost (R309). -/
def State.coordinator (s : State) : Nat := ((List.range 8).find? (fun i => !s.groupLost i)).getD 0xFF

/-- Group index of parity row `i` of a stripe. -/
def parityIndex (stripe i : Nat) : Nat := (stripe + i) % 8

/-- Group indices of the data slots of a stripe, in order. -/
def dataIndices (stripe : Nat) : List Nat :=
  (List.range 8).filter (fun p => p != parityIndex stripe 0 && p != parityIndex stripe 1)

/-- Group index of data slot `d`. -/
def dataIndex (stripe d : Nat) : Nat := (dataIndices stripe).getD d 0

/-- Data slot of a group index in a stripe, `none` where it holds parity. -/
def slotOf (stripe q : Nat) : Option Nat := (dataIndices stripe).findIdx? (· == q)

/-- Stripe and data slot of data unit `u` at group index `q` (R311). -/
def stripeOf (q u : Nat) : Nat × Nat :=
  let ts := (List.range 8).filter (fun t => t != q && t != (q + 7) % 8)
  let st := 8 * (u / 6) + ts.getD (u % 6) 0
  (st, (slotOf st q).getD 0)

/-- Data unit number at group index `q` in a stripe it holds data in. -/
def dataUnitOf (q stripe : Nat) : Nat :=
  6 * (stripe / 8) + ((List.range (stripe % 8)).filter (fun t => t != q && t != (q + 7) % 8)).length

/-- Parity row a group index holds in a stripe. -/
def rowOf (stripe q : Nat) : Option Nat :=
  if parityIndex stripe 0 = q then some 0 else if parityIndex stripe 1 = q then some 1 else none

/-- Parity unit number at group index `q` of a stripe it holds parity in: ascending stripe order. -/
def parityUnitOf (q stripe : Nat) : Nat :=
  2 * (stripe / 8) + ((List.range (stripe % 8)).filter (fun t => t == q || t == (q + 7) % 8)).length

/-! ### Data units of this member (R308) -/

/-- Handles of coded objects with their tile counts, in handle order. -/
def State.codedObjects (s : State) : List (Nat × Nat) :=
  match s.image with
  | none => []
  | some im => ((List.range im.objects.length).zip im.objects).filterMap (fun x =>
      if x.2.coded && (s.mem.objects.any (fun i => i.handle == x.1 && i.owner == 4)) then some (x.1, x.2.tileCount) else none)

/-- Own data units. -/
def State.dataUnits (s : State) : Nat := s.codedObjects.foldl (fun n x => n + x.2) 0

/-- Handle and tile of a data unit. -/
def unitTile : List (Nat × Nat) → Nat → Option (Nat × Nat)
  | [], _ => none
  | (h, n) :: t, u => if u < n then some (h, u) else unitTile t (u - n)

/-- Data unit of a tile of a coded object. -/
def tileUnit : List (Nat × Nat) → Nat → Nat → Option Nat
  | [], _, _ => none
  | (h, n) :: t, g, j => if h = g then some j else (tileUnit t g j).map (· + n)

/-- Stripes of the group: 8 · ⌈U ÷ 6⌉ with the largest unit count known (R310). -/
def State.stripes (s : State) : Nat :=
  8 * (((s.coded.counts.foldl (fun m x => max m x.2) s.dataUnits) + 5) / 6)

/-- Record of a unit; one without a record has never been committed. -/
def State.unitRec (s : State) (parity : Bool) (u : Nat) : UnitRec :=
  (s.coded.units.find? (fun r => r.unit == u && r.parity == parity)).getD
    ⟨u, parity, none32, none32, 0, false, false, []⟩

/-- A unit record as the unit table holds it; `place` is its place in the table, which also numbers its retention record (R312; DESIGN
CHOICE, log 139). -/
def UnitRec.bytes (r : UnitRec) (place : Nat) : List Byte :=
  leBytes 4 r.generation ++ leBytes 4 r.retained ++ leBytes 4 place ++ leBytes 1 r.mask ++
  leBytes 1 ((if r.parity then 1 else 0) + (if r.lost then 2 else 0) + (if r.preDelta then 4 else 0)) ++ leBytes 2 0

/-- Byte `off` of the unit table: the records of the data units, then those of the parity units (R312; DESIGN CHOICE, log 139). -/
def State.unitTableByte (s : State) (off : Nat) : Byte :=
  let n := off / 16
  let d := s.dataUnits
  if n < d + s.reg Key.codedParityUnits then
    ((s.unitRec (decide (d ≤ n)) (if n < d then n else n - d)).bytes n).getD (off % 16) 0
  else 0

/-- Replace a unit record. -/
def State.setUnit (s : State) (r : UnitRec) : State :=
  let same (x : UnitRec) := x.unit == r.unit && x.parity == r.parity
  s.modCoded (fun c => { c with
    units := if c.units.any same then c.units.map (fun x => if same x then r else x) else c.units ++ [r] })

/-- Frame of the current version of a data unit. -/
def State.dataFrame (s : State) (u : Nat) : Option Nat :=
  match unitTile s.codedObjects u with
  | none => none
  | some (h, j) =>
    match s.mem.objects.find? (fun i => i.handle == h && i.owner == 4) with
    | some i => match i.hot with
      | some v => v.frames[j]?
      | none => none
    | none => none

/-- Frame of a parity unit in the parity area. -/
def State.parityFrame (s : State) (u : Nat) : Nat := s.coded.parityBase / frameBytes + u

/-- Content of a data unit in a frame: what lies past the end of its object counts as zero (R308). -/
def State.tileCells (s : State) (u f : Nat) : List Host.Cell :=
  match (unitTile s.codedObjects u).bind (fun t => (s.objRec t.1).map (fun o => (o.tileSpan t.2).2)) with
  | some n => (s.mem.frameCells f).filter (fun c => decide (c.1 < n))
  | none => s.mem.frameCells f

/-- Current content of a unit of this member: zeros beyond its coded area (R310). -/
def State.unitCells (s : State) (parity : Bool) (u : Nat) : List Host.Cell :=
  if parity then s.mem.frameCells (s.parityFrame u)
  else match s.dataFrame u with
    | some f => s.tileCells u f
    | none => []

/-- The version of a data unit that a displaced object version still holds (R313). -/
def State.prevCells (s : State) (u : Nat) : Option (Nat × List Host.Cell) :=
  match unitTile s.codedObjects u with
  | none => none
  | some (h, j) =>
    match s.mem.objects.find? (fun i => i.handle == h && i.owner == 4) with
    | some i => match i.prev with
      | some v => (v.frames[j]?).map (fun f => (v.gen, s.tileCells u f))
      | none => none
    | none => none

/-- Newest version of a data unit of generation at most `g` (R320): the current one, a displaced one, or a retained one. -/
def State.versionAtMost (s : State) (u g : Nat) : Option (List Host.Cell) :=
  let r := s.unitRec false u
  if r.generation ≤ g ∨ r.generation = none32 then some (s.unitCells false u)
  else
    let prev := match s.prevCells u with
      | some p => [(p.1, p.2)]
      | none => []
    let cand := (prev ++ r.kept.map (fun k => (k.2.1, k.2.2))).filter (fun k => decide (k.1 ≤ g) || k.1 == none32)
    match cand with
    | [] => none
    | k :: ks => some (ks.foldl (fun b x => if b.1 = none32 ∨ (x.1 ≠ none32 ∧ b.1 < x.1) then x else b) k).2

/-- Every delta of a stripe that this member sent has been acknowledged. -/
def State.deltaAcked (s : State) (stripe : Nat) : Bool :=
  let mine (t : Txn) := match t.body with | .parityDelta st _ _ _ _ _ _ => st == stripe | _ => false
  !(s.fab.txns.any mine || s.fab.queued.any mine || s.coded.owed.any (fun x => x / 2 == stripe))

/-- Content of a unit of this member in a view: 0 current, 1 recorded (R320). A data unit counts as applied to the
parity once its deltas are acknowledged (log 23). -/
def State.viewCells (s : State) (view stripe : Nat) : List Host.Cell :=
  let q := s.groupIndex
  let rec_ := s.reg Key.codedRecordedGen
  match rowOf stripe q with
  | some _ =>
    let u := parityUnitOf q stripe
    let r := s.unitRec true u
    if view = 1 ∧ r.preDelta then
      match r.kept.getLast? with
      | some k => k.2.2
      | none => s.unitCells true u
    else s.unitCells true u
  | none =>
    let u := dataUnitOf q stripe
    let openGen := s.reg Key.codedOpenGen
    if view = 0 ∧ openGen ≠ none32 ∧ (s.unitRec false u).generation = openGen ∧ s.deltaAcked stripe then s.unitCells false u
    else (s.versionAtMost u rec_).getD (s.unitCells false u)

/-! ### Decode chains (R321) -/

/-- Suppliers of a decode as (group index, coefficient), data slots ascending and then parity rows: the unit at group
index `want` of a stripe whose units at `gone` are unavailable, `want` among them (R321). `none` when more than two are. -/
def decodePlan (stripe want : Nat) (gone : List Nat) : Option (List (Nat × Nat)) :=
  let lostSlots := (List.range 6).filter (fun d => gone.contains (dataIndex stripe d))
  let lostRows := (List.range 2).filter (fun i => gone.contains (parityIndex stripe i))
  let live := (List.range 6).filter (fun d => !lostSlots.contains d)
  let data (f : Nat → Nat) := live.map (fun e => (dataIndex stripe e, f e))
  match lostSlots, lostRows, slotOf stripe want with
  | [_], [], some _ => some (data (fun _ => 1) ++ [(parityIndex stripe 0, 1)])
  | [_], [1], some _ => some (data (fun _ => 1) ++ [(parityIndex stripe 0, 1)])
  | [d], [0], some _ =>
    let k := gfInv (gfAlpha d)
    some (data (fun e => gfMul k (gfAlpha e)) ++ [(parityIndex stripe 1, k)])
  | [x0, y0], [], some d =>
    let x := d
    let y := if d = x0 then y0 else x0
    let k := gfInv (gfAlpha x ^^^ gfAlpha y)
    some (data (fun e => gfMul k (gfAlpha e ^^^ gfAlpha y)) ++
      [(parityIndex stripe 0, gfMul k (gfAlpha y)), (parityIndex stripe 1, k)])
  | [], _, none =>
    match rowOf stripe want with
    | some i => some (data (fun e => parityCoeff i e))
    | none => none
  | [d], [i], none =>
    if i = 0 then
      let k := gfInv (gfAlpha d)
      some (data (fun e => 1 ^^^ gfMul k (gfAlpha e)) ++ [(parityIndex stripe 1, k)])
    else some (data (fun e => gfAlpha e ^^^ gfAlpha d) ++ [(parityIndex stripe 0, gfAlpha d)])
  | _, _, _ => none

/-- Units unavailable to a decode of the unit at group index `want`: it, and those of lost members (R335). -/
def State.goneFor (s : State) (want : Nat) : List Nat := dedup (want :: (List.range 8).filter s.groupLost)

/-- Group indices that a spare has taken over and is still rebuilding (R335). -/
def State.rebuildingIndices (s : State) : List Nat :=
  (List.range 8).filter (fun i => !s.groupLost i &&
    s.coded.takeovers.any (fun t => t.1 == s.groupRank i && !s.coded.rebuilt.any (fun r => r.1 == t.1)))

/-- The chain of a decode: without the units of spares that still rebuild where six others are left, else with them, since a spare
rebuilds first what another member asks for (R321, R330, R335; DEDUCED, log 140). -/
def State.planFor (s : State) (stripe want : Nat) : Option (List (Nat × Nat)) :=
  match decodePlan stripe want (dedup (s.goneFor want ++ s.rebuildingIndices)) with
  | some p => some p
  | none => decodePlan stripe want (s.goneFor want)

/-- View of a decode: recorded in a group that needs a rollback, else current (R320). -/
def State.decodeView (s : State) : Nat := if s.reg Key.codedState = 4 then 1 else 0

/-- Ask for a decode of the unit at group index `index` of a stripe, with its combined terms sent to `target`; one decode
already asked for serves again (R336). Answers false when the stripe cannot be decoded. -/
def State.startDecode (s : State) (stripe index purpose view : Nat) (target : Addr) : Bool × State :=
  if s.coded.decodes.any (fun d => d.stripe == stripe && d.index == index) then (true, s)
  else
    match s.planFor stripe index with
    | none => (false, s)
    | some plan =>
      let req := s.coded.nextReq % 65536
      let s := s.modCoded (fun c => { c with
        nextReq := c.nextReq + 1, decodes := c.decodes ++ [⟨req, stripe, index, purpose, [], s.now⟩] })
      let n := plan.length
      let addrs := plan.map (fun p => s.groupAddr p.1)
      let s := s.forEach ((List.range n).zip plan) (fun s x =>
        match s.groupAddr x.2.1 with
        | none => s
        | some a =>
          let next := match addrs.getD (x.1 + 1) none with
            | some b => if x.1 + 1 < n then b else target
            | none => target
          s.sendTo .coding 0 3 a none32 (.decodeRead stripe view x.2.1 x.2.2 req next x.1))
      (true, s)

/-- A decode of an own unit, for a hold or a scrub (R160). -/
def State.startLocalDecode (s : State) (stripe : Nat) : Bool × State :=
  s.startDecode stripe s.groupIndex 0 s.decodeView s.ownAddr

/-- The stripe of the coded unit that a frame holds, `none` when the frame is not of coded state or the group does not
serve decodes; nothing is recoverable before the first record (R319). -/
def State.frameStripe (s : State) (f : Nat) : Option Nat :=
  let st := s.reg Key.codedState
  if !(st = 2 ∨ st = 3 ∨ st = 4 ∨ st = 5 ∨ st = 7) ∨ s.groupIndex = 0xFF ∨ s.reg Key.codedRecordedGen = none32 then none
  else
    match (List.range s.dataUnits).find? (fun u => s.dataFrame u == some f) with
    | some u => some (stripeOf s.groupIndex u).1
    | none =>
      let b := s.coded.parityBase / frameBytes
      if b ≤ f ∧ f < b + s.reg Key.codedParityUnits ∧ b ≠ 0 then
        let u := f - b
        let ts := (List.range 8).filter (fun t => t == s.groupIndex || t == (s.groupIndex + 7) % 8)
        some (8 * (u / 2) + ts.getD (u % 2) 0)
      else none

/-- A stripe can be decoded: at most two of its units are unavailable (R335). -/
def State.decodable (s : State) (stripe : Nat) : Bool := (s.planFor stripe s.groupIndex).isSome

/-- Every hold on a decoded unit ends: the tiles that waited for nothing else get their record of kind 7 (R160). -/
def State.releaseHolds (s : State) (stripe index : Nat) : State :=
  s.forEach allCtx (fun s c => s.forEach allQueues (fun s q =>
    match s.run c q with
    | none => s
    | some r =>
      let done := r.tiles.filter (fun t => t.hold == [(stripe, index)])
      let s := s.forEach done (fun s t => s.closeHold c r.entry.command t)
      s.modRun c q (fun r => { r with tiles := r.tiles.map (fun t => { t with
        hold := t.hold.filter (fun x => x != (stripe, index)),
        waitCclk := if t.hold == [(stripe, index)] then t.waitCclk + (s.now - t.holdSince.1) * cclkPerTick else t.waitCclk }) })))

/-- An own unit has been decoded: it is written back whole, its holds end (R160, R330). -/
def State.unitDecoded (s : State) (stripe : Nat) (cs : List Host.Cell) : State :=
  let q := s.groupIndex
  -- the code words decoded: the poisoned ones, or every one of a unit that held no data (R168, log 143)
  let wordsServed (f : Nat) : Nat :=
    let n := (s.mem.poison.filter (fun a => a / frameBytes == f)).length
    if n = 0 then frameBytes / 64 else n
  let s := match rowOf stripe q with
    | some _ => s.modMem (fun m => m.setFrame (s.parityFrame (parityUnitOf q stripe)) cs)
    | none => match s.dataFrame (dataUnitOf q stripe) with
      | some f => s.modMem (fun m => m.setFrame f cs)
      | none => s
  let f := match rowOf stripe q with
    | some _ => some (s.parityFrame (parityUnitOf q stripe))
    | none => s.dataFrame (dataUnitOf q stripe)
  let s := match f with
    | some f => s.bump (Key.hbmDecodeServed (f / stackFrames)) (wordsServed f)
    | none => s
  (s.bump Key.decodeUnits 1).releaseHolds stripe q

/-- A unit is LOST on this spare and not yet rebuilt (R330). -/
def State.unitLost (s : State) (parity : Bool) (u : Nat) : Bool := (s.unitRec parity u).lost

/-- The stripe of tile `j` of handle `h` when its unit is LOST here. -/
def State.lostStripe (s : State) (h j : Nat) : Option Nat :=
  if s.reg Key.codedState ≠ 7 then none
  else match tileUnit s.codedObjects h j with
    | none => none
    | some u => if s.unitLost false u then some (stripeOf s.groupIndex u).1 else none

/-- Attach host of a spare: the module of its coordinate. -/
def attachHost (a : Addr) : Addr := ⟨a.coord, 0⟩

/-- Ask for the decode of a unit of the index this spare has taken over: its terms meet at the attach host (R321). -/
def State.startRebuild (s : State) (stripe : Nat) : State :=
  (s.startDecode stripe s.groupIndex 1 s.coded.rebuildView (attachHost s.ownAddr)).2

/-! ### Losses in the group (R323, R335) -/

/-- Group index of an address, 8 for none. -/
def State.indexOfAddr (s : State) (a : Addr) : Nat := ((List.range 8).find? (fun i => s.groupAddr i == some a)).getD 8

/-- Recompute deficit and coordinator: indices lost, or served by a spare that is rebuilding (R335). -/
def State.noteGroup (s : State) : State :=
  if s.groupIndex = 0xFF then s
  else
    let rebuilding := s.coded.takeovers.filter (fun t =>
      !s.coded.rebuilt.any (fun r => r.1 == t.1) && (List.range 8).any (fun i => s.groupRank i == t.1 && !s.groupLost i))
    (s.setReg Key.codedDeficit (((List.range 8).filter s.groupLost).length + rebuilding.length)).setReg Key.codedCoordinator s.coordinator

/-- The GROUP_STATE this member reports (R323). -/
def State.ownReport (s : State) (lost : Nat) : Nat × Nat × Nat × Nat :=
  let g := s.reg Key.codedOpenGen
  (s.reg Key.codedRecordedGen, g, s.dataUnits,
    (if s.coded.doneFrom.any (fun d => d.1 == g && d.2 == lost) then 2 else 0))

/-- Report to the coordinator after a loss; the coordinator keeps its own report (R323). -/
def State.sendReport (s : State) (lost : Nat) : State :=
  let r := s.ownReport lost
  if s.coordinator = s.groupIndex then
    s.modCoded (fun c => { c with reports := (s.groupIndex, r.1, r.2.1, r.2.2.1, r.2.2.2) :: c.reports.filter (fun x => x.1 != s.groupIndex) })
  else
    match s.groupAddr s.coordinator with
    | some a => s.sendTo .coding 0 3 a none32 (.groupState r.1 r.2.1 r.2.2.1 s.groupIndex r.2.2.2)
    | none => s

/-- A stripe has three unavailable units: three members of a group of which every stripe uses all eight are lost, or a
lost member and units still LOST make up three (R335). -/
def State.threeGone (s : State) : Bool := decide (3 ≤ s.reg Key.codedDeficit)

/-- A loss leaves a stripe that cannot be decoded: FLASH_NEEDED, with an event (R335). -/
def State.checkFlashNeeded (s : State) : State :=
  if s.threeGone ∧ s.reg Key.codedState ≠ 5 ∧ s.reg Key.codedState ≠ 8 then
    (s.setReg Key.codedState 5).log sevWarning noCtx 0x0E none32 Key.codedState 5
  else s

/-- Decodes under way are asked for again after a loss, from the suppliers that are left; one that none can serve is given
up (R335). -/
def State.restartDecodes (s : State) : State :=
  let l := s.coded.decodes
  (s.modCoded (fun c => { c with decodes := [] })).forEach l (fun s d =>
    (s.startDecode d.stripe d.index d.purpose (if d.purpose = 0 then s.decodeView else s.coded.rebuildView)
      (if d.purpose = 0 then s.ownAddr else attachHost s.ownAddr)).2)

/-- This member's GROUP_DONE of the open generation goes to the coordinator, or counts here (R316). -/
def State.sendGroupDone (s : State) : State :=
  let g := s.reg Key.codedOpenGen
  if s.coordinator = s.groupIndex then
    s.modCoded (fun c => { c with doneFrom := if c.doneFrom.contains (g, s.groupIndex) then c.doneFrom else c.doneFrom ++ [(g, s.groupIndex)] })
  else
    match s.groupAddr s.coordinator with
    | some a => s.sendTo .coding 0 3 a none32 (.groupDone g s.groupIndex)
    | none => s

/-- Recompute deficit and coordinator; when the coordinator changes before the record of the open generation, the own
GROUP_DONE goes to the new one (R316). -/
def State.regroup (s : State) : State :=
  let before := s.reg Key.codedCoordinator
  let s := s.noteGroup
  if s.groupIndex ≠ 0xFF ∧ s.coded.ownDone ∧ s.reg Key.codedOpenGen ≠ none32 ∧ s.coordinator ≠ before then s.sendGroupDone else s

/-- What the loss of an address means for the own coding group (R316, R323, R335). A report that came before the loss was
learned counts when it came within the time the coordinator waits for one (log 89). -/
def State.codedLoss (s : State) (a : Addr) : State :=
  let i := s.indexOfAddr a
  if s.groupIndex = 0xFF ∨ 8 ≤ i ∨ i = s.groupIndex ∨ s.reg Key.codedState = 8 then s
  else
    let s := s.regroup
    let late (x : Nat × Nat × Nat × Nat × Nat) : Bool :=
      s.coded.reportAt.any (fun y => y.1 == x.1 && decide (y.2 + s.force Key.codedReportWait < s.now))
    let s := if s.coded.lossSince.isEmpty then s.modCoded (fun c => { c with reports := c.reports.filter (fun x => !late x) }) else s
    let s := s.modCoded (fun c => { c with lossSince := if c.lossSince.any (fun x => x.1 == i) then c.lossSince else c.lossSince ++ [(i, s.now)] })
    (s.sendReport i).checkFlashNeeded.restartDecodes

/-- Mark an address failed with all that follows from it on this module (R243, R323). -/
def State.failAddr (s : State) (a : Addr) (code : Nat) : State :=
  let known := s.isFailed a
  let s := (s.markFailed a code).drainFails
  if known then s else s.codedLoss a

end Sys2Proof.Machine
end

