-- ==== Sys2Proof/Machine/Memory.lean ====
section
/-! DEFINITION. Memory channels (spec/08): the address map, error records and counters, what a read that finds an
error leads to, repair after an activation error (R41), and the rows of host access, refresh, scrub and error rates. -/
namespace Sys2Proof.Machine

/-! ### The address map (R146 to R149) -/

/-- Global channel of an HBM address (R150). -/
def channelOf (a : Nat) : Nat :=
  let o := a % stackBytes
  stackOfAddr a * 32 + ((o / 1024 % 32) ^^^ (o / 32768 % 32))

/-- Channel address of an HBM address (R150). -/
def channelAddr (a : Nat) : Nat := (a % stackBytes) / 32768 * 1024 + a % 1024

/-- The HBM address at a channel address of a global channel: the inverse of the interleave (R150). -/
def addrOfChannel (ch c : Nat) : Nat :=
  let hi := c / 1024
  ch / 32 * stackBytes + hi * 32768 + ((ch % 32) ^^^ (hi % 32)) * 1024 + c % 1024

/-- Column, bank and row of a channel address (R150). -/
def channelColumn (c : Nat) : Nat := c % 1024
def channelBank (c : Nat) : Nat := c / 1024 % 16
def channelRow (c : Nat) : Nat := c / 16384

/-- Protection class of an HBM frame: 1 CHECK; a frame assigned to nothing counts as CORRECT (R155). -/
def State.frameClass (s : State) (f : Nat) : Nat :=
  match s.mem.extents.find? (fun e => decide (e.first ≤ f ∧ f < e.first + e.count)) with
  | some e => e.check
  | none => 0

/-- The code word of an address is poisoned (R159). -/
def State.poisoned (s : State) (a : Nat) : Bool := s.mem.poison.contains (a / 64 * 64)

/-- Some code word of a range is poisoned. -/
def State.rangePoisoned (s : State) (a n : Nat) : Bool :=
  s.mem.poison.any (fun p => decide (p < a + n ∧ a < p + 64))

/-! ### Error records (R165) -/

/-- Write a memory error record, with its event for every kind but the corrected ones (R165). -/
def State.memError (s : State) (addr kind reader c symbol channel entry : Nat) : State :=
  let quiet := kind == 1 || kind == 5 || kind == 7
  let s := if quiet then s else s.log sevWarning c 0x06 none32 entry (addr / 4096)
  let seq := if quiet then 0 else s.reg Key.eventLogHead
  let r : MemError := ⟨addr, s.tick, s.stepOf c, kind, reader, c, symbol, channel, seq⟩
  (s.modMem (fun m => { m with errors := (r :: m.errors).take 64 })).advanceCount Key.memErrorLogHead

/-- Count a corrected code word of a stack, for its rate too (R165). -/
def State.countCe (s : State) (st : Nat) : State :=
  let s := s.bump (Key.hbmCeCount st) 1
  match stackIndex? st with
  | none => s
  | some i => s.modMem (fun m => { m with chan := m.chan.set i { m.chan[i] with
      ceHistory := (s.now, 1) :: m.chan[i].ceHistory } })

/-- Mark the code word of an address poisoned (R159). -/
def State.poisonWord (s : State) (a : Nat) : State :=
  s.modMem (fun m => { m with
    poison := if m.poison.contains (a / 64 * 64) then m.poison else a / 64 * 64 :: m.poison,
    upsets := m.upsets.filter (fun x => x.1 / 64 != a / 64) })

/-! ### Words in error (R156, R157, log 116) -/

/-- The code word or unit an address lies in: its first byte and its bytes (R156, R157). -/
def State.errorUnit (s : State) (a : Nat) : Nat × Nat :=
  if regionOf a = .store ∨ (regionOf a = .hbm ∧ s.frameClass (a / frameBytes) = 1) then (a / 256 * 256, 256) else (a / 64 * 64, 64)

/-- What the check of the code word or unit of an address finds. -/
def State.upsetAt (s : State) (a : Nat) : Finding :=
  let u := s.errorUnit a
  match s.mem.upsets.find? (fun x => decide (u.1 ≤ x.1 ∧ x.1 < u.1 + u.2)) with
  | some x => x.2
  | none => .clean

/-- Errors that a command's surroundings tell of, by address: they stand in HBM and Working Store words until those are
written. -/
def State.noteFound (s : State) (found : List (Nat × Finding)) : State :=
  let l := found.filter (fun x => x.2 != .clean && (regionOf x.1 == .hbm || regionOf x.1 == .store))
  s.modMem (fun m => { m with upsets := l ++ m.upsets.filter (fun x => !l.any (fun y => y.1 == x.1)) })

/-- The code words and units in error, first bytes, that meet a condition on first byte and bytes. -/
def State.suspects (s : State) (hit : Nat → Nat → Bool) : List Nat :=
  dedup (((s.mem.poison ++ s.mem.upsets.map Prod.fst).map s.errorUnit).filter (fun u => hit u.1 u.2) |>.map Prod.fst)

/-! ### Reads that find an error (R156 to R160) -/

/-- What a read comes to: served, uncorrectable, held for a decode of a stripe, or a CHECK failure. -/
inductive ReadOut | ok | fail | hold (stripe : Nat) | act
  deriving DecidableEq, Repr

/-- Whether a read delivered an error: anything but a served read. -/
def ReadOut.isError : ReadOut → Bool
  | .ok => false
  | _ => true

/-- A read of HBM or a Working Store by a reader, with what its check found: counters, records, poison write-back, and
what it comes to. Reader codes are those of the error record; `c` is the context, 0xFF for none. -/
def State.readAt (s : State) (c reader addr : Nat) (f : Finding) : ReadOut × State :=
  match regionOf addr with
  | .hbm =>
    let st := stackOfAddr addr
    let word := addr / 64 * 64
    if s.frameClass (addr / frameBytes) = 1 then
      match f with
      | .uncorrectable | .checkFail =>
        let s := s.bump (Key.hbmCheckDetectCount st) 1
        (.act, s.memError (addr / 256 * 256) 3 reader c 0xFF (channelOf addr) (Key.hbmCheckDetectCount st))
      | _ => (.ok, s)
    else
      let bad (s : State) : ReadOut × State :=
        match s.frameStripe (addr / frameBytes) with
        | some stripe => if s.decodable stripe then (.hold stripe, s) else (.fail, s)
        | none => (.fail, s)
      if s.poisoned addr then
        let s := s.bump (Key.hbmPoisonReads st) 1
        bad (s.memError word 4 reader c 0xFF (channelOf addr) (Key.hbmPoisonReads st))
      else
        match f with
        | .corrected sym => (.ok, (s.countCe st).memError word 1 reader c sym (channelOf addr) (Key.hbmCeCount st))
        | .uncorrectable =>
          let s := (s.bump (Key.hbmUeCount st) 1).poisonWord addr
          bad (s.memError word 2 reader c 0xFF (channelOf addr) (Key.hbmUeCount st))
        | _ => (.ok, s)
  | .reserve off =>
    let a := s.reserveAddr off
    match f with
    | .corrected sym =>
      (.ok, ((s.bump Key.reserveCeCount 1).modMem (fun m => { m with reserveCe := (s.now, 1) :: m.reserveCe })).memError
        a 7 reader c sym 0xFFFF Key.reserveCeCount)
    | .uncorrectable =>
      (.fail, (s.bump Key.reserveUeCount 1).memError a 8 reader c 0xFF 0xFFFF Key.reserveUeCount)
    | _ => (.ok, s)
  | .store =>
    match f with
    | .uncorrectable | .checkFail => (.act, s.memError (addr / 256 * 256) 3 reader c 0xFF 0xFFFF Key.memErrorLogHead)
    | _ => (.ok, s)
  | .hub =>
    match f with
    | .corrected sym => (.ok, s.memError addr 5 reader c sym 0xFFFF Key.memErrorLogHead)
    | .uncorrectable => (.fail, s.memError addr 6 reader c 0xFF 0xFFFF Key.memErrorLogHead)
    | _ => (.ok, s)
  | _ => (.ok, s)

/-- Read code words and units in error one after another until one stops the reader: what that comes to, and its address. -/
def State.readWords (s : State) (c reader : Nat) : List Nat → (ReadOut × Nat) × State
  | [] => ((.ok, 0), s)
  | a :: t =>
    let x := s.readAt c reader a (s.upsetAt a)
    match x.1 with
    | .ok => State.readWords x.2 c reader t
    | o => ((o, a), x.2)

/-- A read of a range of addresses. -/
def State.readRange (s : State) (c reader a n : Nat) : (ReadOut × Nat) × State :=
  s.readWords c reader (s.suspects (fun u k => decide (u < a + n ∧ a < u + k)))

/-! ### Writes through the channels (R153, R159) -/

/-- The `i`-th code word of the 256-byte unit at `u` is covered whole by a write of `n` bytes at `a`. -/
def coversWord (a n u i : Nat) : Bool := decide (a ≤ u + 64 * i) && decide (u + 64 * i + 64 ≤ a + n)

/-- The reading half of a read-modify-write: the words in error of the units that a write covers in part are read, in a unit
with an uncorrectable code word every code word that the write does not cover in full is left poisoned, and a CHECK unit in
error is noted (R38, R153, R159, log 92). -/
def State.rmwRead (s : State) (c reader a n : Nat) : State :=
  if regionOf a ≠ .hbm then s
  else
    let units := partialUnits a n
    let s := s.forEach (s.suspects (fun u _ => units.contains (u / 256 * 256))) (fun s w =>
      let x := s.readAt c reader w (s.upsetAt w)
      if x.1 = .act then x.2.modMem (fun m => { m with writeHurt := some w }) else x.2)
    let bad := units.filter (fun v => s.mem.poison.any (fun p => p / 256 * 256 == v))
    s.forEach bad (fun s v => s.forEach ((List.range 4).filter (fun i => !coversWord a n v i)) (fun s i => s.poisonWord (v + 64 * i)))

/-- A write of the memory channels: what it must read first, then the write (R153). -/
def State.chanWrite (s : State) (c reader a : Nat) (bs : List Byte) : State :=
  (s.rmwRead c reader a bs.length).busWrite a bs

/-- Bytes at rising addresses as runs of consecutive ones. -/
def addrRuns : List (Nat × Byte) → List (Nat × List Byte)
  | [] => []
  | (a, b) :: t =>
    match addrRuns t with
    | (f, bs) :: r => if a + 1 = f then (a, b :: bs) :: r else (a, [b]) :: (f, bs) :: r
    | [] => [(a, [b])]

/-- Write bytes into a version from `off` on, for context `c` and a reader code of R165; bytes past its end are dropped. -/
def State.verWrite (s : State) (c reader : Nat) (o : ObjRec) (v : Version) (off : Nat) (bs : List Byte) : State :=
  s.forEach (addrRuns ((indexed bs).filterMap (fun x => (v.addr o (off + x.1)).map (fun a => (a, x.2)))))
    (fun s r => s.chanWrite c reader r.1 r.2)

/-! ### Uncorrectable Hub SRAM words (R160, R362) -/

/-- An uncorrectable Hub SRAM word: the context whose own table holds it is torn down, or, for a shared table, every
context, and the image is unusable until it is loaded again. Which table an address lies in the spec does not lay down:
a free value decides (log 24). -/
def State.hubUncorrectable (s : State) (addr : Nat) : State :=
  match ctxIndex? (Config.freeValue 24 addr % 5) with
  | some c => s.ctxFault c 0x10 none32 0x06 Key.memErrorLogHead (addr / 4096)
  | none =>
    let s := s.logModule 0x10 sevModule 0x06 Key.memErrorLogHead (addr / 4096)
    let s := s.modMem (fun m => { m with imageUnusable := true })
    s.forEach allCtx (fun s c => if s.holds c then s.beginTeardown c 0x10 none32 else s)

/-- The errors told with a command: those of Hub SRAM words take their course at once, the others stand in their words. -/
def State.tellFound (s : State) (c reader : Nat) (found : List (Nat × Finding)) : State :=
  (s.noteFound found).forEach (found.filter (fun x => regionOf x.1 == .hub)) (fun s x =>
    let y := s.readAt c reader x.1 x.2
    if y.1 = .fail then y.2.hubUncorrectable x.1 else y.2)

/-! ### Repair after an activation error (R41) -/

/-- The producer tag of the version a command of context `c` reads under a handle. -/
def State.producerOf (s : State) (h c : Nat) : Option (Nat × Nat) :=
  match s.inst h c with
  | some i => match i.hot with
    | some v => v.prod
    | none => none
  | none => none

/-- A command of the image. -/
def State.command? (s : State) (i : Nat) : Option Command :=
  match s.image with
  | some im => im.commands[i]?
  | none => none

/-- The image's command an entry names, its argument put in place. -/
def State.originalCommand (s : State) (r : Run) : Command :=
  match s.command? r.entry.command with
  | some cmd => if r.entry.argument = none32 then cmd else { cmd with inputs := listSet cmd.inputs 0 r.entry.argument }
  | none => r.cmd

/-- The version a command of context `c` reads under a handle, when it is HOT. -/
def State.inputVersion (s : State) (h c : Nat) : Option Version :=
  match s.inst h c with
  | some i => i.hot
  | none => none

/-- A version that a run has staged holds an address. -/
def Run.stagedHolds (r : Run) (addr : Nat) : Bool := r.staged.any (fun v => v.2.holds addr)

/-- A detected CHECK failure on a read by the command at the head of a queue (R38, R41): the command is killed; a damaged
committed input is produced again first, and where that is impossible, in a repair run too, the context is torn down. -/
def State.actDetected (s : State) (c : Fin 4) (q : Fin 8) (h addr : Nat) : State :=
  match s.run c q with
  | none => s
  | some r =>
    let cmd := r.entry.command
    let fault (s : State) : State := s.ctxFault c 0x11 cmd 0x06 Key.killCount (addr / 4096)
    if !r.running then s
    else if bit r.cmd.flags 1 then fault s
    else if s.reg Key.rerunLimit < r.reruns + 1 then fault s
    else if r.cmd.kind = 4 ∧ (match r.cmd.param, r.copy with | .copy p, some k => p.op == 4 && k.sentAny | _, _ => false) = true then
      fault s
    else if r.stagedHolds addr then
      -- rerunning the command that wrote a staged version repairs it
      let s := s.logCtx c 0x11 sevRecovered 0x06 cmd Key.killCount (addr / 4096)
      (s.killRun c q).settlePreempt c
    else if r.repairOf.isSome then
      -- the producer's own inputs report a detected error
      fault s
    else
      match s.producerOf h c with
      | none => fault s
      | some p =>
        match s.command? p.1 with
        | none => fault s
        | some prod =>
          if prod.isCrew then fault s
          else
            let s := s.logCtx c 0x11 sevRecovered 0x06 cmd Key.killCount (addr / 4096)
            let s := s.killRun c q
            let s := s.modRun c q (fun x => { x with cmd := prod, repairOf := some (h, s.ownerOf h c, p.1) })
            s.settlePreempt c

/-- Reader code of what reads for a command: the near stream of a BLOCK's lowest tile or its far stream, else a hub block
(R165). -/
def Run.readerOf (r : Run) (addr : Nat) : Nat :=
  if r.cmd.kind = 1 then
    (if regionOf addr = .hbm ∧ (r.tiles.map TileRun.tile).contains (stackOfAddr addr / 2) then 0 else 1)
  else 3

/-- ACT_DETECTED (R41): a CHECK failure on a read by the command at the head of a queue, of a version it reads or has staged. -/
def execActDetected (c : Fin 4) (q : Fin 8) (handle addr : Nat) (s : State) : Host.Outcome State Fault Refusal :=
  .next (
    match s.run c q with
    | none => s
    | some r =>
      let reads := r.stagedHolds addr || (match s.inputVersion handle c with | some v => v.holds addr | none => false)
      if !r.running ∨ !reads then s
      else
        let x := s.readAt c (r.readerOf addr) addr .checkFail
        if x.1 = .act then x.2.actDetected c q handle addr else s)

/-! ### Reads of a hub block for a command (R160) -/

/-- Frames of the committed HOT version a command of context `c` reads under a handle. -/
def State.inputFrames (s : State) (h c : Nat) : List Nat :=
  match s.inst h c with
  | some i => match i.hot with
    | some v => v.frames
    | none => []
  | none => []

/-- A part of an object that is read: handle, first byte, bytes. -/
abbrev ObjPart := Nat × Nat × Nat

/-- All of an object. -/
def State.wholeOf (s : State) (h : Nat) : ObjPart := (h, 0, match s.objRec h with | some o => o.size | none => 0)

/-- Some byte of the `k` bytes from address `u` on is one of the `n` bytes from byte `lo` on of a version. -/
def Version.meets (v : Version) (o : ObjRec) (lo n u k : Nat) : Bool :=
  (indexed v.frames).any (fun x =>
    let sp := o.tileSpan x.1
    x.2 == u / frameBytes &&
      decide (max lo (sp.1 + u % frameBytes) < min (lo + n) (sp.1 + min sp.2 (u % frameBytes + k)))) ||
  v.store.any (fun x => decide (max (max lo x.1) (x.1 + u - x.2.2) < min (lo + n) (min (x.1 + x.2.1) (x.1 + (u + k) - x.2.2))))

/-- A word in error lies in a part of an object as context `c` reads it. -/
def State.partMeets (s : State) (c : Fin 4) (p : ObjPart) (u k : Nat) : Bool :=
  match s.inputVersion p.1 c, s.objRec p.1 with
  | some v, some o => v.meets o p.2.1 p.2.2 u k
  | _, _ => false

/-- What the words in error among the parts of objects a command reads come to for a hub block: served, failed, killed, or held for the
decode of a stripe, with the address; also the LOST units among them on a rebuilding spare (R160, R330). -/
def State.hubInputs (s : State) (c : Fin 4) (hs : List ObjPart) : (ReadOut × Nat) × State :=
  let x := s.readWords c 3 (s.suspects (fun u k => hs.any (fun p => s.partMeets c p u k)))
  match x.1.1 with
  | .ok =>
    let s := x.2
    let lost := hs.flatMap (fun p => match s.objRec p.1 with
      | some o => ((List.range (s.inputFrames p.1 c).length).filter (fun j =>
          decide (max p.2.1 (o.tileSpan j).1 < min (p.2.1 + p.2.2) ((o.tileSpan j).1 + (o.tileSpan j).2)))).filterMap (s.lostStripe p.1)
      | none => [])
    match lost.head? with
    | some stripe => ((.hold stripe, 0), s.startRebuild stripe)
    | none => ((.ok, 0), s)
  | .hold stripe => (x.1, (x.2.startLocalDecode stripe).2)
  | _ => x

/-! ### Host access (R147, R148, R153, R159, R160, R250) -/

/-- The host link carries memory accesses: `PERST#` high and the start complete, SAFE apart (R428, R433). -/
def State.hostLink (s : State) : Bool := !s.power.perst && s.started && (s.mstate == stConfig || s.mstate == stRun)

/-- Every address of a range lies in the region kind of its first one. -/
def sameRegion (a n : Nat) : Bool :=
  match regionOf a, regionOf (a + n - 1) with
  | .reserve _, .reserve _ => true
  | x, y => x == y

/-- An address lies in a version that a command has staged and not committed (R24). -/
def State.stagedAddr (s : State) (a : Nat) : Bool :=
  allCtx.any (fun c => allQueues.any (fun q => match s.run c q with
    | some r => r.stagedHolds a
    | none => false))

/-- Offset of an address in the unit table (R312). -/
def State.tableOffset (s : State) (a : Nat) : Option Nat :=
  (s.mem.extents.find? (fun e => e.holder == .coded 1 && decide (e.first * frameBytes ≤ a ∧ a < (e.first + e.count) * frameBytes))).map
    (fun e => a - e.first * frameBytes)

/-- Bytes a host read delivers; the unit table is read as it stands (R312); the bytes of Hub SRAM have no layout in the spec and are free (log 25), and so are those of a
staged version, which no host read reaches (R24, log 117). -/
def State.hostBytes (s : State) (a n : Nat) : List Byte :=
  match regionOf a with
  | .reserve off => cellBytes s.mem.reserve (s.reserveAddr off) n
  | .hub => (List.range n).map (fun i => BitVec.ofNat 8 (Config.freeValue 25 (a + i)))
  | _ => (List.range n).map (fun i =>
      match s.tableOffset (a + i) with
      | some off => s.unitTableByte off
      | none => if s.stagedAddr (a + i) then BitVec.ofNat 8 (Config.freeValue 117 (a + i)) else cellGet s.mem.cells (a + i))

/-- What a read of a range outside HBM and the Working Stores finds among the errors told with it. -/
def State.readOther (s : State) (c reader addr len : Nat) (found : List (Nat × Finding)) : ReadOut × State :=
  (found.filter (fun x => decide (addr ≤ x.1 ∧ x.1 < addr + len))).foldl (fun (x : ReadOut × State) y =>
    if x.1.isError then x else x.2.readAt c reader y.1 y.2) (.ok, s)

/-- HOST_MEM_READ (R148). -/
def execHostMemRead (addr len : Nat) (found : List (Nat × Finding)) (s : State) : Host.Outcome State Fault Refusal :=
  .next (
    if !s.hostLink ∨ len = 0 then s
    else match regionOf addr with
      | .remote => (s.bump Key.mfHostRefused 1).toHost (.unsupported addr)
      | .unpopulated => (s.bump Key.hostUnmappedCount 1).toHost (.unsupported addr)
      | r =>
        if !sameRegion addr len then (s.bump Key.hostUnmappedCount 1).toHost (.unsupported addr)
        else
          let x := if r = .hbm ∨ r = .store then
              let y := (s.noteFound found).readRange noCtx 4 addr len
              (y.1.1, y.2)
            else s.readOther noCtx 4 addr len found
          let s := x.2
          if x.1.isError then
            let s := s.bump Key.hostPoisonCount 1
            let s := s.toHost (.readData addr ((List.range len).map (fun i => Config.poisonedByte (s.freeCount + i))) true)
            let s := { s with freeCount := s.freeCount + len }
            if r = .hub then s.hubUncorrectable addr else s
          else s.toHost (.readData addr (s.hostBytes addr len) false))

/-- HOST_MEM_WRITE (R148). -/
def execHostMemWrite (addr : Nat) (data : List Byte) (found : List (Nat × Finding)) (s : State) : Host.Outcome State Fault Refusal :=
  .next (
    if !s.hostLink ∨ data.isEmpty then s
    else match regionOf addr with
      | .remote => s.bump Key.mfHostRefused 1
      | .unpopulated => s.bump Key.hostUnmappedCount 1
      | .hub => s.bump Key.hostUnmappedCount 1
      | _ =>
        if !sameRegion addr data.length then s.bump Key.hostUnmappedCount 1
        else (s.noteFound found).chanWrite noCtx 4 addr data)

/-! ### Refresh (R161 to R163) -/

/-- Change the channel side of a stack. -/
def State.modStack (s : State) (st : Fin 8) (f : Stack → Stack) : State :=
  s.modMem (fun m => { m with chan := m.chan.set st (f m.chan[st]) })

/-! ### Patrol scrub (R164) -/

/-- Transfers of 256 bytes in a channel of 3 GiB. -/
abbrev scrubEnd : Nat := 0xC00000

/-- The next transfer of a channel at or after `pos` whose frame is CORRECT; `fuel` bounds the CHECK extents skipped. -/
def State.scrubNext (s : State) (ch pos : Nat) : Nat → Nat
  | 0 => pos
  | fuel + 1 =>
    if scrubEnd ≤ pos then scrubEnd
    else
      let f := addrOfChannel ch (pos * 256) / frameBytes
      match s.mem.extents.find? (fun e => decide (e.first ≤ f ∧ f < e.first + e.count) && e.check == 1) with
      | some e => State.scrubNext s ch ((e.first + e.count - ch / 32 * stackFrames) * 8) fuel
      | none => pos

/-- The scrubber's place in a channel moves on; when every channel is at its end the pass is done (R164). -/
def State.scrubTo (s : State) (ch pos : Nat) : State :=
  let s := s.modMem (fun m => { m with scrub := sparseSet m.scrub ch (min scrubEnd pos) 0 })
  if s.mem.scrub.length = 256 ∧ s.mem.scrub.all (fun x => x.2 == scrubEnd) then
    ((s.bump Key.scrubPasses 1).setReg Key.scrubLastPassTime (((s.now - s.mem.scrubStart) / 100000) % 2 ^ 32)).modMem
      (fun m => { m with scrub := [] })
  else s

/-- One word in error that the scrubber reads: a corrected one is to be written back, an uncorrectable one of coded state is
rewritten by decode, another is left poisoned (R160, R164). -/
def State.scrubWord (s : State) (a : Nat) : State :=
  let x := s.readAt noCtx 2 a (s.upsetAt a)
  match x.1, s.upsetAt a with
  | .hold stripe, _ => (x.2.startLocalDecode stripe).2
  | .ok, .corrected _ => x.2.modMem (fun m => { m with scrubFix := if m.scrubFix.contains a then m.scrubFix else a :: m.scrubFix })
  | _, _ => x.2

/-- The scrubber reads the next CORRECT transfer of a channel, four code words (R153, R164). -/
def State.scrubTransfer (s : State) (ch : Nat) : State :=
  let s := if s.mem.scrub.isEmpty then s.modMem (fun m => { m with scrubStart := s.now }) else s
  let pos := s.scrubNext ch (sparseGet s.mem.scrub ch 0) (s.mem.extents.length + 1)
  if scrubEnd ≤ pos then s.scrubTo ch scrubEnd
  else
    let unit := addrOfChannel ch (pos * 256)
    (s.forEach (s.suspects (fun u _ => u / 256 * 256 == unit)) State.scrubWord).scrubTo ch (pos + 1)

/-- Bytes of the Reserve Memory: sixteen packages (R147). -/
abbrev reserveBytes : Nat := 16 * packageBytes

/-- SCRUB_READ (R164): the scrubber reads the next CORRECT transfer of a channel; from channel 256 on, the Reserve Memory's
own controller reads the next code word of its pass, of which the first error told holds (log 118). -/
def execScrubRead (chan : Nat) (found : List (Nat × Finding)) (s : State) : Host.Outcome State Fault Refusal :=
  .next (
    if !s.hubUp then s
    else if 256 ≤ chan then
      let a := s.mem.reserveScrub
      let s := match found.head? with
        | some (_, .corrected sym) =>
          ((s.bump Key.reserveCeCount 1).modMem (fun m => { m with reserveCe := (s.now, 1) :: m.reserveCe })).memError
            a 7 2 noCtx sym 0xFFFF Key.reserveCeCount
        | some (_, .uncorrectable) => (s.bump Key.reserveUeCount 1).memError a 8 2 noCtx 0xFF 0xFFFF Key.reserveUeCount
        | _ => s
      s.modMem (fun m => { m with reserveScrub := (a + 64) % reserveBytes })
    else if s.force Key.scrubEnable = 0 then s
    else (s.tellFound noCtx 2 found).scrubTransfer chan)

/-- SCRUB_WRITEBACK (R164): a corrected code word is written back; a write since then has made it needless. -/
def execScrubWriteback (addr : Nat) (s : State) : Host.Outcome State Fault Refusal :=
  .next (
    if s.hubUp ∧ s.mem.scrubFix.contains addr then s.modMem (fun m => { m with
      scrubFix := m.scrubFix.filter (· != addr), upsets := m.upsets.filter (fun x => x.1 / 64 != addr / 64) })
    else s)

/-! ### Quiet slots (R161 to R163) -/

/-- A quiet slot of a stack: the controller refreshes when the stack refreshes in every slot or this is the second since the
last refresh (`parity` tells that the next slot refreshes), and scrubs one transfer of each of its channels (R161, R162,
R164). -/
def State.quietSlot (s : State) (stack : Fin 8) : State :=
  let doubled := bit (s.reg Key.refreshDoubled) stack
  let s := s.modStack stack (fun x => { x with sinceSlot := 0, parity := if doubled then true else !x.parity })
  if s.force Key.scrubEnable = 0 then s
  else s.forEach (List.range 32) (fun s i => s.scrubTransfer (stack.val * 32 + i))

/-- A block is issuing on a tile, so its near stacks have no quiet slot but those its schedule marks (R161). -/
def State.tileStreams (s : State) (tile : Nat) : Bool :=
  allCtx.any (fun c => allQueues.any (fun q => match s.run c q with
    | some r => r.running && r.tiles.any (fun t => t.tile == tile && t.waiting.isNone && t.hold.isEmpty && !t.todo.isEmpty)
    | none => false))

/-- REFRESH_SLOT (R161): a quiet slot of the stack begins while its near tile asks nothing of it: it is idle, waits, or no image
is loaded. -/
def execRefreshSlot (stack : Fin 8) (dt : Nat) (found : List (Nat × Finding)) (s : State) : Host.Outcome State Fault Refusal :=
  .next (
    let s := s.advance dt
    if s.hubUp ∧ !s.tileStreams (stack.val / 2) then (s.tellFound noCtx 2 found).quietSlot stack else s)

/-- CCLK of a near tile without a quiet slot after which one is forced (R163). -/
abbrev forcedAfter : Nat := 6240

/-- CCLK of a quiet slot (R161). -/
abbrev slotCclk : Nat := 64

/-- A block runs on a tile and neither waits nor is held. -/
def State.tileRuns (s : State) (tile : Nat) : Bool :=
  allCtx.any (fun c => allQueues.any (fun q => match s.run c q with
    | some r => r.running && r.tiles.any (fun t => t.tile == tile && t.waiting.isNone && t.hold.isEmpty)
    | none => false))

/-- FORCED_REFRESH (R163): a stack whose near tile has run 6,240 CCLK of a block without a quiet slot stalls that tile's near
stream for 64 CCLK, which counts as a departure of the block's segment and against its budget (R81, R302). -/
def execForcedRefresh (stack : Fin 8) (dt : Nat) (s : State) : Host.Outcome State Fault Refusal :=
  .next (
    let s := s.advance dt
    let tile := stack.val / 2
    if s.image.isNone ∨ !s.tileRuns tile ∨ s.mem.chan[stack].sinceSlot < forcedAfter then s
    else
      let s := s.bump Key.forcedRefreshCount 1
      let s := s.log sevWarning noCtx 0x06 none32 Key.forcedRefreshCount stack
      let s := (s.bump (Key.streamStallCycles tile) slotCclk).bump (Key.blockCycles tile) slotCclk
      let s := s.forEach allCtx (fun s c => s.forEach allQueues (fun s q => s.modRun c q (fun r =>
        if r.running ∧ r.tiles.any (fun t => t.tile == tile) then
          { r with tiles := r.tiles.map (fun t => if t.tile = tile then { t with cycles := t.cycles + slotCclk } else t) } else r)))
      s.modStack stack (fun x => { x with sinceSlot := x.sinceSlot - forcedAfter, parity := false }))

/-- REFRESH_DOUBLED_CLEAR (R162): the stack has been at 80 °C or below for 1 s. -/
def execRefreshDoubledClear (stack : Fin 8) (dt : Nat) (s : State) : Host.Outcome State Fault Refusal :=
  .next (
    let s := s.advance dt
    match s.mem.chan[stack].coolSince with
    | some t =>
      let v := s.reg Key.refreshDoubled
      if t + 100000000 ≤ s.now ∧ bit v stack then
        (s.setReg Key.refreshDoubled (v - 2 ^ stack.val)).modStack stack (fun x => { x with coolSince := none })
      else s
    | none => s)

/-! ### Error rates (R165) -/

/-- Ticks of 60 s. -/
abbrev minuteTicks : Nat := 6000000000

/-- ERROR_RATE_UPDATE (R165): corrected code words of the last 60 s, once per second. -/
def execErrorRateUpdate (dt : Nat) (s : State) : Host.Outcome State Fault Refusal :=
  .next (
    let s := s.advance dt
    let recent (l : List (Nat × Nat)) := l.filter (fun x => decide (s.now < x.1 + minuteTicks))
    let count (l : List (Nat × Nat)) := l.foldl (fun n x => n + x.2) 0
    let s := s.forEach ([0, 1, 2, 3, 4, 5, 6, 7] : List (Fin 8)) (fun s i =>
      let s := s.modStack i (fun x => { x with ceHistory := recent x.ceHistory })
      s.setReg (Key.hbmCeRate i) (count s.mem.chan[i].ceHistory))
    let s := s.modMem (fun m => { m with reserveCe := recent m.reserveCe })
    let s := s.setReg Key.reserveCeRate (count s.mem.reserveCe)
    s.forEach allPorts (fun s p =>
      let s := s.modPort p (fun x => { x with crcHistory := x.crcHistory.filter (fun t => decide (s.now < t + minuteTicks)) })
      s.setReg (Key.portCrcRate p) (s.port p).crcHistory.length))

end Sys2Proof.Machine
end

