-- ==== Sys2Proof/Machine/Placement.lean ====
section
/-! DEFINITION. The Placement Engine, the Tile Codec and the staging area (spec/09): homes, usage and keys, plans and
their effect boundaries, moves, digests, initial placement, fetches and staging, and the rows PLAN_COMPLETE,
MOVE_COMPLETE, PLAN_DIGEST, CODEC_TILE_DONE, STAGING_HINT and FETCH. -/
namespace Sys2Proof.Machine

/-! ### Objects of the domain (R170, R175) -/

/-- Routing layer record of a layer index. -/
def State.layerRec (s : State) (l : Nat) : Option LayerRec :=
  match s.image with
  | some im => im.layers.find? (fun r => r.layer == l)
  | none => none

/-- Home of expert `e` of a layer: ⌊e · M ÷ X⌋ (R175). -/
def State.homeMember (s : State) (lr : LayerRec) (e : Nat) : Nat :=
  match s.crew? lr.crew with
  | some cr => e * cr.members.length / lr.experts
  | none => 0

/-- This module's member index in a layer's routing crew. -/
def State.layerSelf (s : State) (lr : LayerRec) : Nat := s.selfIndex lr.crew

/-- This module is the home of an object: every module for an object without `EXPERT` (R175). -/
def State.homed (s : State) (o : ObjRec) : Bool :=
  if !o.isExpert then true
  else match s.layerRec o.layer with
    | some lr => s.homeMember lr o.expert == s.layerSelf lr
    | none => false

/-- The module that homes an expert: the address of its home member (R175). -/
def State.homeModule (s : State) (o : ObjRec) : Option Addr :=
  match s.layerRec o.layer with
  | none => none
  | some lr => match s.crew? lr.crew with
    | some cr => s.memberAddr cr (s.homeMember lr o.expert)
    | none => none

/-- Handle of the object of an expert. -/
def State.expertHandle (s : State) (layer expert : Nat) : Option Nat :=
  match s.image with
  | none => none
  | some im => im.objects.findIdx? (fun o => o.isExpert && o.layer == layer && o.expert == expert)

/-- HBM bytes of a HOT copy. -/
def ObjRec.hotSize (o : ObjRec) : Nat := o.tileCount * frameBytes

/-- The most a compressed copy occupies: 65,792 bytes a tile (R172, R182). -/
def ObjRec.lowMax (o : ObjRec) : Nat := o.tileCount * 65792

/-- Order of the tiers, warmest first (R169). -/
def tierRank : Tier → Nat
  | .hot => 0 | .warm => 1 | .cold => 2 | .remote => 3

/-! ### Keys (R176) -/

/-- What the placement rule sees of one object: class rank, usage, last-admitted step, layer, index; sizes; ceiling;
planned tier. -/
structure PObj where
  handle : Nat
  owner : Nat
  rank : Nat
  usage : Nat
  last : Nat
  layer : Nat
  isExpert : Bool
  expert : Nat
  hotSize : Nat
  lowSize : Nat
  ceiling : Nat
  tier : Tier
  deriving DecidableEq, Repr

/-- `a` is hotter than `b` (R176). -/
def PObj.hotter (a b : PObj) : Bool :=
  if a.rank ≠ b.rank then decide (b.rank < a.rank)
  else if a.usage ≠ b.usage then decide (b.usage < a.usage)
  else if a.last ≠ b.last then decide (b.last < a.last)
  else if a.layer ≠ b.layer then decide (a.layer < b.layer)
  else if a.isExpert && b.isExpert then decide (a.expert < b.expert)
  else if a.handle ≠ b.handle then decide (a.handle < b.handle)
  else decide (a.owner < b.owner)

/-- The context whose boundaries drive the rule (R176). -/
def State.placeCtx (s : State) : Nat := s.force Key.placeContext

/-- Last-admitted step of an expert in a context, 0 when none was admitted (R139, R176). -/
def State.lastAdmitted (s : State) (c layer expert : Nat) : Nat :=
  match ctxIndex? c with
  | none => 0
  | some i => match (s.ctx i).lastAdmit.find? (fun x => x.1 == layer && x.2.1 == expert) with
    | some x => x.2.2
    | none => 0

/-- What the rule sees of an instance: the compressed size is known once the copy has been written, and until then counts
as the most it can be (log 28). -/
def State.pobj (s : State) (i : ObjInst) : Option PObj :=
  (s.objRec i.handle).map (fun o =>
    { handle := i.handle, owner := i.owner, rank := if o.placement = 3 then 0 else 1, usage := i.usage,
      last := if o.isExpert then s.lastAdmitted s.placeCtx o.layer o.expert else 0, layer := o.layer, isExpert := o.isExpert,
      expert := o.expert, hotSize := o.hotSize,
      lowSize := match i.low with | some l => l.bytes | none => o.lowMax,
      ceiling := o.ceiling, tier := i.planned })

/-! ### Plans (R177) -/

/-- Progress of the tier moves of a plan. -/
structure PlanSt where
  tiers : List (Nat × Nat × Tier)
  moves : Nat
  bytes : Nat
  freeHot : Int
  freeWarm : Int
  freeCold : Int
  deriving DecidableEq, Repr

/-- Size of an object in a tier. -/
def PObj.sizeIn (p : PObj) : Tier → Nat
  | .hot => p.hotSize
  | _ => p.lowSize

def PlanSt.free (st : PlanSt) : Tier → Int
  | .hot => st.freeHot | .warm => st.freeWarm | _ => st.freeCold

/-- Room of a tier changed by `d`. -/
def PlanSt.addFree (st : PlanSt) (t : Tier) (d : Int) : PlanSt :=
  match t with
  | .hot => { st with freeHot := st.freeHot + d }
  | .warm => { st with freeWarm := st.freeWarm + d }
  | _ => { st with freeCold := st.freeCold + d }

/-- Planned tier of an object so far. -/
def PlanSt.tierOf (st : PlanSt) (p : PObj) : Tier :=
  match st.tiers.find? (fun t => t.1 == p.handle && t.2.1 == p.owner) with
  | some t => t.2.2
  | none => p.tier

/-- Move an object between tiers in the plan. -/
def PlanSt.move (st : PlanSt) (p : PObj) (t : Tier) : PlanSt :=
  let st := (st.addFree (st.tierOf p) (p.sizeIn (st.tierOf p))).addFree t (-(p.sizeIn t : Int))
  { st with tiers := (p.handle, p.owner, t) :: st.tiers.filter (fun x => !(x.1 == p.handle && x.2.1 == p.owner)) }

/-- Victims for a candidate, coldest first: the inner loop of the pseudocode. Answers the victims and the room freed. -/
def planVictims (margin : Nat) (c : PObj) (upper lower : Tier) :
    List PObj → List PObj → Int → Int → List PObj × Int
  | [], vs, freed, _ => (vs, freed)
  | v :: rest, vs, freed, room =>
    if (c.sizeIn upper : Int) ≤ freed then (vs, freed)
    else if !c.hotter v || decide (c.usage < v.usage + margin) then (vs, freed)
    else if tierRank lower ≤ v.ceiling ∧ (v.sizeIn lower : Int) ≤ room then
      planVictims margin c upper lower rest (vs ++ [v]) (freed + v.sizeIn upper) (room - v.sizeIn lower)
    else planVictims margin c upper lower rest vs freed room

/-- Promotions into `upper` over the candidates of `lower`, hottest first: the outer loop of the pseudocode. -/
def planPair (movesMax reserve margin : Nat) (all : List PObj) (upper lower : Tier) : List PObj → PlanSt → PlanSt
  | [], st => st
  | c :: rest, st =>
    if st.moves = movesMax ∨ reserve < st.bytes + c.sizeIn upper then st
    else
      let coldest := (sortBy PObj.hotter (all.filter (fun v => st.tierOf v == upper))).reverse
      let r := planVictims margin c upper lower coldest [] (st.free upper) (st.free lower)
      if r.2 < (c.sizeIn upper : Int) then st
      else
        let st := r.1.foldl (fun st v => st.move v lower) st
        let st := st.move c upper
        planPair movesMax reserve margin all upper lower rest
          { st with moves := st.moves + 1 + r.1.length, bytes := st.bytes + c.sizeIn upper }

/-- A tier pair of the plan. -/
def planTier (movesMax reserve margin : Nat) (all : List PObj) (upper lower : Tier) (st : PlanSt) : PlanSt :=
  planPair movesMax reserve margin all upper lower
    (sortBy PObj.hotter (all.filter (fun c => st.tierOf c == lower))) st

/-- The first member from `m` on that may take a replica: room, not the home, not granted (R177). -/
def grantMember (n size home : Nat) (room : Nat → Nat) (has : Nat → Bool) : Nat → Nat → Option Nat
  | 0, _ => none
  | fuel + 1, m =>
    if size ≤ room m ∧ m ≠ home ∧ !has m then some m else grantMember n size home room has fuel ((m + 1) % n)

/-- Room of a member for replicas, by crew and member (log 29). -/
abbrev GrantRoom := List (Nat × Nat × Nat)

def roomOf (r : GrantRoom) (budget crew m : Nat) : Nat :=
  match r.find? (fun x => x.1 == crew && x.2.1 == m) with
  | some x => x.2.2
  | none => budget

/-- Grants of one object: `want` replicas from copy `j` on. -/
def grantCopies (budget crew n home reps handle size : Nat) : Nat → Nat → List (Nat × Nat) × GrantRoom → List (Nat × Nat) × GrantRoom
  | 0, _, a => a
  | k + 1, j, a =>
    let m0 := (home + j * (n / (reps + 1))) % n
    let a' := match grantMember n size home (roomOf a.2 budget crew) (fun m => a.1.contains (handle, m)) n m0 with
      | some m => (a.1 ++ [(handle, m)],
          (crew, m, roomOf a.2 budget crew m - size) :: a.2.filter (fun x => !(x.1 == crew && x.2.1 == m)))
      | none => a
    grantCopies budget crew n home reps handle size k (j + 1) a'

/-- The placement class of an object allows replicas: PREFER_NEAR and SPREAD (table "Placement classes"). -/
def ObjRec.mayReplicate (o : ObjRec) : Bool := o.placement == 1 || o.placement == 2

/-- Replica grants of the domain: identical on every member that holds the same image and entries (R177). -/
def State.planGrants (s : State) : List (Nat × Nat) :=
  let budget := s.force Key.replicaBudget
  match s.image with
  | none => []
  | some im =>
    let layers := sortBy (fun (a b : LayerRec) => decide (a.layer ≤ b.layer)) im.layers
    (layers.foldl (fun (a : List (Nat × Nat) × GrantRoom) lr =>
      match s.crew? lr.crew with
      | none => a
      | some cr =>
        let n := cr.members.length
        let objs := (s.mem.objects.filter (fun i => match s.objRec i.handle with
          | some o => o.isExpert && o.layer == lr.layer && decide (0 < o.replicas)
          | none => false)).filterMap (fun i => s.pobj i)
        (sortBy PObj.hotter objs).foldl (fun a p =>
          match s.objRec p.handle with
          | none => a
          | some o =>
            let want := if budget = 0 ∨ !o.mayReplicate then 0 else min o.replicas (p.usage / s.force Key.placeReplicaUnit)
            grantCopies budget lr.crew n (s.homeMember lr o.expert) o.replicas p.handle o.hotSize want 1 a) a) ([], [])).1

/-- Bytes planned in a tier by the instances on this module, replicas apart. -/
def plannedBytes (all : List PObj) (t : Tier) : Nat :=
  (all.filter (fun p => p.tier == t)).foldl (fun n p => n + p.sizeIn t) 0

/-- Instances that the tier rule covers: homed here, not PINNED, not a replica. -/
def State.movable (s : State) (i : ObjInst) : Bool :=
  match s.objRec i.handle with
  | some o => o.placement != 0 && s.homed o && i.planned != .remote
  | none => false

/-- HBM of the pool area, the ring areas and the areas of coded state (R190, R312, R357). -/
def State.areaBytes (s : State) : Nat :=
  s.mem.extents.foldl (fun n e => match e.holder with
    | .pool _ => n + e.count * frameBytes
    | .ring _ => n + e.count * frameBytes
    | .coded _ => n + e.count * frameBytes
    | _ => n) 0

/-- Bytes of HBM that the areas and the PINNED objects placed on this module occupy; a PINNED expert lies on its home alone
(R172, R175, R190). -/
def State.pinnedHot (s : State) : Nat :=
  s.mem.objects.foldl (fun n i => match s.objRec i.handle with
    | some o => if o.placement = 0 ∧ s.homed o then n + o.hotSize else n
    | none => n) s.areaBytes

/-- Bytes of the move reserve: `MOVE_RESERVE`, and at 0 all of HBM that the image buffer, the staging area and the areas of
the other chapters leave (R188, log 124). -/
def State.moveReserve (s : State) : Nat :=
  if s.force Key.moveReserve = 0 then 0xC000000000 - s.reg Key.imageBufferSize - s.force Key.stageAreaSize - s.areaBytes
  else s.force Key.moveReserve

/-- HOT bytes of the replicas granted to this module. -/
def State.replicaHot (s : State) (grants : List (Nat × Nat)) : Nat :=
  grants.foldl (fun n g => match s.objRec g.1 with
    | some o => match s.layerRec o.layer with
      | some lr => if g.2 = s.layerSelf lr then n + o.hotSize else n
      | none => n
    | none => n) 0

/-- The tier moves of a plan over the objects of one module, with its PINNED objects and areas and its replicas (R177). -/
def State.planMoves (s : State) (all : List PObj) (pinned replicas : Nat) : PlanSt :=
  let st : PlanSt :=
    { tiers := [], moves := 0, bytes := 0,
      freeHot := (s.reg Key.hotCapacity : Int) - pinned - replicas - plannedBytes all .hot,
      freeWarm := (s.reg Key.warmCapacity : Int) - plannedBytes all .warm,
      freeCold := (s.reg Key.coldCapacity : Int) - plannedBytes all .cold }
  let mv := s.force Key.placeMovesMax
  let rs := s.moveReserve
  let mg := s.force Key.placeMargin
  planTier mv rs mg all .warm .cold (planTier mv rs mg all .hot .warm st)

/-! ### Experts homed on other modules (R137, R180; log 125)

Members that load the same image with the same entries follow the same rule from the same admitted counts. What every module
holds of its own is taken to be there on each of them as it is here. -/

/-- The experts homed on other modules, with their modules. -/
def State.farExperts (s : State) : List (Addr × Nat × ObjRec) :=
  match s.image with
  | none => []
  | some im => (indexed im.objects).filterMap (fun x =>
      if x.2.isExpert && !s.homed x.2 then (s.homeModule x.2).map (fun a => (a, x.1, x.2)) else none)

/-- HBM of the areas and the PINNED objects on another module. -/
def State.farPinned (s : State) (a : Addr) : Nat :=
  let mine := s.mem.objects.foldl (fun n i => match s.objRec i.handle with
    | some o => if o.placement = 0 ∧ !o.isExpert then n + o.hotSize else n
    | none => n) s.areaBytes
  s.farExperts.foldl (fun n x => if x.1 = a ∧ x.2.2.placement = 0 then n + x.2.2.hotSize else n) mine

/-- HOT bytes of the replicas granted to another module. -/
def State.farReplicas (s : State) (a : Addr) (grants : List (Nat × Nat)) : Nat :=
  grants.foldl (fun n g => match s.objRec g.1 with
    | none => n
    | some o => match s.layerRec o.layer with
      | none => n
      | some lr => match s.crew? lr.crew with
        | some cr => if s.memberAddr cr g.2 = some a then n + o.hotSize else n
        | none => n) 0

/-- What the rule sees of an expert on another module; the size of a lower copy there, which rests on the codec and the data, is
a free value between the least and the most it can be. -/
def State.farObj (s : State) (h : Nat) (o : ObjRec) : Option PObj :=
  match s.mem.objects.find? (fun i => i.handle == h && i.owner == 4), s.mem.far.find? (fun f => f.handle == h) with
  | some i, some f => (s.pobj i).map (fun p => { p with
      tier := f.planned
      lowSize := if f.planned = .hot then o.lowMax
        else 256 * o.tileCount + Config.freeValue 125 h % (o.lowMax - 256 * o.tileCount + 1) })
  | _, _ => none

/-- Planned tiers of the experts homed on other modules (R177, R180). -/
def State.farPlan (s : State) (grants : List (Nat × Nat)) : List (Nat × Tier) :=
  let common := (s.mem.objects.filter (fun i => s.movable i &&
    (match s.objRec i.handle with | some o => !o.isExpert | none => false))).filterMap s.pobj
  (dedup (s.farExperts.map Prod.fst)).flatMap (fun a =>
    let mine := (s.farExperts.filter (fun x => x.1 == a && x.2.2.placement != 0)).filterMap (fun x => s.farObj x.2.1 x.2.2)
    let st := s.planMoves (common ++ mine) (s.farPinned a) (s.farReplicas a grants)
    mine.map (fun p => (p.handle, st.tierOf p)))

/-- Residency in force of the primary copy of an expert: here, or on the module that homes it. -/
def State.domainTier (s : State) (h : Nat) (o : ObjRec) : Tier :=
  if s.homed o then (match s.mem.objects.find? (fun i => i.handle == h && i.owner == 4) with | some i => i.tier | none => .remote)
  else (match s.mem.far.find? (fun f => f.handle == h) with | some f => f.tier | none => .remote)

/-- Take planned tiers as the last planned ones, or put the planned ones in force. -/
def FarCopy.take (l : List (Nat × Tier)) (effect : Bool) (f : FarCopy) : FarCopy :=
  match assoc l f.handle with
  | some t => if effect then { f with tier := t } else { f with planned := t }
  | none => f

/-- The plan made now (R177). -/
def State.makePlan (s : State) (b : Nat) : Plan :=
  let grants := s.planGrants
  let all := (s.mem.objects.filter s.movable).filterMap s.pobj
  let st := s.planMoves all s.pinnedHot (s.replicaHot grants)
  { madeAt := b, computed := false, tiers := all.map (fun p => (p.handle, p.owner, st.tierOf p)), grants := grants,
    far := s.farPlan grants }

/-! ### Moves (R178, R179, R182, R183) -/

/-- The whole content of the committed version of an instance. -/
def State.instCells (s : State) (i : ObjInst) : List Host.Cell :=
  match s.objRec i.handle with
  | none => []
  | some o => match i.hot with
    | some v => s.verCells o v
    | none => match i.low with
      | some l => l.cells
      | none => []

/-- Producer tag of the committed version of an instance. -/
def ObjInst.producer (i : ObjInst) : Option (Nat × Nat) :=
  match i.hot with
  | some v => v.prod
  | none => match i.low with
    | some l => l.prod
    | none => none

/-- Frames of a move's HOT copy, zero-filled. -/
def State.moveFrames (s : State) (m : Move) : Option (List Nat × State) :=
  match s.objRec m.handle with
  | none => none
  | some o => s.takeObject o (.move m.handle m.owner)

/-- Replace the content of the copy under its own holder: frames of a move become an object's. -/
def State.adoptFrames (s : State) (fs : List Nat) (h : Holder) : State := s.modMem (fun m => m.rehold fs h)

/-- A complete move comes into force: the copy it wrote replaces the old one, whose space is released (R178). -/
def State.applyMove (s : State) (m : Move) : State :=
  match s.mem.objects.find? (fun i => i.handle == m.handle && i.owner == m.owner) with
  | none => s.modMem (fun x => x.releaseFrames m.frames)
  | some i =>
    let s := match i.hot with
      | some v => s.dropFrames v.frames
      | none => s
    match m.low with
    | some l => s.modInst m.handle m.owner (fun i => { i with hot := none, low := some l })
    | none =>
      let s := s.adoptFrames m.frames (.object m.handle m.owner)
      s.modInst m.handle m.owner (fun i => { i with
        hot := some { frames := m.frames, prod := i.producer, gen := 0 }, low := none, replica := i.replica || m.kind == 2 })

/-- Begin a move: a promotion or replica copy takes its frames of the move reserve. -/
def State.beginMove (s : State) (m : Move) : State :=
  match (if m.target = .hot then s.moveFrames m else none) with
  | some (fs, s) => s.modMem (fun x => { x with moves := x.moves ++ [{ m with frames := fs }] })
  | none => s.modMem (fun x => { x with moves := x.moves ++ [m] })

/-- Begin the copies of the replicas that a plan grants to this module and that it neither has nor is copying (R178, R187). -/
def State.startReplicas (s : State) (grants : List (Nat × Nat)) (madeAt : Nat) (late : Bool) : State :=
  s.forEach grants (fun s g =>
    match s.objRec g.1 with
    | none => s
    | some o => match s.layerRec o.layer with
      | none => s
      | some lr =>
        let have_ := s.mem.objects.any (fun i => i.handle == g.1 && i.replica) || s.mem.moves.any (fun m => m.handle == g.1 && m.kind == 2)
        if g.2 ≠ s.layerSelf lr ∨ have_ then s
        else s.beginMove { kind := 2, handle := g.1, owner := 4, target := .hot, madeAt := madeAt, late := late, done := false,
                           frames := [], low := none, got := [] })

/-- Begin the moves of a plan whose computing has ended: those whose copy is not where the plan wants it (R178). -/
def State.startMoves (s : State) (p : Plan) : State :=
  let s := s.forEach p.tiers (fun s t =>
    match s.mem.objects.find? (fun i => i.handle == t.1 && i.owner == t.2.1) with
    | none => s
    | some i =>
      let cur : Tier := match i.hot, i.low with
        | some _, _ => .hot
        | none, some l => l.tier
        | none, none => i.tier
      let cur := match (s.mem.moves.filter (fun m => m.handle == t.1 && m.owner == t.2.1)).getLast? with
        | some m => m.target
        | none => cur
      if cur = t.2.2 then s
      else
        s.beginMove { kind := if tierRank t.2.2 < tierRank cur then 0 else 1, handle := t.1, owner := t.2.1, target := t.2.2,
                      madeAt := p.madeAt, late := false, done := false, frames := [], low := none, got := [] })
  s.startReplicas p.grants p.madeAt false

/-- A new committed version of an object restarts the moves in flight for it (R187). -/
def State.restartMoves (s : State) (h o : Nat) : State :=
  s.modMem (fun m => { m with moves := m.moves.map (fun x =>
    if x.handle == h && x.owner == o then { x with done := false, low := none, got := [] } else x) })

/-- PLAN_COMPLETE (R178): the oldest plan still being computed is ready; its moves begin. -/
def execPlanComplete (s : State) : Host.Outcome State Fault Refusal :=
  .next (
    match s.mem.plans.find? (fun p => !p.computed) with
    | none => s
    | some p =>
      let s := s.modMem (fun m => { m with plans := m.plans.map (fun x =>
        if x.madeAt = p.madeAt then { x with computed := true } else x) })
      s.startMoves p)

/-- Keep one move changed. -/
def State.setMove (s : State) (m m' : Move) : State :=
  s.modMem (fun x => { x with moves := x.moves.map (fun y => if y = m then m' else y) })

/-- The last planned tier of an instance goes back to where its copy is: its move is planned again (R187). -/
def State.unplan (s : State) (m : Move) : State :=
  s.modInst m.handle m.owner (fun i => { i with planned := match i.hot, i.low with
    | some _, _ => .hot
    | none, some l => l.tier
    | none, none => i.planned })

/-- A move whose decompressed tiles failed the check ends: its destination copy is poisoned and never comes into force, and
the source stays (R183, R187). -/
def State.failMove (s : State) (m : Move) : State :=
  let s := ((s.bump Key.tcCheckFail 1).log sevWarning noCtx 0x07 none32 Key.tcCheckFail m.handle)
  let s := s.modMem (fun x => { x.releaseFrames m.frames with moves := x.moves.filter (· != m) })
  s.unplan m

/-- The tiles of an instance whose copy is poisoned: marked in a lower copy, or with a poisoned code word in HBM (R159, R183). -/
def State.badTiles (s : State) (o : ObjRec) (i : ObjInst) : List Nat :=
  match i.hot with
  | some v => (List.range o.tileCount).filter (fun j => match v.frames[j]? with
    | some f => s.rangePoisoned (f * frameBytes) frameBytes
    | none => false)
  | none => match i.low with
    | some l => l.poisoned
    | none => []

/-- Poison every code word of the frames of some tiles: the mark of a tile goes with its copy. -/
def State.poisonTiles (s : State) (frames tiles : List Nat) : State :=
  s.forEach (tiles.filterMap (fun j => frames[j]?)) (fun s f =>
    s.forEach (List.range 1024) (fun s k => s.poisonWord (f * frameBytes + 64 * k)))

/-- A move's copy is complete (R178, R182, R183): `data` is what a replica copy brought from the home. A mismatch of the
Tile Codec's check leaves the source in force (R187); a poisoned tile stays poisoned in the new copy (log 122). A replica copy
comes compressed unless the home holds the expert HOT (log 27). -/
def State.finishMove (s : State) (m : Move) (data : List Byte) (crcOk : Bool) : State :=
  match s.objRec m.handle, s.mem.objects.find? (fun i => i.handle == m.handle && i.owner == m.owner) with
  | some o, some i =>
    let fromLow := m.kind == 2 || (m.target == .hot && i.hot.isNone)
    let bad := if m.kind = 2 then [] else s.badTiles o i
    if fromLow ∧ !crcOk then s.failMove m
    else
      match m.target with
      | .hot =>
        let r := if m.frames.isEmpty then s.moveFrames m else some (m.frames, s)
        match r with
        | none => s
        | some (fs, s) =>
          let cs := if m.kind = 2 then cellsOf (data.take o.size) else s.instCells i
          let s := (s.verFill o { frames := fs, prod := none, gen := 0 } cs).poisonTiles fs bad
          let coded := fromLow && (m.kind != 2 || s.domainTier m.handle o != .hot)
          let s := if coded then s.bump Key.tcDecompBytes o.size else s
          let s := if m.kind = 0 then s.bump Key.placePromoted 1 else s
          let m' := { m with done := true, frames := fs }
          if m.late then
            ((s.modMem (fun x => { x with moves := x.moves.filter (· != m) })).applyMove m').noteTiers
          else s.setMove m m'
      | t =>
        let cs := s.instCells i
        let lc := lowCopyOf m.handle o t cs ((match i.producer with | some p => p.2 | none => 0) % 2 ^ 32) i.producer
        let s := if i.hot.isSome then
            ((s.bump Key.tcCompInBytes o.size).bump Key.tcCompOutBytes lc.1.bytes).bump Key.tcRawTiles lc.2
          else s
        let s := (s.bump (if m.kind = 0 then Key.placePromoted else Key.placeDemoted) 1).noteProgrammed lc.1
        let m' := { m with done := true, low := some { lc.1 with poisoned := bad } }
        if m.late then
          ((s.modMem (fun x => { x with moves := x.moves.filter (· != m) })).applyMove m').noteTiers
        else s.setMove m m'
  | _, _ => s

/-! ### Effect boundaries (R178 to R180) -/

/-- Residency state codes in a digest's content. -/
def tierCode : Tier → Nat
  | .hot => 0 | .warm => 1 | .cold => 2 | .remote => 3

/-- Digest of the placement in force: the replica grants and the residency of the primary copy of every `EXPERT` object of the
domain (R180). -/
def State.digestNow (s : State) : Nat :=
  let res := match s.image with
    | none => []
    | some im => (indexed im.objects).filterMap (fun x => if x.2.isExpert then some (x.1, tierCode (s.domainTier x.1 x.2)) else none)
  leNat ((sha384 (Config.planEncoding s.mem.grants res)).take 8)

/-- The next member in member order of the routing domain: the crew of the lowest layer with experts. -/
def State.nextMember (s : State) : Option Addr :=
  match s.image with
  | none => none
  | some im => match sortBy (fun (a b : LayerRec) => decide (a.layer ≤ b.layer)) im.layers with
    | [] => none
    | lr :: _ => match s.crew? lr.crew with
      | none => none
      | some cr =>
        if cr.members.length ≤ 1 then none
        else s.memberAddr cr ((s.layerSelf lr + 1) % cr.members.length)

/-- A plan comes into force (R178 to R180). -/
def State.planEffect (s : State) (p : Plan) : State :=
  let s := s.modMem (fun m => { m with
    plans := m.plans.filter (fun x => x.madeAt != p.madeAt),
    far := m.far.map (FarCopy.take p.far true),
    objects := m.objects.map (fun i => match p.tiers.find? (fun t => t.1 == i.handle && t.2.1 == i.owner) with
      | some t => { i with tier := t.2.2 }
      | none => i) })
  -- replicas that lost their grant are released, and the copies still being made for one
  let lost := s.mem.objects.filter (fun i => i.replica && !(match s.objRec i.handle with
    | some o => match s.layerRec o.layer with
      | some lr => p.grants.contains (i.handle, s.layerSelf lr)
      | none => false
    | none => false))
  let s := s.forEach lost (fun s i =>
    let s := match i.hot with
      | some v => s.dropFrames v.frames
      | none => s
    s.modInst i.handle i.owner (fun i => { i with hot := none, replica := false, tier := .remote }))
  let gone := s.mem.moves.filter (fun m => m.kind == 2 && decide (m.madeAt ≤ p.madeAt) && !(match s.objRec m.handle with
    | some o => match s.layerRec o.layer with
      | some lr => p.grants.contains (m.handle, s.layerSelf lr)
      | none => false
    | none => false))
  let s := s.forEach gone (fun s m =>
    s.modMem (fun x => { x.releaseFrames m.frames with moves := x.moves.filter (· != m) }))
  let s := s.modMem (fun m => { m with grants := p.grants })
  -- complete moves take effect, the others are late
  let mine := s.mem.moves.filter (fun m => decide (m.madeAt ≤ p.madeAt) && !m.late)
  let s := s.forEach mine (fun s m =>
    if m.done then (s.modMem (fun x => { x with moves := x.moves.filter (· != m) })).applyMove m
    else (s.setMove m { m with late := true }).bump Key.placeLateCount 1)
  -- replicas granted to this module count as HOT copies in force
  let s := s.modMem (fun m => { m with objects := m.objects.map (fun i =>
    match s.objRec i.handle with
    | some o => match s.layerRec o.layer with
      | some lr => if o.isExpert && p.grants.contains (i.handle, s.layerSelf lr) then { i with tier := .hot } else i
      | none => i
    | none => i) })
  -- objects made HOT by a commit go back to their planned tier
  let back := s.mem.objects.filter (fun i => i.hot.isSome && !i.replica && (i.tier == .warm || i.tier == .cold) &&
    !s.mem.moves.any (fun m => m.handle == i.handle && m.owner == i.owner))
  let s := s.forEach back (fun s i => s.modMem (fun m => { m with
    moves := m.moves ++ [{ kind := 1, handle := i.handle, owner := i.owner, target := i.tier, madeAt := p.madeAt, late := true,
                           done := false, frames := [], low := none, got := [] }] }))
  let s := s.setReg Key.planStep (p.madeAt % 2 ^ 32)
  let s := s.setReg Key.planDigest s.digestNow
  let s := match s.nextMember with
    | some a => s.sendControl a 0 (.planDigest (s.reg Key.planDigest))
    | none => s
  s.noteTiers

/-- A boundary of step `b` waits for a plan that comes into force there and is still being computed (R178). -/
def State.planHolds (s : State) (b : Nat) : Bool :=
  s.mem.plans.any (fun p => !p.computed && decide (p.madeAt + s.force Key.placeLag ≤ b))

/-- Pairs of an expert admitted in the step (R176). -/
def State.admittedPairs (s : State) (c : Fin 4) (layer expert : Nat) : Nat :=
  ((s.ctx c).admitted.filter (fun a => a.1 == layer && a.2.1 == expert)).foldl (fun n a => n + a.2.2) 0

/-- Usage after a boundary: u − (u >> s) + 256·a, sticking (R176). -/
def usageNext (u shift a : Nat) : Nat := min none32 (u - u / 2 ^ shift + 256 * a)

/-- What a boundary of step `b` of the placement context does: usage, effect of the plan due, a new plan (R176 to R178). -/
def State.placeBoundary (s : State) (c : Fin 4) (b : Nat) : State :=
  if s.placeCtx ≠ c.val ∨ s.image.isNone then s
  else
    let s := s.modMem (fun m => { m with objects := m.objects.map (fun i =>
      let a := match s.objRec i.handle with
        | some o => if o.isExpert then s.admittedPairs c o.layer o.expert else i.reads
        | none => 0
      { i with usage := usageNext i.usage (s.force Key.placeDecayShift) a, reads := 0 }) })
    let s := s.forEach (s.mem.plans.filter (fun p => p.computed && decide (p.madeAt + s.force Key.placeLag ≤ b))) State.planEffect
    if s.force Key.placeFreeze = 1 then s
    else
      let p := s.makePlan b
      s.modMem (fun m => { m with
        plans := m.plans ++ [p],
        far := m.far.map (FarCopy.take p.far false),
        objects := m.objects.map (fun i => match p.tiers.find? (fun t => t.1 == i.handle && t.2.1 == i.owner) with
          | some t => { i with planned := t.2.2 }
          | none => i) })

/-- PLAN_DIGEST (R180). -/
def execPlanDigest (digest : Nat) (s : State) : Host.Outcome State Fault Refusal :=
  .next (
    if !s.hubUp ∨ digest = s.reg Key.planDigest then s
    else (s.bump Key.placeDigestMismatch 1).log sevWarning noCtx 0x07 none32 Key.placeDigestMismatch digest)

/-! ### Initial placement (R181) -/

/-- Room left while objects are placed, and what the objects still to place need: those that may only be HOT, and those
that may be HOT or WARM. -/
structure PlaceRoom where
  hot : Int
  warm : Int
  cold : Int
  onlyHot : Int
  toWarm : Int
  deriving DecidableEq, Repr

/-- Tier of one object in the initial placement: HOT while room remains, then WARM, then COLD, within its ceiling, room
kept for the objects whose ceilings leave them no colder tier (log 30). -/
def placeOne (r : PlaceRoom) (o : ObjRec) : Tier × PlaceRoom :=
  let h : Int := o.hotSize
  let l : Int := o.lowMax
  let r := if o.ceiling = 0 then { r with onlyHot := r.onlyHot - h } else if o.ceiling = 1 then { r with toWarm := r.toWarm - l } else r
  if o.ceiling = 0 ∨ (h ≤ r.hot - r.onlyHot ∧ r.toWarm ≤ r.hot - h - r.onlyHot + r.warm) then (.hot, { r with hot := r.hot - h })
  else if o.ceiling = 1 ∨ (l ≤ r.warm ∧ r.toWarm ≤ r.hot - r.onlyHot + (r.warm - l)) then (.warm, { r with warm := r.warm - l })
  else (.cold, { r with cold := r.cold - l })

/-- Place the objects of a list in order; answers the tiers. -/
def placeAll : PlaceRoom → List (Nat × ObjRec) → List (Nat × Tier)
  | _, [] => []
  | r, (h, o) :: t =>
    let x := placeOne r o
    (h, x.1) :: placeAll x.2 t

/-- Make the instance of an object with its first copy, zero-filled (R155, R181). -/
def State.createInst (s : State) (h owner : Nat) (o : ObjRec) (t : Tier) : State :=
  let i : ObjInst := { handle := h, owner := owner, tier := t, hot := none, low := none, prev := none, planned := t,
                       usage := 0, reads := 0, replica := false }
  match t with
  | .hot =>
    let r := s.takeObject o (.object h owner)
    match r with
    | some (fs, s) => s.modMem (fun m => { m with objects := m.objects ++ [{ i with hot := some { frames := fs, prod := none, gen := none32 } }] })
    | none => s.modMem (fun m => { m with objects := m.objects ++ [i] })
  | .remote => s.modMem (fun m => { m with objects := m.objects ++ [i] })
  | t =>
    let l := lowCopyOf h o t [] 0 none
    (s.noteProgrammed l.1).modMem (fun m => { m with objects := m.objects ++ [{ i with low := some l.1 }] })

/-- Objects the initial placement creates for an owner: 4 for those the contexts share, else a context (R181). -/
def State.objectsFor (s : State) (owner : Nat) : List (Nat × ObjRec) :=
  match s.image with
  | none => []
  | some im => ((List.range im.objects.length).zip im.objects).filter (fun x => x.2.perContext == decide (owner < 4))

/-- Create instances in given tiers. -/
def State.createAll (s : State) (owner : Nat) (l : List (Nat × Tier)) : State :=
  s.forEach l (fun s t => match s.objRec t.1 with
    | some o => s.createInst t.1 owner o t.2
    | none => s)

/-- Place the PINNED objects of an owner, which come first (R181, R190). -/
def State.placePinned (s : State) (owner : Nat) : State :=
  s.createAll owner (((s.objectsFor owner).filter (fun x => s.homed x.2 && x.2.placement == 0)).map (fun x => (x.1, Tier.hot)))

/-- HOT room left: `HOT_CAPACITY` less the areas and the HOT copies in place; a context stays within its quota (R358, log
70). -/
def State.hotRoom (s : State) (owner : Nat) : Int :=
  let used : Nat := s.mem.objects.foldl (fun n i => match s.objRec i.handle with
    | some o => if i.tier = .hot then n + o.hotSize else n
    | none => n) 0
  let room : Int := (s.reg Key.hotCapacity : Int) - s.areaBytes - used
  match ctxIndex? owner with
  | none => room
  | some c => min room (((s.ctx c).quota : Int) - s.ctxHotFrames owner * frameBytes)

/-- Tiers of objects that are not PINNED, hottest first with all usage zero, in the room left of each tier (R181). -/
def tiersIn (hot warm cold : Int) (owner : Nat) (mine : List (Nat × ObjRec)) : List (Nat × Tier) :=
  let key (x : Nat × ObjRec) : PObj :=
    { handle := x.1, owner := owner, rank := if x.2.placement = 3 then 0 else 1, usage := 0, last := 0, layer := x.2.layer,
      isExpert := x.2.isExpert, expert := x.2.expert, hotSize := 0, lowSize := 0, ceiling := 0, tier := .hot }
  let rest := sortBy (fun a b => (key a).hotter (key b)) (mine.filter (fun x => x.2.placement != 0))
  let sum (l : List (Nat × ObjRec)) (f : ObjRec → Nat) : Int := (l.foldl (fun n x => n + f x.2) 0 : Nat)
  let room : PlaceRoom :=
    { hot := hot, warm := warm, cold := cold,
      onlyHot := sum (rest.filter (fun x => x.2.ceiling == 0)) ObjRec.hotSize,
      toWarm := sum (rest.filter (fun x => x.2.ceiling == 1)) ObjRec.lowMax }
  placeAll room rest

/-- Tiers of objects that are not PINNED in the room left on this module. -/
def State.tiersFor (s : State) (owner : Nat) (mine : List (Nat × ObjRec)) : List (Nat × Tier) :=
  let used (t : Tier) : Nat := s.mem.objects.foldl (fun n i => match s.objRec i.handle with
    | some o => if i.tier = t then n + o.lowMax else n
    | none => n) 0
  tiersIn (s.hotRoom owner) ((s.reg Key.warmCapacity : Int) - used .warm) ((s.reg Key.coldCapacity : Int) - used .cold) owner mine

/-- Initial placement of the experts homed on other modules (R181; log 125). -/
def State.farInitial (s : State) : List FarCopy :=
  let common := (s.objectsFor 4).filter (fun x => !x.2.isExpert)
  (dedup (s.farExperts.map Prod.fst)).flatMap (fun a =>
    let mine := (s.farExperts.filter (fun x => x.1 == a)).map Prod.snd
    let ts := tiersIn ((s.reg Key.hotCapacity : Int) - s.farPinned a) (s.reg Key.warmCapacity) (s.reg Key.coldCapacity) 4 (common ++ mine)
    mine.map (fun x => let t := if x.2.placement = 0 then Tier.hot else (assoc ts x.1).getD .remote
      { handle := x.1, planned := t, tier := t }))

/-- Place the other objects of an owner, hottest first with all usage zero (R181). -/
def State.placeRest (s : State) (owner : Nat) : State :=
  let mine := s.objectsFor owner
  let tiers := s.tiersFor owner (mine.filter (fun x => s.homed x.2)) ++
    (mine.filter (fun x => !s.homed x.2)).map (fun x => (x.1, Tier.remote))
  let s := s.createAll owner tiers
  let s := if owner < 4 then s else s.modMem (fun m => { m with far := s.farInitial })
  (s.setReg Key.pinnedBytes s.pinnedHot).noteTiers

/-- Place the objects of an owner initially (R181). -/
def State.placeInitial (s : State) (owner : Nat) : State := (s.placePinned owner).placeRest owner

/-! ### The staging area (R185, R186) -/

/-- Frames of the staging area for staged copies: the ring of 64 MiB for streamed fetches is kept apart (log 31). -/
def State.stageRoom (s : State) : Nat :=
  (s.force Key.stageAreaSize - 0x4000000) / frameBytes - s.mem.stagings.foldl (fun n g => n + g.frames.length) 0

/-- Release a staging. -/
def State.releaseStaging (s : State) (g : Staging) : State :=
  s.modMem (fun m => { m.releaseFrames g.frames with stagings := m.stagings.filter (fun x => x.number != g.number) })

/-- Release the oldest unused hint stagings while `n` frames do not fit, at most `k` of them. -/
def State.freeHints (s : State) (n : Nat) : Nat → State
  | 0 => s
  | k + 1 =>
    if n ≤ s.stageRoom then s
    else match s.mem.stagings.find? (fun g => g.user == 2) with
      | none => s
      | some g => State.freeHints (s.releaseStaging g) n k

/-- The promotion of an object in flight, or its late replica copy: reads of the object wait for it instead of fetching it
(R179, R187). -/
def State.promotion (s : State) (h o : Nat) : Option Move :=
  s.mem.moves.find? (fun m => m.handle == h && m.owner == o && m.target == .hot && !m.done && (m.kind == 0 || m.late))

/-- A promotion of an object is in flight. -/
def State.promoting (s : State) (h o : Nat) : Bool := (s.promotion h o).isSome

/-- Start a staging of tiles of an object for a user (R186): 0 FETCH, 1 WAIT, 2 hint. -/
def State.startStaging (s : State) (user c q h layer : Nat) (tiles : List Nat) : State :=
  match s.objRec h with
  | none => s
  | some o =>
    let n := tiles.length
    let s := s.freeHints n (if user = 2 then 1 else s.mem.stagings.length)
    let g : Staging :=
      { number := s.mem.nextStaging, user := user, ctx := c, queue := q, handle := h, layer := layer, tiles := tiles, done := [],
        frames := [], streamed := false, ring := [], since := s.now }
    let add (s : State) (g : Staging) := s.modMem (fun m => { m with stagings := m.stagings ++ [g], nextStaging := m.nextStaging + 1 })
    let r := if n ≤ s.stageRoom then s.mem.takeFrames o.protection (.staging h) (tiles.map o.stackOf) else none
    match r with
    | some (fs, _, m) => add { s with mem := m } { g with frames := fs }
    | none =>
      if user = 2 then s.bump Key.stageFullCount 1
      else add (s.bump Key.fetchStreamed 1) { g with streamed := true }

/-- The object's committed copy lies in HBM of this module. -/
def State.isHot (s : State) (h c : Nat) : Bool :=
  match s.inst h c with
  | some i => i.hot.isSome
  | none => false

/-- Tiles of an object that neither a completed staging of context `c` nor a promotion in flight holds (R185, R187). -/
def State.unstaged (s : State) (h c : Nat) (tiles : List Nat) : List Nat :=
  tiles.filter (fun j => !s.mem.stagings.any (fun g => g.handle == h && g.ctx == c && !g.streamed && g.done.contains j) &&
    !(match s.promotion h (s.ownerOf h c) with | some m => m.got.contains j | none => false))

/-- A tile of an object is poisoned in its lower copy (R183). -/
def State.tilePoisoned (s : State) (h o j : Nat) : Bool :=
  match s.mem.objects.find? (fun i => i.handle == h && i.owner == o) with
  | some i => match i.low with
    | some l => l.poisoned.contains j
    | none => false
  | none => false

/-- A staging hint (R122, R186, R187): for an expert homed here whose copy is WARM or COLD it starts a staging, unless
its layer's dispatch has begun in the step, a promotion is in flight, or it is staged already. -/
def State.stagingHint (s : State) (layer expert : Nat) : State :=
  match s.expertHandle layer expert with
  | none => s
  | some h =>
    match s.objRec h, s.mem.objects.find? (fun i => i.handle == h && i.owner == 4) with
    | some o, some i =>
      let begun := allCtx.any (fun c => (s.ctx c).begun.contains layer)
      if i.hot.isSome || i.low.isNone || begun || s.promoting h 4 || s.mem.stagings.any (fun g => g.handle == h) then s
      else s.startStaging 2 (s.force Key.placeContext) 8 h layer (List.range o.tileCount)
    | _, _ => s

/-- STAGING_HINT (R122). -/
def execStagingHint (layer expert : Nat) (s : State) : Host.Outcome State Fault Refusal :=
  .next (if s.hubUp then s.stagingHint layer expert else s)

/-- Hint stagings of a layer that no run has used are released (R186). -/
def State.dropHints (s : State) (layer : Nat) : State :=
  s.forEach (s.mem.stagings.filter (fun g => g.user == 2 && g.layer == layer)) State.releaseStaging

/-- Staged copies of a context's commands are released at its step boundary (R185). -/
def State.dropStagings (s : State) (c : Fin 4) : State :=
  s.forEach (s.mem.stagings.filter (fun g => g.user != 2 && g.ctx == c.val)) State.releaseStaging

/-- Ticks within which a tile that the Tile Codec had started before other work came completes: 65,536 bytes at 0.8 TB/s
(R184). -/
abbrev codecTileTicks : Nat := 9

/-- The Tile Codec has work of a class before `cls` whose data lie ready in the Reserve Memory, and the tile in progress when
it came is past (R184, log 123): 1 fetches, 2 staging for hints, 3 promotions, 4 demotions. -/
def State.codecBusy (s : State) (cls : Nat) : Bool :=
  let warm (h c : Nat) : Bool := match s.inst h c with
    | some i => i.hot.isNone && (match i.low with | some l => l.tier == .warm && l.poisoned.isEmpty | none => false)
    | none => false
  s.mem.stagings.any (fun g => decide ((if g.user = 2 then 2 else 1) < cls) && decide (g.since + codecTileTicks < s.now) &&
    warm g.handle g.ctx && !s.mem.moves.any (fun m => m.handle == g.handle && m.target == .hot && !m.done) &&
    g.tiles.any (fun j => !g.done.contains j)) ||
  (decide (3 < cls) && s.mem.moves.any (fun m => m.kind == 0 && !m.done && m.target == .hot && !m.frames.isEmpty && warm m.handle m.owner))

/-- A class 1 staging of a WARM copy that came before `g` still has tiles to decompress (R184). -/
def State.codecEarlier (s : State) (g : Staging) : Bool :=
  s.mem.stagings.any (fun x => x.user != 2 && decide (x.number < g.number) && decide (g.since + codecTileTicks < s.now) &&
    (match s.inst x.handle x.ctx with
      | some i => i.hot.isNone && (match i.low with | some l => l.tier == .warm && l.poisoned.isEmpty | none => false)
      | none => false) && x.tiles.any (fun j => !x.done.contains j))

/-- A tile of a staging is decompressed or arrives: `data` is what a REMOTE copy's home delivered. A tile that fails its check
is not delivered and its copy is poisoned (R183). -/
def State.stagingTile (s : State) (g : Staging) (o : ObjRec) (tile : Nat) (data : List Byte) (crcOk : Bool) : State :=
  let handle := g.handle
  let owner := s.ownerOf handle g.ctx
  let sp := o.tileSpan tile
  if !crcOk ∨ s.tilePoisoned handle owner tile then
    let s := if crcOk then s else
      (s.bump Key.tcCheckFail 1).log sevWarning noCtx 0x07 none32 Key.tcCheckFail handle
    let s := s.modInst handle owner (fun i => { i with low := i.low.map (fun l =>
      { l with poisoned := if l.poisoned.contains tile then l.poisoned else tile :: l.poisoned }) })
    match ctxIndex? g.ctx, (if h : g.queue < 8 then some (⟨g.queue, h⟩ : Fin 8) else none) with
    | some c, some q =>
      if g.user = 2 then s
      else match s.run c q with
        | some r => s.ctxFault c 0x10 r.entry.command 0x07 Key.tcCheckFail handle
        | none => s
    | _, _ => s
  else
    let remote := !(match s.inst handle g.ctx with | some i => i.hot.isSome || i.low.isSome | none => false)
    let coded := !remote || s.domainTier handle o != .hot
    let s := if coded then s.bump Key.tcDecompBytes sp.2 else s
    let bytes := if remote then (data ++ List.replicate sp.2 0).take sp.2 else s.objBytes handle g.ctx sp.1 sp.2
    let s := match (g.tiles.zip g.frames).find? (fun x => x.1 == tile) with
      | some x => s.memWrite (x.2 * frameBytes) bytes
      | none => s
    s.modMem (fun m => { m with stagings := m.stagings.map (fun x => if x.number = g.number then
      { x with
        done := tile :: x.done
        ring := if x.streamed && remote then cellWrite x.ring sp.1 bytes else x.ring } else x) })

/-- Readers that waited for a promotion that failed fetch the object for themselves (R138, R187). -/
def State.refetch (s : State) (h : Nat) : State :=
  match s.objRec h with
  | none => s
  | some o =>
    s.forEach allCtx (fun s c => s.forEach allQueues (fun s q =>
      let waits := match s.run c q with
        | some r => r.running && r.tiles.any (fun t => match t.waiting with | some (.fetch x, _, _) => x == h | _ => false)
        | none => false
      let todo := (s.unstaged h c (List.range o.tileCount)).filter (fun j =>
        !s.mem.stagings.any (fun g => g.handle == h && g.ctx == c.val && g.tiles.contains j))
      if waits && !todo.isEmpty then s.startStaging 1 c q h o.layer todo else s))

/-- MOVE_COMPLETE (R178, R184): the oldest unfinished move of the object completes, once no work of a class before its own is
ready for the Tile Codec. -/
def execMoveComplete (handle owner : Nat) (data : List Byte) (crcOk : Bool) (s : State) : Host.Outcome State Fault Refusal :=
  .next (
    match s.mem.moves.find? (fun m => m.handle == handle && m.owner == owner && !m.done) with
    | none => s
    | some m => if s.codecBusy (if m.kind = 1 then 4 else 3) then s
      else
        let s' := s.finishMove m data crcOk
        if crcOk then s' else s'.refetch handle)

/-- CODEC_TILE_DONE (R183, R184): one tile of a staging, of the highest class first, or else of a promotion, whose readers take
it from there (R187). -/
def execCodecTileDone (handle tile : Nat) (data : List Byte) (crcOk : Bool) (s : State) : Host.Outcome State Fault Refusal :=
  .next (
    let cand := s.mem.stagings.filter (fun g => g.handle == handle && g.tiles.contains tile && !g.done.contains tile)
    let pick := match cand.find? (fun g => g.user != 2) with
      | some g => some g
      | none => cand.head?
    match pick, s.objRec handle with
    | some g, some o =>
      if (g.user = 2 ∧ s.codecBusy 2) ∨ (g.user ≠ 2 ∧ s.codecEarlier g) then s else s.stagingTile g o tile data crcOk
    | none, some _ =>
      match s.mem.moves.find? (fun m => m.handle == handle && m.kind == 0 && m.target == .hot && !m.done && !m.got.contains tile) with
      | none => s
      | some m =>
        if s.codecBusy 3 ∨ s.tilePoisoned handle m.owner tile then s
        else if !crcOk then (s.failMove m).refetch handle
        else s.setMove m { m with got := tile :: m.got }
    | _, none => s)

/-! ### FETCH (R185) -/

/-- Tiles a FETCH names: of one part, of every part, or of the object. -/
def fetchTiles (o : ObjRec) (f : FetchRec) : List Nat :=
  let per := if o.quartered then tilesOf (o.size / 4) else o.tileCount
  let n := if f.count = 0 then per - f.first else min f.count (per - f.first)
  let one (p : Nat) := (List.range n).map (fun i => p * per + f.first + i)
  if !o.quartered then one 0
  else if f.part = 0xFF then (List.range 4).flatMap one
  else one f.part

/-- The FETCH record of a command. -/
def Command.fetchRec (c : Command) : Option FetchRec :=
  match c.param with
  | .fetch f => if c.kind = 5 then some f else none
  | _ => none

/-- What an issued FETCH does (R185): tiles already HOT, or staged for the context, are not moved again. -/
def State.fetchStart (s : State) (c : Fin 4) (q : Fin 8) : State :=
  match s.run c q with
  | none => s
  | some r =>
    match r.cmd.fetchRec with
    | none => s
    | some f =>
      match s.objRec f.handle with
      | none => s
      | some o =>
        let todo := s.unstaged f.handle c (fetchTiles o f)
        if s.isHot f.handle c ∨ todo.isEmpty then s else s.startStaging 0 c q f.handle 0 todo

/-- FETCH (R185). -/
def execFetch (c : Fin 4) (q : Fin 8) (s : State) : Host.Outcome State Fault Refusal :=
  .next (
    let x := s.issue c q (fun r => r.cmd.fetchRec.isSome && r.plainIssue)
    if x.2 then x.1.fetchStart c q else x.1)

/-- Every tile a FETCH named is in HBM (R185). -/
def State.fetchDone (s : State) (c : Fin 4) (q : Fin 8) (f : FetchRec) : Bool :=
  s.isHot f.handle c ||
    !s.mem.stagings.any (fun g => g.user == 0 && g.ctx == c.val && g.queue == q.val && g.handle == f.handle &&
      g.tiles.any (fun t => !g.done.contains t))

end Sys2Proof.Machine
end

