-- ==== Sys2Proof/Machine/Routing.lean ====
section
/-! DEFINITION. The Routing Engine (spec/06): logits, keys and candidate lists, dead heats, the admission of a ledger
round, combine weights, and the assignment of serving copies and descriptors (R129, R137). -/
namespace Sys2Proof.Machine

/-! ### Logits and keys (R105, R107, R108) -/

/-- One logit: the exact products of a hidden state and a gate row in one accumulator, narrowed once (R105). -/
def gateLogit (anchor : Int) (h g : List FVal) : Elem × Sat :=
  let a := Acc.zero.enterAll anchor ((h.zip g).map (fun p => p.1.mul p.2))
  let x := a.1.narrow
  (x.1, a.2.add x.2)

/-- The largest magnitude of a contribution, 2^47 − 1. -/
abbrev wireMax : Int := 2 ^ 47 - 1

/-- A bias limited to ±(2^47 − 1), and whether it was limited (R108, log 32). -/
def limitBias (b : Int) : Int × Bool :=
  if wireMax < b then (wireMax, true) else if b < -wireMax then (-wireMax, true) else (b, false)

/-- The candidate of an expert: biased value 0 under any special flag (R109). -/
def candOf (x : Elem) (bias : Int) (e : Nat) : Cand :=
  ⟨if x.flags = 0 then x.val + bias else 0, x.val, e, x.flags⟩

/-- Ranking values of a candidate: biased and unbiased (R107). -/
def rankValues (c : Cand) : Int × Int :=
  let f := c.flags % 8
  if f = 0 then (c.biased, c.logit)
  else
    let v : Int := if bit f 2 || (bit f 1 && bit f 0) then -(2 ^ 51) else if bit f 1 then 2 ^ 50 else -(2 ^ 50)
    (v, v)

/-- `a` ranks before `b`: key order (R107). -/
def candBefore (a b : Cand) : Bool :=
  let x := rankValues a
  let y := rankValues b
  if x.1 ≠ y.1 then decide (y.1 < x.1)
  else if x.2 ≠ y.2 then decide (y.2 < x.2)
  else decide (a.expert < b.expert)

/-- The first `n` candidates in key order (R109, R110, R132). -/
def topCands (n : Nat) (l : List Cand) : List Cand := (sortBy candBefore l).take n

/-- Adjacent pairs ordered by index alone. -/
def heatPairs : List Cand → Nat
  | a :: b :: t => (if rankValues a = rankValues b then 1 else 0) + heatPairs (b :: t)
  | _ => 0

/-- Dead heats of a selection of `n`: the list and the first candidate left off (R109). -/
def deadHeats (n : Nat) (l : List Cand) : Nat := heatPairs ((sortBy candBefore l).take (n + 1))

/-- Length of a candidate list: min(k + 4, experts) (R102). -/
def LayerRec.listLen (lr : LayerRec) : Nat := min (lr.k + 4) lr.experts

/-- The 24 bytes of a candidate record (R109). -/
def candBytes (c : Cand) (rank : Nat) : List Byte :=
  leBytes 8 (ofSigned 64 c.biased) ++ leBytes 8 (ofSigned 64 c.logit) ++ leBytes 4 c.expert ++ leBytes 1 (c.flags % 8) ++
    leBytes 1 rank ++ leBytes 2 0

/-- The records of one token row: `n` records, unused ones with rank 0. -/
def candRow (n : Nat) (l : List Cand) : List Byte :=
  ((List.range n).map (fun i => match l[i]? with
    | some c => candBytes c (i + 1)
    | none => List.replicate 24 0)).flatten

/-- Read the candidate list of one token row. -/
def readCandRow (n : Nat) (rd : Nat → Byte) (row : Nat) : List Cand :=
  (List.range n).filterMap (fun i =>
    let o := 24 * (row * n + i)
    let f (a k : Nat) := leNat ((List.range k).map (fun j => rd (o + a + j)))
    if f 21 1 = 0 then none else some ⟨toSigned 64 (f 0 8), toSigned 64 (f 8 8), f 16 4, f 20 1⟩)

/-- The 128-bit merge record of a candidate (R132). -/
def mergeWord (c : Cand) : Nat :=
  ofSigned 49 c.biased * 2 ^ 79 + ofSigned 48 c.logit * 2 ^ 31 + c.expert % 65536 * 2 ^ 15 + c.flags % 8 * 2 ^ 12

/-- The candidate of a merge record. -/
def mergeCand (w : Nat) : Cand :=
  ⟨toSigned 49 (bits w 127 79), toSigned 48 (bits w 78 31), bits w 30 15, bits w 14 12⟩

/-- Bytes of a list of merge records. -/
def mergeBytes (l : List Cand) : List Byte := (l.map (fun c => leBytes 16 (mergeWord c))).flatten

/-- Read `n` merge records. -/
def readMerge (rd : Nat → Byte) (n : Nat) : List Cand :=
  (List.range n).map (fun i => mergeCand (leNat ((List.range 16).map (fun j => rd (16 * i + j)))))

/-! ### Admission (R113, R117 to R119, R139) -/

/-- A request of a ledger round: place of its token in the list, expert, candidate rank. -/
abbrev Request := Nat × Nat × Nat

/-- Order of the tokens of a routing domain for positions: member order, then key, then row (R112, R113). -/
def tokenBefore (a b : Token) : Bool :=
  if a.origin ≠ b.origin then decide (a.origin < b.origin)
  else if a.key ≠ b.key then decide (a.key < b.key)
  else decide (a.row < b.row)

/-- Expert at candidate rank `r` of a token. -/
def Token.expertAt (t : Token) (r : Nat) : Option Nat := (t.cands[r - 1]?).map Cand.expert

/-- Round 1: primary choices request, deferrable ones start in `over` (R117, R139). Answers tokens, requests and the
number deferred. -/
def firstRequests (k : Nat) (deferrable : Nat → Bool) (toks : List Token) : List Token × List Request :=
  let each (i : Nat) (t : Token) : Token × List Request :=
    let prim := (List.range k).filterMap (fun r => (t.expertAt (r + 1)).map (fun e => (r + 1, e)))
    let t' := { t with kept := [], overs := (prim.filter (fun x => deferrable x.2)).map Prod.fst, next := k + 1, skipped := false }
    (t', (prim.filter (fun x => !deferrable x.2)).map (fun x => (i, x.2, x.1)))
  let r := (indexed toks).map (fun x => each x.1 x.2)
  (r.map Prod.fst, (r.map Prod.snd).flatten)

/-- Capacity 0 (R115, R139): every primary choice, a deferrable one moving to the next candidate that is not deferrable
or dropped. -/
def Token.admitAll (t : Token) (k n : Nat) (deferrable : Nat → Bool) : Token :=
  let t := { t with kept := [], overs := [], next := k + 1, skipped := false }
  (List.range k).foldl (fun t i =>
    match t.expertAt (i + 1) with
    | none => t
    | some e =>
      if !deferrable e then { t with kept := t.kept ++ [(i + 1, i + 1)] }
      else
        match (List.range n).find? (fun r => decide (t.next ≤ r + 1) &&
            (match t.expertAt (r + 1) with | some x => !deferrable x | none => false)) with
        | some r => { t with kept := t.kept ++ [(r + 1, i + 1)], next := r + 2 }
        | none => { t with overs := t.overs ++ [i + 1], next := n + 1 }) t

/-- Position of a request among those of its own member: requests to the same expert earlier in the order. -/
def localPos (reqs : List Request) (q : Request) : Nat :=
  ((reqs.takeWhile (fun x => !(x == q))).filter (fun x => x.2.1 == q.2.1)).length

/-- Insert a rank in ascending order. -/
def insertRank (r : Nat) (l : List Nat) : List Nat := insertBy (fun a b => decide (a ≤ b)) r l

/-- Outcome of round 1: positions below C are kept, the others overflow (R117). -/
def settleFirst (c : Nat) (pos : Request → Nat) (reqs : List Request) (toks : List Token) : List Token :=
  (indexed toks).map (fun x =>
    (reqs.filter (fun q => q.1 == x.1)).foldl (fun t q =>
      if pos q < c then { t with kept := t.kept ++ [(q.2.2, q.2.2)] }
      else { t with overs := insertRank q.2.2 t.overs }) x.2)

/-- SKIP (R118): a token with an overflowed choice is skipped whole. -/
def Token.skip (t : Token) : Token := if t.overs.isEmpty then t else { t with kept := [], skipped := true }

/-- Positions held by a token that SKIP skips (R118). -/
def Token.stranded (t : Token) : Nat := if t.overs.isEmpty then 0 else t.kept.length

/-- Walk one token's list for its overflowed choices (R117): `u` requests wanted, at most `fuel` candidates. -/
def walkToken (n : Nat) (has : Nat → Bool) (i : Nat) : Nat → Nat → Token → List Request → Token × List Request
  | 0, _, t, acc => (t, acc)
  | fuel + 1, u, t, acc =>
    if u = 0 ∨ n < t.next then (t, acc)
    else
      let r := t.next
      let t := { t with next := r + 1 }
      match t.expertAt r with
      | none => walkToken n has i fuel u t acc
      | some e => if has e then walkToken n has i fuel (u - 1) t (acc ++ [(i, e, r)]) else walkToken n has i fuel u t acc

/-- Requests of a repechage round (R119): candidates with room that are not deferrable. -/
def nextRequests (n : Nat) (has : Nat → Bool) (toks : List Token) : List Token × List Request :=
  let r := (indexed toks).map (fun x => walkToken n has x.1 n x.2.overs.length x.2 [])
  (r.map Prod.fst, (r.map Prod.snd).flatten)

/-- Outcome of a repechage round: a request below its expert's room takes the lowest overflowed rank (R119). -/
def settleNext (room : Nat → Nat) (pos : Request → Nat) (reqs : List Request) (toks : List Token) : List Token :=
  (indexed toks).map (fun x =>
    (reqs.filter (fun q => q.1 == x.1)).foldl (fun t q =>
      if pos q < room q.2.1 then
        match t.overs with
        | o :: rest => { t with kept := t.kept ++ [(q.2.2, o)], overs := rest }
        | [] => t
      else t) x.2)

/-- Requests admitted by a repechage round. -/
def admittedNext (room : Nat → Nat) (pos : Request → Nat) (reqs : List Request) : Nat :=
  (reqs.filter (fun q => decide (pos q < room q.2.1))).length

/-- Counts per expert of a list of experts. -/
def expertCounts (experts : Nat) (l : List Nat) : List Nat :=
  l.foldl (fun c e => listSet c e (c.getD e 0 + 1)) (List.replicate experts 0)

/-- Tokens of one member, sorted, whose key repeats the one before (R112). -/
def dupKeys : List Nat → Nat
  | a :: b :: t => (if a = b then 1 else 0) + dupKeys (b :: t)
  | _ => 0

/-- An expert is deferrable (R139): DEFER, the context has run a whole window, and no admission in it (log 33). -/
def State.deferrable (s : State) (c : Fin 4) (layer expert : Nat) : Bool :=
  let w := s.force (Key.deferWindow c)
  let x := s.ctx c
  s.force (Key.fetchPolicy c) == 1 && decide (w ≤ x.ran) &&
    (match x.lastAdmit.find? (fun a => a.1 == layer && a.2.1 == expert) with
     | some a => decide (a.2.2 + w < x.step)
     | none => true)

/-! ### Combine weights (R120) -/

/-- FP32 log2 e. -/
abbrev log2e : Nat := 0x3FB8AA3B

/-- Anchor of the sums of R120. -/
abbrev weightAnchor : Int := -60

/-- FP32 exit of an anchored integer with flags, with its counts. -/
def exitElem (anchor v : Int) (flags : Nat) : Nat × Sat :=
  (Elem.widen ⟨v, flags⟩).leave anchor .fp32

/-- Scores of every candidate of a token, with the counts of their exits (R120, step 1). -/
def scores (anchor : Int) (softmax : Bool) (cands : List Cand) : List Nat × Sat :=
  let plain := cands.filter (fun c => c.flags % 8 == 0)
  let lmax : Int := match plain with
    | [] => 0
    | c :: cs => cs.foldl (fun m x => if m < x.logit then x.logit else m) c.logit
  let l := cands.map (fun c =>
    if softmax then
      let d := exitElem anchor (c.logit - lmax) (c.flags % 8)
      (vecFunction 1 (fvMul (Fmt.fp32.decode d.1) (Fmt.fp32.decode log2e)), d.2)
    else
      let d := exitElem anchor c.logit (c.flags % 8)
      (vecFunction 6 d.1, d.2))
  (l.map Prod.fst, l.foldl (fun a x => a.add x.2) Sat.zero)

/-- A sum of FP32 codes at the fixed anchor (R120, step 3). -/
def weightSum (l : List Nat) : Nat × Sat :=
  let a := Acc.zero.enterAll weightAnchor (l.map Fmt.fp32.decode)
  let x := a.1.leave weightAnchor .fp32
  (x.1, a.2.add x.2)

/-- Combine weights of a token's kept choices, in the order of `kept`, with their counts (R120). -/
def tokenWeights (anchor : Int) (lr : LayerRec) (t : Token) : List Nat × Sat :=
  if t.kept.isEmpty then ([], Sat.zero)
  else
    let sc := scores anchor (lr.scoreFn == 0) t.cands
    let at_ (r : Nat) := sc.1.getD (r - 1) 0
    let d :=
      if lr.renorm = 1 then weightSum (t.kept.map (fun x => at_ x.1))
      else if lr.scoreFn = 0 then weightSum ((List.range lr.k).map (fun r => at_ (r + 1)))
      else (0x3F800000, Sat.zero)
    let rec_ := vecFunction 3 d.1
    (t.kept.map (fun x =>
      let p := fvMul (Fmt.fp32.decode (at_ x.1)) (Fmt.fp32.decode rec_)
      fvMul (Fmt.fp32.decode p) (Fmt.fp32.decode lr.routeScale)), sc.2.add d.2)

/-! ### Serving copies and descriptors (R129, R137) -/

/-- The serving copy of an expert: member, whether it is a replica, whether it is cold. -/
structure Serve where
  expert : Nat
  member : Nat
  replica : Bool
  cold : Bool
  deriving DecidableEq, Repr

/-- The primary copy of an expert is HOT under the placement in force, here or on the module that homes it (log 125). -/
def State.primaryHot (s : State) (h : Nat) : Bool :=
  match s.objRec h with
  | some o => s.domainTier h o == .hot
  | none => false

/-- Assign each expert with an admitted pair its serving copy, experts ascending (R137). -/
def State.assignServe (s : State) (lr : LayerRec) (self : Nat) : List Nat → List Serve → List Serve
  | [], acc => acc
  | e :: es, acc =>
    let home := s.homeMember lr e
    let x : Serve :=
      match s.expertHandle lr.layer e with
      | none => ⟨e, home, false, false⟩
      | some h =>
        let reps := (s.mem.grants.filter (fun g => g.1 == h)).map Prod.snd
        let prim := s.primaryHot h
        if reps.isEmpty then ⟨e, home, false, !prim⟩
        else
          let copies := (if prim then [(home, false)] else []) ++ reps.map (fun m => (m, true))
          let load (m : Nat) := (acc.filter (fun a => a.member == m)).length
          match copies with
          | [] => ⟨e, home, false, true⟩
          | c :: cs =>
            let b := cs.foldl (fun b x => if load x.1 < load b.1 then x else b) c
            ⟨e, b.1, b.2, false⟩
    State.assignServe s lr self es (acc ++ [x])

/-- Descriptors of a token's kept pairs in ascending rank (R129). -/
def tokenDescriptors (lr : LayerRec) (serve : List Serve) (t : Token) (ws : List Nat) : List Descriptor :=
  let pairs := sortBy (fun (a b : (Nat × Nat) × Nat) => decide (a.1.1 ≤ b.1.1)) (t.kept.zip ws)
  pairs.filterMap (fun x =>
    (t.expertAt x.1.1).map (fun e =>
      let sv := (serve.find? (fun v => v.expert == e)).getD ⟨e, t.origin, false, false⟩
      { key := t.key, expert := e, layer := lr.layer, rank := x.1.1, originRank := x.1.2, weight := x.2, row := t.row,
        origin := t.origin, holder := sv.member,
        flags := (if sv.replica then 1 else 0) + (if sv.member = t.origin then 2 else 0) + (if sv.cold then 4 else 0) }))

end Sys2Proof.Machine
end

