-- ==== Sys2Proof/Machine/CrewEngine.lean ====
section
/-! DEFINITION. Stage plans at work (spec/14, R271 to R278): the values a member forms at each stage from its
contribution and what it has received, the packets that are ready to send, the result, and the count scan. -/
namespace Sys2Proof.Machine

/-- A plan of one member for one operation: crew index and table, own member index, operation, tree or ring, root,
elements of R270, whether the BF16 adds of R61 apply, element bytes, elements a packet carries. -/
structure CollJob where
  crew : Nat
  cr : Crew
  self : Nat
  op : Nat
  tree : Bool
  root : Nat
  elements : Nat
  bf16 : Bool
  width : Nat
  packet : Nat
  deriving DecidableEq, Repr

/-- Elements formed so far, by index. -/
abbrev Vals := Nat → Option Elem

/-- Work of one stage towards one member: stage, stroke, member, the element indices and their values. -/
structure SendJob where
  stage : Nat
  num : Nat
  dst : Nat
  elems : List Nat
  val : Vals

/-- Sum of two elements in the Reduction Engine, flags by OR; BF16 adds in the fast mode, whose elements have no flags and
carry in that field how many adds on this member overflowed (R61, R272, R277). -/
def addElem (bf16 : Bool) (a b : Elem) : Elem :=
  if bf16 then ⟨((bf16Add a.val.toNat b.val.toNat).1 : Nat), a.flags + b.flags + (bf16Add a.val.toNat b.val.toNat).2.wire⟩ else ⟨a.val + b.val, a.flags ||| b.flags⟩

/-- Sum of two values that may not have arrived. -/
def addOpt (bf16 : Bool) (a b : Option Elem) : Option Elem :=
  match a, b with
  | some x, some y => some (addElem bf16 x y)
  | _, _ => none

/-- Element `e` as a member sent it in a stage and stroke; a barrier's packets carry no data. -/
def rcvElem (op : Nat) (ps : List Piece) (stage num src e : Nat) : Option Elem :=
  match ps.find? (fun p => p.stage == stage && p.num == num && p.src == src &&
      (op == opBarrier || (decide (p.first ≤ e) && decide (e < p.first + p.elems.length)))) with
  | some p => if op = opBarrier then some ⟨0, 0⟩ else p.elems[e - p.first]?
  | none => none

/-- Strokes of a stage by its kind and size (R273). -/
def stageStrokes (k : StageKind) (d : Nat) : Nat :=
  if d ≤ 1 then 0
  else match k with
    | .direct => 1 | .all => 1 | .ringScatter => d - 1 | .ringGather => d - 1 | .tree => 2 * (d / 2) | .treeDown _ => d / 2

/-- Stages of the whole plan in order, whichever of them concern this member. -/
def CollJob.plan (j : CollJob) : List (Nat × StageKind) :=
  if j.op = opBroadcast then
    [(3, .treeDown (j.cr.pos j.root 3)), (2, .treeDown (j.cr.pos j.root 2)), (1, .treeDown (j.cr.pos j.root 1)), (0, .direct)]
  else j.cr.stages j.op j.tree j.root j.self

/-- Elements of one block: ⌈E ÷ M⌉ for reductions, E for the others (R271). -/
def CollJob.blk (j : CollJob) : Nat :=
  let m := j.cr.members.length
  if j.op = opAllReduce ∨ j.op = opReduceScatter then (j.elements + m - 1) / m else j.elements

/-- Elements a member's vector has during the plan. -/
def CollJob.total (j : CollJob) : Nat :=
  if j.op = opAllGather then j.cr.members.length * j.elements else if j.op = opBarrier then 1 else j.elements

/-- Position in a stage of the member whose block holds element `e`. -/
def CollJob.chunk (j : CollJob) (st e : Nat) : Nat := j.cr.pos (if j.blk = 0 then 0 else e / j.blk) st

/-- The block of element `e` lies at this member's position in every stage of a list. -/
def CollJob.mine (j : CollJob) (sts : List Nat) (e : Nat) : Bool :=
  sts.all (fun st => j.chunk st e == j.cr.pos j.self st)

/-- Fold the values of a tray stage in ascending position, the own value in its own place (R274). -/
def trayFold (j : CollJob) (d x : Nat) (own : Option Elem) (rcv : Nat → Option Elem) : Option Elem :=
  match d with
  | 0 => own
  | _ => (List.range (d - 1)).foldl (fun a p => addOpt j.bf16 a (if p + 1 = x then own else rcv (p + 1)))
      (if x = 0 then own else rcv 0)

/-- Stroke of the up pass in which position `y` sends (R274): arcs send from their far ends, each from the first stroke on (DEDUCED,
log 111). -/
def upStroke (d y : Nat) : Nat := if y < arcSplit d then arcSplit d - y else y - arcSplit d + 1

/-- Distance of a position from position 0 along its arc. -/
def arcDistance (d y : Nat) : Nat := if y < arcSplit d then y else d - y

/-- One stage: from the values before it to those after it, with what this member sends. `done` lists the stages already
scattered over, `todo` those still to gather; `base` is the stroke before the stage's first. -/
def CollJob.stageStep (j : CollJob) (ps : List Piece) (st : Nat) (k : StageKind) (base : Nat) (gather : Bool)
    (done todo : List Nat) (cur : Vals) : Vals × List SendJob :=
  let d := j.cr.size st
  let x := j.cr.pos j.self st
  let at_ (p : Nat) := j.cr.atPos j.self st p
  let rcv (num p e : Nat) := rcvElem j.op ps st num (at_ p) e
  let all := List.range j.total
  if d ≤ 1 then (cur, [])
  else match k with
    | .ringScatter =>
      let prev := (x + d - 1) % d
      let part (e : Nat) : Option Elem :=
        let t := (x + d - j.chunk st e) % d
        if t = 1 then cur e else addOpt j.bf16 (cur e) (rcv (base + (prev + d - j.chunk st e) % d) prev e)
      let share := all.filter (j.mine done)
      (part, (List.range (d - 1)).map (fun i =>
        ⟨st, base + i + 1, at_ ((x + 1) % d), share.filter (fun e => (x + d - j.chunk st e) % d == i + 1), part⟩))
    | .ringGather =>
      let prev := (x + d - 1) % d
      let val (e : Nat) : Option Elem :=
        let t := (x + d - j.chunk st e) % d
        if t = 0 then cur e else rcv (base + t) prev e
      let share := all.filter (j.mine todo)
      (val, (List.range (d - 1)).map (fun i =>
        ⟨st, base + i + 1, at_ ((x + 1) % d), share.filter (fun e => (x + d - j.chunk st e) % d == i), val⟩))
    | .direct =>
      let others := (List.range d).filter (· != x)
      if j.op = opBroadcast then
        let r := j.cr.pos j.root 0
        if x = r then (cur, others.map (fun p => ⟨st, base + 1, at_ p, all, cur⟩))
        else (fun e => rcv (base + 1) r e, [])
      else if gather then
        let share := all.filter (j.mine todo)
        (fun e => if j.chunk st e = x then cur e else rcv (base + 1) (j.chunk st e) e,
         others.map (fun p => ⟨st, base + 1, at_ p, share.filter (fun e => j.chunk st e == x), cur⟩))
      else if j.op = opReduceScatter ∨ (j.op = opAllReduce ∧ !j.tree) then
        (fun e => trayFold j d x (cur e) (fun p => rcv (base + 1) p e),
         others.map (fun p => ⟨st, base + 1, at_ p, all.filter (fun e => j.chunk st e == p), cur⟩))
      else
        (fun e => trayFold j d x (cur e) (fun p => rcv (base + 1) p e),
         others.map (fun p => ⟨st, base + 1, at_ p, all, cur⟩))
    | .tree =>
      let away := awayFromRoot d x
      let up (e : Nat) : Option Elem := away.foldl (fun a y => addOpt j.bf16 a (rcv (base + upStroke d y) y e)) (cur e)
      let half := d / 2
      let val (e : Nat) : Option Elem :=
        match towardRoot d x with
        | none => up e
        | some y => rcv (base + half + arcDistance d x) y e
      let downs := away.map (fun y => SendJob.mk st (base + half + arcDistance d y) (at_ y) all val)
      (val, match towardRoot d x with
        | none => downs
        | some y => ⟨st, base + upStroke d x, at_ y, all, up⟩ :: downs)
    | .treeDown r =>
      let y := (x + d - r) % d
      let val (e : Nat) : Option Elem :=
        match towardRoot d y with
        | none => cur e
        | some z => rcv (base + arcDistance d y) ((z + r) % d) e
      (val, (awayFromRoot d y).map (fun z => ⟨st, base + arcDistance d z, at_ ((z + r) % d), all, val⟩))
    | .all => (cur, [])

/-- Whether a stage of a broadcast concerns this member: it shares the root's positions in the stages that run later. -/
def CollJob.inStage (j : CollJob) (st : Nat) : Bool :=
  j.op != opBroadcast || (List.range st).all (fun k => j.cr.pos j.self k == j.cr.pos j.root k)

/-- Run the stages of a plan in order. -/
def CollJob.runStages (j : CollJob) (ps : List Piece) : List (Nat × StageKind) → Nat → List Nat → Vals → Vals × List SendJob
  | [], _, _, cur => (cur, [])
  | (st, k) :: rest, base, done, cur =>
    let gather := j.op == opAllGather || (j.op == opAllReduce && !j.tree && done.length ≥ 4)
    let r := if j.inStage st then j.stageStep ps st k base gather done (rest.map Prod.fst) cur else (cur, [])
    let r' := CollJob.runStages j ps rest (base + stageStrokes k (j.cr.size st)) (done ++ [st]) r.1
    (r'.1, r.2 ++ r'.2)

/-- Values before the first stage: the contribution, at its place for a gather, at the root alone for a broadcast. -/
def CollJob.start (j : CollJob) (contribution : List Elem) : Vals := fun e =>
  if j.op = opBarrier then some ⟨0, 0⟩
  else if j.op = opAllGather then (if j.self * j.elements ≤ e then contribution[e - j.self * j.elements]? else none)
  else if j.op = opBroadcast ∧ j.self ≠ j.root then none
  else contribution[e]?

/-- ALL_TO_ALL: one stroke of unicasts, block `m` of the own input to member `m` (R271, R273). -/
def CollJob.allToAll (j : CollJob) (contribution : List Elem) : List SendJob :=
  ((List.range j.cr.members.length).filter (· != j.self)).map (fun m =>
    ⟨0, 1, m, List.range j.elements, fun e => contribution[m * j.elements + e]?⟩)

/-- Everything a member sends in a plan. -/
def CollJob.sends (j : CollJob) (contribution : List Elem) (ps : List Piece) : List SendJob :=
  if j.op = opAllToAll then j.allToAll contribution
  else (j.runStages ps j.plan 0 [] (j.start contribution)).2

/-- Elements of the result on this member (R271). -/
def CollJob.resultElems (j : CollJob) : List Nat :=
  if j.op = opReduceScatter then (List.range j.elements).filter (fun e => j.blk != 0 && e / j.blk == j.self)
  else if j.op = opBarrier then [0]
  else List.range j.total

/-- All values of a list, `none` while one is missing. -/
def allSome {α : Type} : List (Option α) → Option (List α)
  | [] => some []
  | none :: _ => none
  | some x :: t => (allSome t).map (x :: ·)

/-- The result of a plan once this member holds everything it needs (R271). -/
def CollJob.result (j : CollJob) (contribution : List Elem) (ps : List Piece) : Option (List Elem) :=
  if j.op = opAllToAll then
    (allSome ((List.range j.cr.members.length).map (fun m =>
      if m = j.self then some ((contribution.drop (m * j.elements)).take j.elements)
      else allSome ((List.range j.elements).map (fun e => rcvElem j.op ps 0 1 m e))))).map List.flatten
  else
    let v := (j.runStages ps j.plan 0 [] (j.start contribution)).1
    allSome (j.resultElems.map v)

/-- Packets of a run of indices. -/
def cutRun (packet : Nat) : Nat → Nat × Nat → List (Nat × Nat)
  | 0, _ => []
  | fuel + 1, (f, n) => if n ≤ packet then [(f, n)] else (f, packet) :: cutRun packet fuel (f + packet, n - packet)

/-- The packets of a send job that are ready: first element and values; a barrier sends one without data. -/
def CollJob.ready (j : CollJob) (x : SendJob) : List (Nat × List Elem) :=
  if j.op = opBarrier then
    match x.val 0 with
    | some _ => [(0, [])]
    | none => []
  else
    ((indexRuns x.elems).flatMap (fun r => cutRun j.packet (r.2 + 1) r)).filterMap (fun r =>
      (allSome ((List.range r.2).map (fun i => x.val (r.1 + i)))).map (fun l => (r.1, l)))

/-- A packet with flags carries at most 480 elements and their map (R276). -/
def flagSplit (w64 : Bool) (p : Nat × List Elem) : List (Nat × List Elem) :=
  if w64 && decide (480 < p.2.length) && p.2.any (fun x => x.flags != 0) then
    [(p.1, p.2.take 480), (p.1 + 480, p.2.drop 480)]
  else [p]

/-- The ENTER of a member has arrived for a round. -/
def CrewRun.hasEnter (k : CrewRun) (round m : Nat) : Bool := k.entered.contains (round, m)

/-- Count a stroke begun, which restarts the stroke timer (R283). -/
def CrewRun.begin_ (k : CrewRun) (num now : Nat) : CrewRun :=
  if k.stroke < num then { k with stroke := num, progress := now } else k

/-- Send what is ready and not yet sent to members whose ENTER has arrived; the same data for several members of a tray
goes as one tree multicast (R274, R275). Bytes count once for each packet injected (R288, log 112). -/
def State.pumpColl (s : State) (owner : TxnOwner) (c : Nat) (j : CollJob) (k : CrewRun) : State × CrewRun :=
  let jobs := (j.sends k.contribution k.pieces).flatMap (fun x => (j.ready x).map (fun p => (x, p)))
  let fresh := jobs.filter (fun y => k.hasEnter 0 y.1.dst && !k.sent.contains (y.1.stage * 65536 + y.1.num, y.1.dst, y.2.1))
  let keys := dedup (fresh.map (fun y => (y.1.stage, y.1.num, y.2)))
  keys.foldl (fun (r : State × CrewRun) key =>
    let dsts := (fresh.filter (fun y => y.1.stage == key.1 && y.1.num == key.2.1 && y.2 == key.2.2)).map (fun y => y.1.dst)
    let addrs := dsts.map (r.1.addrTo j.cr)
    let s := (flagSplit (j.width == 8) key.2.2).foldl (fun s p =>
      let b : Body := .stroke j.crew key.2.1 key.1 r.2.inst r.2.attempt p.1 j.width
        (if j.bf16 then p.2.map (fun x => { x with flags := 0 }) else p.2)
      let s := match ctxIndex? c with
        | some i => s.bump (Key.collBytesSent i) (bodyBytes b * (s.treeSplit (addrs.filter (· != noAddr))).length)
        | none => s
      match addrs with
      | [a] => s.sendTo owner c 1 a 0 b
      | _ => s.sendTree owner c 1 addrs 0 b) r.1
    (s, { (r.2.begin_ key.2.1 s.now) with
      sent := r.2.sent ++ dsts.map (fun m => (key.1 * 65536 + key.2.1, m, key.2.2.1)) })) (s, k)

/-! ### The count exchange (R278) -/

/-- Combination of scan values: counts modulo 2^32, keys by maximum over members with tokens, flags by OR. -/
def scanAdd (a b : ScanVal) : ScanVal :=
  ⟨(a.counts.zip b.counts).map (fun p => (p.1 + p.2) % 2 ^ 32),
   if a.hasTok && b.hasTok then max a.key b.key else if a.hasTok then a.key else b.key, a.hasTok || b.hasTok⟩

/-- The identity of the combination. -/
def scanZero (experts : Nat) : ScanVal := ⟨List.replicate experts 0, 0, false⟩

/-- Counts one SCAN packet carries. -/
abbrev scanSlice : Nat := 500

/-- A received scan value put together from its slices, `none` while one is missing: value `which` of the packet. -/
def rcvScan (experts : Nat) (ps : List ScanPiece) (round stage num src which : Nat) : Option ScanVal :=
  let slices := (List.range ((experts + scanSlice - 1) / scanSlice)).map (fun i =>
    match ps.find? (fun p => p.round == round && p.stage == stage && p.num == num && p.src == src && p.first == i * scanSlice) with
    | some p => p.vals[which]?
    | none => none)
  (allSome slices).map (fun l =>
    ⟨(l.map ScanVal.counts).flatten, (l.headD (scanZero 0)).key, (l.headD (scanZero 0)).hasTok⟩)

/-- A SCAN this member sends: stage, stroke, member, values. -/
structure ScanSend where
  stage : Nat
  num : Nat
  dst : Nat
  vals : List ScanVal
  deriving DecidableEq, Repr

def scanAddOpt (a b : Option ScanVal) : Option ScanVal :=
  match a, b with
  | some x, some y => some (scanAdd x y)
  | _, _ => none

/-- Sends of known values. -/
def scanSend (st num dst : Nat) (l : List (Option ScanVal)) : List ScanSend :=
  match allSome l with
  | some vs => [⟨st, num, dst, vs⟩]
  | none => []

/-- One stage of the count scan: prefix, total and what is sent (R278, pseudocode "Count scan"). -/
def scanStage (cr : Crew) (self experts : Nat) (ps : List ScanPiece) (round st base : Nat) (v : Option ScanVal) :
    Option ScanVal × Option ScanVal × List ScanSend :=
  let d := cr.size st
  let x := cr.pos self st
  let at_ (p : Nat) := cr.atPos self st p
  let zero := some (scanZero experts)
  let rcv (num p which : Nat) := rcvScan experts ps round st num (at_ p) which
  if d ≤ 1 then (zero, v, [])
  else if st = 0 then
    let val (p : Nat) := if p = x then v else rcv (base + 1) p 0
    ((List.range x).foldl (fun a p => scanAddOpt a (val p)) zero, (List.range d).foldl (fun a p => scanAddOpt a (val p)) zero,
     ((List.range d).filter (· != x)).flatMap (fun p => scanSend st (base + 1) (at_ p) [v]))
  else
    let m := arcSplit d
    let half := d / 2
    let down (y : Nat) := base + half + arcDistance d y
    if x = 0 then
      let p := if 1 < m then rcv (base + upStroke d 1) 1 0 else zero
      let q := if m < d then rcv (base + upStroke d (d - 1)) (d - 1) 0 else zero
      let a := scanAddOpt v p
      let total := scanAddOpt a q
      (zero, total,
       (if 1 < m then scanSend st (down 1) (at_ 1) [v, total] else []) ++
       (if m < d then scanSend st (down (d - 1)) (at_ (d - 1)) [a, total] else []))
    else if x < m then
      let u := if x < m - 1 then rcv (base + upStroke d (x + 1)) (x + 1) 0 else zero
      let p := rcv (down x) (x - 1) 0
      let total := rcv (down x) (x - 1) 1
      (p, total, scanSend st (base + upStroke d x) (at_ (x - 1)) [scanAddOpt v u] ++
        (if x < m - 1 then scanSend st (down (x + 1)) (at_ (x + 1)) [scanAddOpt p v, total] else []))
    else
      let u := if m < x then rcv (base + upStroke d (x - 1)) (x - 1) 0 else zero
      let a := rcv (down x) ((x + 1) % d) 0
      let total := rcv (down x) ((x + 1) % d) 1
      (scanAddOpt a u, total, scanSend st (base + upStroke d x) (at_ ((x + 1) % d)) [scanAddOpt u v] ++
        (if m < x then scanSend st (down (x - 1)) (at_ (x - 1)) [a, total] else []))

/-- The count scan of one round on one member: exclusive prefix, total, sends. -/
def countScan (cr : Crew) (self experts : Nat) (ps : List ScanPiece) (round : Nat) (v : ScanVal) :
    Option ScanVal × Option ScanVal × List ScanSend :=
  let b1 := stageStrokes .direct cr.ds
  let b2 := b1 + stageStrokes .tree cr.dx
  let b3 := b2 + stageStrokes .tree cr.dy
  let r0 := scanStage cr self experts ps round 0 0 (some v)
  let r1 := scanStage cr self experts ps round 1 b1 r0.2.1
  let r2 := scanStage cr self experts ps round 2 b2 r1.2.1
  let r3 := scanStage cr self experts ps round 3 b3 r2.2.1
  (scanAddOpt (scanAddOpt (scanAddOpt r0.1 r1.1) r2.1) r3.1, r3.2.1, r0.2.2 ++ r1.2.2 ++ r2.2.2 ++ r3.2.2)

/-- Send the SCAN packets of a round that are ready (R275, R276, R278). -/
def State.pumpScan (s : State) (owner : TxnOwner) (c crew : Nat) (cr : Crew) (self experts : Nat) (k : CrewRun)
    (v : ScanVal) : State × CrewRun :=
  let sends := (countScan cr self experts k.scans k.round v).2.2
  let fresh := sends.filter (fun x => k.hasEnter k.round x.dst &&
    !k.sent.contains ((k.round * 8 + x.stage) * 65536 + x.num, x.dst, 0))
  fresh.foldl (fun (r : State × CrewRun) x =>
    let s := (List.range ((experts + scanSlice - 1) / scanSlice)).foldl (fun s i =>
      let b : Body := .scan crew k.round x.num x.stage k.inst k.attempt (i * scanSlice)
        (x.vals.map (fun v => { v with counts := (v.counts.drop (i * scanSlice)).take scanSlice }))
      let s := match ctxIndex? c with
        | some i => s.bump (Key.collBytesSent i) (if s.addrTo cr x.dst = noAddr then 0 else bodyBytes b)
        | none => s
      s.sendTo owner c 1 (s.addrTo cr x.dst) 0 b) r.1
    (s, { (r.2.begin_ x.num s.now) with sent := r.2.sent ++ [((k.round * 8 + x.stage) * 65536 + x.num, x.dst, 0)] })) (s, k)

/-! ### Entry (R275) -/

/-- Members whose ENTER this member waits for: those it sends data to. -/
def CrewRun.awaits (k : CrewRun) (cr : Crew) (op : Nat) (tree : Bool) (root self : Nat) : List Nat :=
  (cr.receivers op tree root self).filter (fun m => !k.hasEnter k.round m)

/-- Send ENTER to every member that will send this member data in the plan. -/
def State.sendEnters (s : State) (owner : TxnOwner) (c crew : Nat) (cr : Crew) (op : Nat) (tree : Bool) (root self : Nat)
    (k : CrewRun) : State :=
  s.forEach (cr.senders op tree root self) (fun s m =>
    s.sendTo owner c 1 (s.addrTo cr m) 0 (.enter crew k.round k.inst k.attempt k.sig))

/-- ENTERs of this instance, attempt and round that were held until now: the members heard, and whether one differed. -/
def State.takeHeld (s : State) (crew : Nat) (k : CrewRun) : State × CrewRun × Bool :=
  let mine := s.heldEnters.filter (fun h => h.crew == crew && h.inst == k.inst && h.att == k.attempt && h.round == k.round)
  ({ s with heldEnters := s.heldEnters.filter (fun h => !mine.contains h) },
   { k with entered := k.entered ++ mine.map (fun h => (h.round, h.src)) }, mine.any (fun h => h.sig != k.sig))

/-- A crew run that enters: instance, attempt and round given. -/
def CrewRun.fresh (crew inst attempt round sig now : Nat) (acted : List (Nat × Nat)) : CrewRun :=
  { acted := acted, crew := crew, inst := inst, attempt := attempt, round := round, sig := sig, entered := [],
    entrySince := now, pieces := [], scans := [], sent := [], contribution := [], progress := 0, stroke := 0 }

/-- The instance a crew command takes, counted at its first issue, as the 29 bits a packet carries (R269, R276). -/
def State.takeInstance (s : State) (crew : Nat) (k : Option CrewRun) : Nat × State :=
  match k with
  | some x => (x.inst, s)
  | none => (s.reg (Key.crewInstance crew) % 2 ^ 29, s.advanceCount (Key.crewInstance crew))

end Sys2Proof.Machine
end

