-- ==== Sys2Proof/Machine/Exchange.lean ====
section
/-! DEFINITION. The Exchange Engine (spec/07): deliveries and their pieces, BROADCAST, the candidate merge, admission over
the routing domain, descriptors and sending, landings, returns, COMBINE's sums, mirrors, and the rows BROADCAST,
DISPATCH, COMBINE, LANDING, POOL_WAIT_GRANT, MERGE_LIST, RETURN_ARRIVAL and MIRROR_ARRIVAL. -/
namespace Sys2Proof.Machine

/-! ### Records, rows and keys (R103, R111, R127) -/

/-- Formats of `hs_format` (R127). -/
def hsFmt : Nat → Fmt
  | 0 => .e4m3 | 1 => .e5m2 | 2 => .bf16 | _ => .fp32

/-- The EXCHANGE record of a command. -/
def Command.exchRec (c : Command) : Option ExchRec :=
  match c.param with
  | .exchange r => if c.kind = 2 then some r else none
  | _ => none

/-- Bytes of one row of `d` elements. -/
def rowBytes (f : Fmt) (d : Nat) : Nat := f.bytesOf d

/-- Rows of `d` elements an object holds. -/
def State.rowsOf (s : State) (h : Nat) (f : Fmt) (d : Nat) : Nat :=
  match s.objRec h with
  | some o => if rowBytes f d = 0 then 0 else o.size / rowBytes f d
  | none => 0

/-- Token key of a row (R111). -/
def State.tokenKey (s : State) (lr : LayerRec) (c row : Nat) : Nat := leNat (s.objBytes lr.tagHandle c (8 * row) 8)

/-- Row `r` of a handle. -/
def State.rowAt (s : State) (h c : Nat) (f : Fmt) (d r : Nat) : List Byte :=
  s.objBytes h c (r * rowBytes f d) (rowBytes f d)

/-- The COMBINE record of a layer, with its command index. -/
def State.combineRec (s : State) (layer : Nat) : Option (Nat × ExchRec) :=
  match s.image with
  | none => none
  | some im => ((indexed im.commands).filterMap (fun x => match x.2.exchRec with
      | some r => if r.role = 3 ∧ r.layer = layer then some (x.1, r) else none
      | none => none)).head?

/-- The DISPATCH record of a layer. -/
def State.dispatchRec (s : State) (layer : Nat) : Option ExchRec :=
  match s.image with
  | none => none
  | some im => (im.commands.filterMap (fun x => match x.exchRec with
      | some r => if r.role = 2 ∧ r.layer = layer then some r else none
      | none => none)).head?

/-- Crew, layer and own member index of an exchange record. -/
def State.exchDomain (s : State) (layer : Nat) : Option (LayerRec × Crew × Nat) :=
  match s.layerRec layer with
  | none => none
  | some lr => (s.crew? lr.crew).map (fun cr => (lr, cr, s.selfIndex lr.crew))

/-- Owner of a context's use in the pools (R192). -/
def ownerIndex (c use : Nat) : Nat := 8 * c + use

/-! ### What a hub block reads for a command (R160, R185) -/

/-- A tile of an object has been streamed for the command of a queue: nothing but that command takes it from the ring (R186). -/
def State.streamedFor (s : State) (c : Fin 4) (q : Fin 8) (h j : Nat) : Bool :=
  s.mem.stagings.any (fun g => g.handle == h && g.ctx == c.val && g.queue == q.val && g.streamed && g.done.contains j)

/-- An object a command reads that lies in no HBM copy and is not wholly staged for it. -/
def State.notStaged (s : State) (c : Fin 4) (q : Fin 8) (h : Nat) : Bool :=
  match s.objRec h, s.inst h c with
  | some o, some i => i.hot.isNone && (s.unstaged h c (List.range o.tileCount)).any (fun j => !s.streamedFor c q h j)
  | _, _ => false

/-- Start the WAIT fetch of an object, or take over the staging a hint began (R138, R186); while a promotion of it is in flight its
tiles are waited for instead (R179, R187). -/
def State.waitFetch (s : State) (c : Fin 4) (q : Fin 8) (h : Nat) : State :=
  match s.objRec h with
  | none => s
  | some o =>
    let s := s.modMem (fun m => { m with stagings := m.stagings.map (fun g =>
      if g.handle == h && g.user == 2 then { g with user := 1, ctx := c, queue := q } else g) })
    let have_ := (s.mem.stagings.filter (fun g => g.handle == h && g.ctx == c.val && (!g.streamed || g.queue == q.val))).flatMap Staging.tiles
    let todo := (List.range o.tileCount).filter (fun j => !have_.contains j)
    if todo.isEmpty || s.promoting h (s.ownerOf h c) then s else s.startStaging 1 c q h o.layer todo

/-- A hub block reads objects for the command at the head of a queue: it waits while one is not in HBM or is being
decoded, and an error takes its course. What it reads is noted for its commit (R176). Answers whether the data can be read now. -/
def State.hubAccess (s : State) (c : Fin 4) (q : Fin 8) (ps : List ObjPart) : State × Bool :=
  let hs := ps.map Prod.fst
  let s := s.modRun c q (fun r => { r with objs := dedup (r.objs ++ hs) })
  match hs.find? (fun h => s.notStaged c q h) with
  | some h => (s.waitFetch c q h, false)
  | none =>
    let x := s.hubInputs c ps
    let at_ := x.1.2
    let cmd := match s.run c q with | some r => r.entry.command | none => none32
    match x.1.1 with
    | .ok => (x.2, true)
    | .fail => (x.2.ctxFault c 0x10 cmd 0x06 (Key.hbmUeCount (stackOfAddr at_)) (at_ / 4096), false)
    | .act => (x.2.actDetected c q ((hs.find? (fun h => match s.inputVersion h c with | some v => v.holds at_ | none => false)).getD none32) at_, false)
    | .hold _ => (x.2, false)

/-! ### Deliveries (R130, R143) -/

/-- Cut a delivery of `bytes` into pieces of at most 4 KiB of packet data, the first with a header of `hdr` bytes (R228). -/
def cutDelivery (hdr : Nat) : Nat → Nat → List Byte → List (Nat × List Byte)
  | 0, _, _ => []
  | fuel + 1, first, bytes =>
    let n := 4096 - (if first = 0 then hdr else 0)
    if bytes.length ≤ n then [(first, bytes)]
    else (first, bytes.take n) :: cutDelivery hdr fuel (first + n) (bytes.drop n)

/-- Number of a delivery's piece: token, kind, first byte. The kinds are 0 for a landing, 1 and 2 for a candidate list on its way
up and down, 3 + 4·expert for a return. -/
def pieceId (id : TokId) (kind first : Nat) : Nat :=
  (((id.1 * 2 ^ 16 + id.2.1) * 2 ^ 32 + id.2.2) * 2 ^ 20 + kind) * 2 ^ 21 + first

/-- Send a delivery to addresses, those apart that have acknowledged every piece of it (R143, R200, log 36); answers the bytes
injected, packet headers included. -/
def State.xchSend (s : State) (owner : TxnOwner) (c : Nat) (done : List (Nat × Nat)) (l : List Addr) (id : TokId) (kind hdr : Nat)
    (bytes : List Byte) (mk : Nat → List Byte → Body) : State × Nat :=
  let ps := cutDelivery hdr (bytes.length / 4000 + 2) 0 bytes
  let dsts := l.filter (fun a => !ps.all (fun p => done.contains (pieceId id kind p.1, wordOfAddr a)))
  ps.foldl (fun (r : State × Nat) p =>
    let b := mk p.1 p.2
    match dsts with
    | [] => r
    | [a] => (r.1.sendTo owner c 2 a (pieceId id kind p.1) b, r.2 + 32 + bodyBytes b)
    | _ =>
      let groups := r.1.treeSplit dsts
      (r.1.sendTree owner c 2 dsts (pieceId id kind p.1) b,
       r.2 + groups.length * (104 + bodyBytes b))) (s, 0)

/-- An acknowledged piece of a delivery is not sent again (R143). -/
def State.deliveryAcked (s : State) (t : Txn) (a : Addr) : State :=
  match t.owner with
  | .run c q =>
    match ctxIndex? c, (if h : q < 8 then some (⟨q, h⟩ : Fin 8) else none) with
    | some c, some q => s.modRun c q (fun r => { r with xch := r.xch.map (fun x =>
        { x with done := (t.piece, wordOfAddr a) :: x.done }) })
    | _, _ => s
  | _ => s

/-- Stage a count of a queue's run. -/
def State.stageCount (s : State) (c : Fin 4) (q : Fin 8) (k n : Nat) : State := s.modRun c q (fun r => r.addCount k n)

/-- Stage an exchange count for a layer: on its running EXCHANGE, or until the next one commits (R145, log 130). -/
def State.xchCount (s : State) (c : Fin 4) (layer k n : Nat) : State :=
  match s.exchangeQueue c layer with
  | some q => s.stageCount c q k n
  | none => if n = 0 then s else s.modCtx c (fun x => { x with xchCounts := assocPut x.xchCounts k ((assoc x.xchCounts k).getD 0 + n) })

/-! ### Issue (R128, R269) -/

/-- Progress of an EXCHANGE that has just issued; acknowledged deliveries of an earlier attempt are kept (R143). -/
def XchRun.fresh (r : ExchRec) (old : Option XchRun) : XchRun :=
  { rec_ := r, stage := 3, round := 0, tokens := [], requests := [], room := [], adm := [], expected := 0,
    done := (match old with | some x => x.done | none => []), vals := [], serve := [] }

/-- An issued EXCHANGE takes its instance and starts its progress, without an entry of its own (R269). -/
def State.exchangeInit (s : State) (c : Fin 4) (q : Fin 8) : State :=
  match s.run c q with
  | none => s
  | some r =>
    match r.cmd.exchRec with
    | none => s
    | some e =>
      let i := s.takeInstance r.cmd.target r.crew
      let k := match r.crew with
        | some k => { k with round := 0, sig := countSignature 0 }
        | none => CrewRun.fresh r.cmd.target i.1 0 0 (countSignature 0) s.now []
      (i.2.modRun c q (fun r => { r with crew := some k, xch := some (XchRun.fresh e r.xch) })).noteCrews

/-- The entry at the head of a queue is an EXCHANGE of a role that a plain issue row serves. -/
def isExchange (role : Nat) (r : Run) : Bool :=
  r.plainIssue && (match r.cmd.exchRec with | some e => e.role == role | none => false)

/-- Tag of a delivery this module makes for a command, of a token of a member and row (R143). -/
def State.tagFor (s : State) (c : Fin 4) (cmd member origin row : Nat) : DelivTag :=
  ⟨c, (s.ctx c).step % 2 ^ 32, cmd, member, origin, row⟩

/-- The token of a buffer. -/
def Buf.id (b : Buf) : TokId := (b.key, b.tag.origin, b.tag.row)

/-- The token of a descriptor. -/
def Descriptor.id (d : Descriptor) : TokId := (d.key, d.origin, d.row)

/-- The token as the landing table knows it. -/
def Token.id (t : Token) : TokId := (t.key, t.origin, t.row)

/-- Ascending token key; equal keys by origin member, then row (R112). -/
def tokIdBefore (a b : TokId) : Bool :=
  if a.1 ≠ b.1 then decide (a.1 < b.1) else if a.2.1 ≠ b.2.1 then decide (a.2.1 < b.2.1) else decide (a.2.2 ≤ b.2.2)

/-! ### BROADCAST (R131) -/

/-- Tray of an address. -/
def trayOf (a : Addr) : Nat := a.coord / 8

/-- Members of a crew with their addresses. -/
def State.crewAddrs (s : State) (cr : Crew) : List (Nat × Addr) := (List.range cr.members.length).map (fun m => (m, s.addrTo cr m))

/-- Destinations of a row under the tray relay: relays of other trays, and members reached directly: those of the own
tray, and of trays without a member in the own slot. -/
def State.relayLegs (s : State) (cr : Crew) (self : Nat) : List Addr × List Addr :=
  let all := (s.crewAddrs cr).filter (fun x => x.1 != self)
  match s.memberAddr cr self with
  | none => ([], all.map Prod.snd)
  | some me =>
    let far := all.filter (fun x => trayOf x.2 != trayOf me)
    let relays := far.filter (fun x => x.2 != noAddr && coordS x.2.coord == coordS me.coord)
    (relays.map Prod.snd,
     (all.filter (fun x => trayOf x.2 == trayOf me || !relays.any (fun y => trayOf y.2 == trayOf x.2))).map Prod.snd)

/-- Send one row of a BROADCAST. -/
def State.broadcastRow (s : State) (c : Fin 4) (q : Fin 8) (e : ExchRec) (lr : LayerRec) (cr : Crew) (self cmd row : Nat)
    (done : List (Nat × Nat)) : State :=
  let f := hsFmt e.hsFormat
  let bytes := s.rowAt e.hs c f lr.dModel row
  let key := s.tokenKey lr c row
  let tag := s.tagFor c cmd self self row
  let id : TokId := (key, self, row)
  let mk (relay : Bool) (first : Nat) (b : List Byte) : Body := .landing tag e.layer key [] relay first bytes.length b
  let legs := if e.relay = 1 then s.relayLegs cr self else ([], ((s.crewAddrs cr).filter (fun x => x.1 != self)).map Prod.snd)
  let a := s.xchSend (runOwner c q) c done legs.1 id 0 16 bytes (mk true)
  let b := a.1.xchSend (runOwner c q) c done legs.2 id 0 16 bytes (mk false)
  b.1.stageCount c q (Key.xchBytesSent c) (a.2 + b.2)

/-- An issued BROADCAST sends its rows (R131). -/
def State.broadcastStart (s : State) (c : Fin 4) (q : Fin 8) : State :=
  match s.run c q with
  | none => s
  | some r =>
    match r.cmd.exchRec with
    | none => s
    | some e =>
      match s.exchDomain e.layer with
      | none => s
      | some (lr, cr, self) =>
        let y := s.hubAccess c q [s.wholeOf e.hs, s.wholeOf lr.tagHandle]
        if !y.2 then y.1.modRun c q (fun r => { r with xch := r.xch.map (fun x => { x with stage := 4 }) })
        else
          let s := y.1
          let n := s.rowsOf e.hs (hsFmt e.hsFormat) lr.dModel
          let done := match r.xch with | some x => x.done | none => []
          let s := s.modRun c q (fun r => { r with xch := r.xch.map (fun x => { x with stage := 3, expected := e.domainRows - n }) })
          s.forEach (List.range n) (fun s row => s.broadcastRow c q e lr cr self r.entry.command row done)

/-- BROADCAST (R131). -/
def execBroadcast (c : Fin 4) (q : Fin 8) (found : List (Nat × Finding)) (s : State) : Host.Outcome State Fault Refusal :=
  .next (
    let x := (s.tellFound c 3 found).issue c q (isExchange 1)
    if x.2 then ((x.1.exchangeInit c q).broadcastStart c q).drainFails else x.1)

/-! ### The landing table (R133, R134) -/

/-- Landed rows of a context and layer: broadcast rows, or rows of a DISPATCH. -/
def State.landings (s : State) (c layer : Nat) (bcast : Bool) : List Buf :=
  s.pools.bufs.filter (fun b => b.owner == ownerIndex c 0 && b.layer == layer && b.bcast == bcast && b.complete)

/-- Returned outputs of a context and layer. -/
def State.returns (s : State) (c layer : Nat) : List Buf :=
  s.pools.bufs.filter (fun b => b.owner == ownerIndex c 1 && b.layer == layer && b.complete)

/-- Candidate lists of a context, layer and token held in MERGE buffers: `kind` 0 a list on its way up, 1 one on its way down, 2
the list merged here. -/
def State.mergeBufs (s : State) (c layer : Nat) (id : TokId) (kind : Nat) : List Buf :=
  s.pools.bufs.filter (fun b => b.owner == ownerIndex c 2 && b.layer == layer && b.id == id && b.expert == kind && b.complete)

/-- The landed row of a token. -/
def State.rowBuf (s : State) (c layer : Nat) (id : TokId) : Option Buf :=
  s.pools.bufs.find? (fun b => b.owner == ownerIndex c 0 && b.layer == layer && b.id == id)

/-- The exchange reads a pool buffer; an uncorrectable word is a fault of the context (R160, R190). -/
def State.poolRead (s : State) (c : Fin 4) (b : Buf) : Option (List Byte) × State :=
  let x := s.readRange c 3 (s.bufAddr b) b.bytes
  match x.1.1 with
  | .ok => (some (x.2.memBytes (x.2.bufAddr b) b.bytes), x.2)
  | _ => (none, x.2.ctxFault c 0x10 b.tag.cmd 0x06 (Key.hbmUeCount (stackOfAddr x.1.2)) (x.1.2 / 4096))

/-- The exchange reads several pool buffers, up to the first that cannot be read. -/
def State.poolReads (s : State) (c : Fin 4) : List Buf → Option (List (List Byte)) × State
  | [] => (some [], s)
  | b :: t =>
    let x := s.poolRead c b
    match x.1 with
    | none => (none, x.2)
    | some row =>
      let y := State.poolReads x.2 c t
      (y.1.map (row :: ·), y.2)

/-- The candidates of the bytes of a list of merge records. -/
def candsOf (l : List Byte) : List Cand := readMerge (fun i => l.getD i 0) (l.length / 16)

/-- Bytes of the row of a token the module serves: the landed one, or its own row (R130, R133, log 38). -/
def State.servedRow (s : State) (c : Fin 4) (layer : Nat) (id : TokId) : List Byte :=
  match s.rowBuf c layer id with
  | some b => s.memBytes (s.bufAddr b) b.bytes
  | none =>
    match s.dispatchRec layer, s.layerRec layer with
    | some e, some lr => s.rowAt e.hs c (hsFmt e.hsFormat) lr.dModel id.2.2
    | _, _ => []

/-- Tokens of an expert that the module serves, in ascending key: the landing list (R133). -/
def State.landingList (s : State) (c : Fin 4) (layer self expert : Nat) : List TokId :=
  let descs := ((s.ctx c).xeQueue.filter (fun d => d.layer == layer && d.holder == self && d.expert == expert)).map Descriptor.id
  let rows := ((s.landings c layer false).filter (fun b => b.experts.contains expert)).map Buf.id
  sortBy tokIdBefore (dedup (descs ++ rows))

/-- Experts the module serves, ascending (R136). -/
def State.servedExperts (s : State) (c : Fin 4) (layer self : Nat) : List Nat :=
  let descs := ((s.ctx c).xeQueue.filter (fun d => d.layer == layer && d.holder == self)).map Descriptor.expert
  let rows := (s.landings c layer false).flatMap Buf.experts
  sortBy (fun a b => decide (a ≤ b)) (dedup (descs ++ rows))

/-- Groups of a served-expert replay: at most 16 tokens each (R136). -/
def State.servedGroups (s : State) (c : Fin 4) (layer self : Nat) : List ServedGroup :=
  (s.servedExperts c layer self).flatMap (fun e =>
    let l := s.landingList c layer self e
    (chunks 16 (l.length + 1) l).map (fun g => ⟨e, g⟩))

/-! ### Landing (R133 to R135, R143, R153, R194, R198, R200) -/

/-- The delivery of a tag, key and kind has already landed in full. -/
def State.hasLanded (s : State) (c : Fin 4) (tag : DelivTag) (key kind : Nat) : Bool := (s.ctx c).landed.contains (tag, key, kind)

/-- Kind of the delivery a buffer takes; a list merged here is none. -/
def Buf.kind (b : Buf) : Option Nat :=
  if b.owner % 8 = 0 then some 0
  else if b.owner % 8 = 1 then some (3 + 4 * b.expert)
  else if b.expert = 0 then some 1 else if b.expert = 1 then some 2 else none

/-- Two buffers take the same delivery. -/
def Buf.same (a b : Buf) : Bool := a.owner == b.owner && a.tag == b.tag && a.key == b.key && a.expert == b.expert

/-- Pieces of a delivery are written to its buffer; its flits give their ingress credits back, and with its last byte it has
landed (R133, R135, R200). -/
def State.poolFill (s : State) (c : Fin 4) (b : Buf) (pieces : List (Nat × List Byte)) : State :=
  let s := s.forEach pieces (fun s p => (s.chanWrite c 3 (s.bufAddr b + p.1) p.2).poolMark b p.1 p.2.length)
  match b.kind with
  | none => s
  | some kind =>
    let s := s.freeKept b.tag b.key kind
    if s.pools.bufs.any (fun x => x.pool == b.pool && x.index == b.index && x.complete) then
      s.modCtx c (fun x => { x with landed := (b.tag, b.key, kind) :: x.landed })
    else s

/-- A piece of a delivery lands: in the buffer it has, beside the pieces that wait for one, or in one asked for now. A piece that
waits keeps its ingress credits (R133, R135, R194, R196). -/
def State.land (s : State) (c : Fin 4) (b : Buf) (port first : Nat) (data : List Byte) : State :=
  match s.pools.bufs.find? b.same with
  | some y => if y.got.any (fun g => g.1 == first) then s.poolFill c y [] else s.poolFill c y [(first, data)]
  | none =>
    if s.pools.waits.any (fun w => b.same w.buf) then
      s.modPools (fun x => { x with waits := x.waits.map (fun w =>
        if b.same w.buf && !w.pieces.any (fun p => p.1 == first) then { w with pieces := w.pieces ++ [(first, data)] } else w) })
    else
      let g := s.poolRequest b port [(first, data)]
      match g.1 with
      | some y => g.2.poolFill c y [(first, data)]
      | none => g.2

/-- A delivery is discarded: its flits give their ingress credits back; `counted`, it counts once, with its first byte (R143). -/
def State.discardLanding (s : State) (c : Nat) (tag : DelivTag) (key kind layer first : Nat) (counted : Bool) : State :=
  let s := s.freeKept tag key kind
  match ctxIndex? c with
  | some c => if counted && first == 0 then s.xchCount c layer (Key.xchDupDropped c) 1 else s
  | none => s

/-! ### The candidate merge (R110, R132) -/

/-- The crew member at a coordinate. -/
def State.memberAt (s : State) (cr : Crew) (coord : Nat) : Option Nat :=
  ((s.crewAddrs cr).find? (fun x => x.2.aux == 0 && x.2.coord == coord)).map Prod.fst

/-- Members at which the list of a member merges on its way to the origin `o`: in its own tray in the origin's slot, where the X leg
has come to the origin's X, and at the origin (R132, log 129). -/
def State.mergePath (s : State) (cr : Crew) (m o : Nat) : List Nat :=
  match s.memberAddr cr m, s.memberAddr cr o with
  | some a, some b =>
    let slot := a.coord / 8 * 8 + coordS b.coord
    let x := slot / 128 * 128 + coordX b.coord * 8 + coordS b.coord
    (s.memberAt cr slot).toList ++ (s.memberAt cr x).toList ++ [o]
  | _, _ => [o]

/-- Member to which a member sends a token's list: the next point of its path. -/
def State.mergeNext (s : State) (cr : Crew) (m o : Nat) : Option Nat :=
  if m = o then none else (s.mergePath cr m o).find? (fun x => x != m)

/-- Members whose lists meet at member `m` for a token of origin `o`, `m` apart. -/
def State.mergeFrom (s : State) (cr : Crew) (m o : Nat) : List Nat :=
  (List.range cr.members.length).filter (fun x => x != m && s.mergeNext cr x o == some m)

/-- Send a candidate list to members. -/
def State.sendList (s : State) (c : Fin 4) (q : Fin 8) (e : ExchRec) (cr : Crew) (cmd self : Nat) (id : TokId) (down : Bool)
    (ms : List Nat) (l : List Byte) (done : List (Nat × Nat)) : State :=
  let tag := s.tagFor c cmd self id.2.1 id.2.2
  let x := s.xchSend (runOwner c q) c done (ms.map (s.addrTo cr)) id (if down then 2 else 1) 0 l
    (fun _ _ => .mergeList tag e.layer id.1 down (candsOf l))
  x.1.stageCount c q (Key.xchBytesSent c) x.2

/-- Release buffers (R198). -/
def State.dropBufs (s : State) (l : List Buf) : State := s.forEach l (fun s b => (s.poolDrop b.pool b.index 1).2)

/-- A step of the merge already made by this attempt. -/
def mergeMark (id : TokId) (kind : Nat) : Nat × Nat × Nat := (2 ^ 40 + kind, pieceId id 0 0, 0)

/-- Candidates of a token once they are known here. -/
def State.setCands (s : State) (c : Fin 4) (q : Fin 8) (id : TokId) (l : List Cand) : State :=
  s.modRun c q (fun r => { r with xch := r.xch.map (fun x =>
    { x with tokens := x.tokens.map (fun y => if y.id = id then { y with cands := l } else y) }) })

/-- A token's list is ready at this member: sent on, and at the origin it is the merged list of every member (R132). `bufs` are the
buffers released once it has been sent down. -/
def State.listReady (s : State) (c : Fin 4) (q : Fin 8) (e : ExchRec) (cr : Crew) (self cmd : Nat) (id : TokId) (l : List Byte)
    (done : List (Nat × Nat)) : State :=
  match s.mergeNext cr self id.2.1 with
  | some m => s.sendList c q e cr cmd self id false [m] l done
  | none =>
    let others := (List.range cr.members.length).filter (· != self)
    (s.sendList c q e cr cmd self id true others l done).setCands c q id (candsOf l)

/-- The MERGE buffer of the list merged here (R192). -/
def State.mergedBuf (s : State) (c : Fin 4) (layer cmd self n : Nat) (id : TokId) : Buf :=
  { pool := s.force (Key.ownerPool (ownerIndex c 2)), index := 0, owner := ownerIndex c 2, refs := 1, complete := false, layer := layer,
    origin := self, key := id.1, expert := 2, bytes := 16 * n, got := [], bcast := false, relay := false, experts := [],
    tag := s.tagFor c cmd self id.2.1 id.2.2 }

/-- Merge the lists that have come here for a token with the own one into a MERGE buffer of its own, and release them (R132,
R198). -/
def State.mergeHere (s : State) (c : Fin 4) (e : ExchRec) (self cmd n : Nat) (id : TokId) (bufs : List Buf) (own : List Cand) : State :=
  let y := s.poolReads c bufs
  match y.1 with
  | none => y.2
  | some rows =>
    let l := mergeBytes (topCands n (own ++ rows.flatMap candsOf))
    let s := y.2
    let b := s.mergedBuf c e.layer cmd self (l.length / 16) id
    let g := s.poolRequest b 16 [(0, l)]
    let s := match g.1 with
      | some z => g.2.poolFill c z [(0, l)]
      | none => g.2
    s.dropBufs bufs

/-- Work on the merge of one token: merge, send or take its lists (R132). A list merged here by an earlier attempt is found in its
buffer (R143, R200). -/
def State.mergeToken (s : State) (c : Fin 4) (q : Fin 8) (e : ExchRec) (lr : LayerRec) (cr : Crew) (self cmd : Nat) (t : Token)
    (own : List Cand) : State :=
  match s.run c q with
  | none => s
  | some r =>
    match r.crew, r.xch with
    | some k, some x =>
      if !t.cands.isEmpty then s
      else
        let o := t.origin
        let id := t.id
        let mark (s : State) := s.modRun c q (fun r => { r with crew := r.crew.map (fun k =>
          { k with sent := k.sent ++ [mergeMark id 0] }) })
        let need := s.mergeFrom cr self o
        let ups := (s.mergeBufs c e.layer id 0).filter (fun b => need.contains b.origin)
        let merged (s : State) := s.mergeBufs c e.layer id 2
        let waits := s.pools.waits.any (fun w => (s.mergedBuf c e.layer cmd self 0 id).same w.buf)
        let s := if !need.isEmpty && (merged s).isEmpty && !waits && need.all (fun m => ups.any (fun b => b.origin == m)) then
            s.mergeHere c e self cmd lr.listLen id ups own
          else s
        let s := if k.sent.contains (mergeMark id 0) then s
          else if need.isEmpty then mark (s.listReady c q e cr self cmd id (mergeBytes (topCands lr.listLen own)) x.done)
          else match (merged s).head? with
            | none => s
            | some b =>
              let y := s.poolRead c b
              match y.1 with
              | some l => mark (y.2.listReady c q e cr self cmd id l x.done)
              | none => y.2
        if self = o then s
        else match (s.mergeBufs c e.layer id 1).head? with
          | none => s
          | some b =>
            let y := s.poolRead c b
            match y.1 with
            | some l => (y.2.dropBufs (merged y.2)).setCands c q id (candsOf l)
            | none => y.2
    | _, _ => s

/-- Tokens of the domain under EXPERT_SHARDED gating, in the order of the candidate tensor: ascending key. -/
def State.domainTokens (s : State) (c : Fin 4) (e : ExchRec) (lr : LayerRec) (self : Nat) : List Token :=
  let n := s.rowsOf e.hs (hsFmt e.hsFormat) lr.dModel
  let mk (o row key : Nat) : Token := { row := row, key := key, origin := o, cands := [], kept := [], overs := [], next := 0, skipped := false }
  let own := (List.range n).map (fun r => mk self r (s.tokenKey lr c r))
  let far := if lr.gating = 1 then (s.landings c e.layer true).map (fun b => mk b.tag.origin b.tag.row b.key) else []
  sortBy (fun a b => tokIdBefore a.id b.id) (own ++ far)

/-! ### Admission over the domain (R113 to R119) -/

/-- Change the progress of an EXCHANGE. -/
def State.modXch (s : State) (c : Fin 4) (q : Fin 8) (f : XchRun → XchRun) : State :=
  s.modRun c q (fun r => { r with xch := r.xch.map f })

/-- Enter a round of the count exchange with this member's scan value (R275, R278). -/
def State.enterRound (s : State) (c : Fin 4) (q : Fin 8) (lr : LayerRec) (cr : Crew) (self round : Nat) (v : ScanVal) : State :=
  match s.run c q with
  | none => s
  | some r =>
    match r.crew with
    | none => s
    | some k =>
      let k := { k with round := round, sig := countSignature lr.experts, entrySince := s.now, stroke := 0, progress := 0 }
      let s := s.modXch c q (fun x => { x with round := round, vals := x.vals ++ [v] })
      let s := s.sendEnters (runOwner c q) c r.cmd.target cr opCount true 0 self k
      let h := s.takeHeld r.cmd.target k
      let s := h.1.modRun c q (fun r => { r with crew := some h.2.1 })
      if h.2.2 then s.originateAbort c q 0x24 else s

/-- Scan value of a member's requests; the first round carries keys (R278). -/
def scanOf (experts : Nat) (es : List Nat) (keys : List Nat) : ScanVal :=
  ⟨expertCounts experts es, keys.foldl max 0, !keys.isEmpty⟩

/-- Own tokens of the domain's list. -/
def ownTokens (self : Nat) (l : List Token) : List Token := l.filter (fun t => t.origin == self)

/-- Requests of this member's own tokens. -/
def ownRequests (self : Nat) (toks : List Token) (reqs : List Request) : List Request :=
  reqs.filter (fun q => match toks[q.1]? with | some t => t.origin == self | none => false)

/-- Position of a request: the expert's prefix plus earlier requests of the same member; under EXPERT_SHARDED gating every
member holds every request and counts them itself (R113, R132). -/
def requestPos (sharded : Bool) (pre : List Nat) (reqs : List Request) (q : Request) : Nat :=
  (if sharded then 0 else pre.getD q.2.1 0) + localPos reqs q

/-- The room of an expert. -/
def roomAt (l : List Nat) (e : Nat) : Nat := l.getD e 0

/-- Admitted experts, one entry a pair. -/
def admittedExperts (toks : List Token) : List Nat := toks.flatMap (fun t => t.kept.filterMap (fun k => t.expertAt k.1))

/-- Tokens in ascending key. -/
def byKey (l : List Token) : List Token := sortBy (fun a b => tokIdBefore a.id b.id) l

/-- Descriptors, weights and sends once admission is settled (R120, R129, R130, R134, R137). -/
def State.dispatchBuild (s : State) (c : Fin 4) (q : Fin 8) (e : ExchRec) (lr : LayerRec) (cr : Crew) (self : Nat) : State :=
  match s.run c q with
  | none => s
  | some r =>
    match r.xch with
    | none => s
    | some x =>
      let sharded := lr.gating == 1
      let adm := if sharded then expertCounts lr.experts (admittedExperts x.tokens) else x.adm
      let served := (List.range lr.experts).filter (fun i => decide (0 < adm.getD i 0))
      let serve := s.assignServe lr self served []
      let anchor := s.anchorOf lr.logit
      let own := byKey (ownTokens self x.tokens)
      let weights (t : Token) := tokenWeights anchor lr t
      let sat := own.foldl (fun a t => a.add (weights t).2) Sat.zero
      let mode := s.effMode r.cmd lr.logit
      let s := s.modRun c q (fun r => r.addSat mode sat)
      let ownDescs := own.flatMap (fun t => tokenDescriptors lr serve t (weights t).1)
      let farDescs := if sharded then
          ((byKey (x.tokens.filter (fun t => t.origin != self))).flatMap (fun t => tokenDescriptors lr serve t (weights t).1)).filter
            (fun d => d.holder == self)
        else []
      let s := s.modCtx c (fun y => { y with xeQueue := y.xeQueue.filter (fun d => d.layer != lr.layer) ++ ownDescs ++ farDescs })
      let mine := (serve.filter (fun v => v.member == self)).map Serve.expert
      let localPairs := (ownDescs.filter (fun d => d.holder == self)).length
      let expected := if sharded then 0 else (mine.map (fun i => adm.getD i 0)).foldl (· + ·) 0 - localPairs
      let s := s.modXch c q (fun y => { y with
        stage := 3, adm := adm, expected := expected, serve := serve.map (fun v => (v.expert, v.member, v.replica, v.cold)) })
      let s := (s.stageCount c q (Key.routeTokens c) own.length).stageCount c q (Key.routeChoicesAdmitted c)
        ((own.map (fun t => t.kept.length)).foldl (· + ·) 0)
      let s := (s.stageCount c q (Key.xchPairsDispatched c) ownDescs.length).stageCount c q (Key.xchPairsLocal c) localPairs
      let s := s.stageCount c q (Key.xchReplicaServed c) ((serve.filter (fun v => v.member == self && v.replica)).length)
      if sharded then s
      else
        let f := hsFmt e.hsFormat
        s.forEach own (fun s t =>
          let tag := s.tagFor c r.entry.command self self t.row
          let ds := ownDescs.filter (fun d => d.id == t.id)
          let holders := (dedup (ds.map Descriptor.holder)).filter (· != self)
          let bytes := s.rowAt e.hs c f lr.dModel t.row
          let y := s.xchSend (runOwner c q) c x.done (holders.map (s.addrTo cr)) t.id 0 16 bytes
            (fun first b => .landing tag lr.layer t.key (ds.map (fun d => (d.expert, d.holder))) false first bytes.length b)
          y.1.stageCount c q (Key.xchBytesSent c) y.2)

/-- Primary choices of a token that DEFER moves or drops (R139). -/
def State.deferredOf (s : State) (c : Fin 4) (lr : LayerRec) (t : Token) : Nat :=
  ((List.range lr.k).filter (fun i => match t.expertAt (i + 1) with
    | some ex => s.deferrable c lr.layer ex
    | none => false)).length

/-- After the last ledger round: dropped choices are counted, in SKIP mode those that DEFER dropped (R139, log 96); TOKEN_LOCAL members that cannot know the admitted counts from
the rounds make one more count exchange (R134, log 35). -/
def State.admissionDone (s : State) (c : Fin 4) (q : Fin 8) (e : ExchRec) (lr : LayerRec) (cr : Crew) (self : Nat)
    (skip : Bool) : State :=
  match s.run c q with
  | none => s
  | some r =>
    match r.xch with
    | none => s
    | some x =>
      let own := ownTokens self x.tokens
      let dropped := if skip then (own.map (s.deferredOf c lr)).foldl (· + ·) 0 else (own.map (fun t => t.overs.length)).foldl (· + ·) 0
      let s := s.stageCount c q (Key.routeChoicesDropped c) dropped
      if lr.gating = 0 ∧ (lr.capacity = 0 ∨ skip) then
        let s := s.modXch c q (fun x => { x with stage := 2 })
        s.enterRound c q lr cr self (x.round + 1) (scanOf lr.experts (admittedExperts own) [])
      else s.dispatchBuild c q e lr cr self

/-- Begin the next repechage round, or end admission when no expert has room (R117); a round in which no member requests
anything ends it too, in roundDone (log 39). -/
def State.nextRound (s : State) (c : Fin 4) (q : Fin 8) (e : ExchRec) (lr : LayerRec) (cr : Crew) (self : Nat) : State :=
  match s.run c q with
  | none => s
  | some r =>
    match r.xch with
    | none => s
    | some x =>
      if x.room.all (· == 0) then s.admissionDone c q e lr cr self false
      else
        let has (i : Nat) := decide (0 < roomAt x.room i) && !s.deferrable c lr.layer i
        let n := nextRequests lr.listLen has x.tokens
        let s := s.modXch c q (fun x => { x with tokens := n.1, requests := n.2 })
        s.enterRound c q lr cr self (x.round + 1)
          (scanOf lr.experts ((ownRequests self n.1 n.2).map (fun y => y.2.1)) [])

/-- Resolved capacity mode of a layer: 1 REPECHAGE, 2 SKIP, 3 unlimited (R116). -/
def State.capMode (s : State) (layer : Nat) : Nat :=
  match s.image with
  | none => 0
  | some im => match im.layers.findIdx? (fun l => l.layer == layer) with
    | some i => s.reg (Key.capModeResolved i)
    | none => 0

/-- The candidate lists are complete: admission begins (R117, R139). -/
def State.startAdmission (s : State) (c : Fin 4) (q : Fin 8) (e : ExchRec) (lr : LayerRec) (cr : Crew) (self : Nat) : State :=
  match s.run c q with
  | none => s
  | some r =>
    match r.xch with
    | none => s
    | some x =>
      let toks := sortBy tokenBefore x.tokens
      let own := ownTokens self toks
      let s := s.stageCount c q (Key.xchDeferred c) ((own.map (s.deferredOf c lr)).foldl (· + ·) 0)
      if lr.capacity = 0 then
        let toks := toks.map (fun t => t.admitAll lr.k lr.listLen (s.deferrable c lr.layer))
        (s.modXch c q (fun x => { x with tokens := toks, stage := 1 })).admissionDone c q e lr cr self false
      else
        let s := s.stageCount c q (Key.routeDupKeyCount c) (dupKeys (own.map Token.key))
        let f := firstRequests lr.k (s.deferrable c lr.layer) toks
        let s := s.modXch c q (fun x => { x with tokens := f.1, requests := f.2, stage := 1 })
        s.enterRound c q lr cr self 1 (scanOf lr.experts ((ownRequests self f.1 f.2).map (fun y => y.2.1)) (own.map Token.key))

/-- A ledger round has returned prefix and total (R113, R114, R117 to R119). -/
def State.roundDone (s : State) (c : Fin 4) (q : Fin 8) (e : ExchRec) (lr : LayerRec) (cr : Crew) (self : Nat)
    (pre tot : ScanVal) : State :=
  match s.run c q with
  | none => s
  | some r =>
    match r.xch with
    | none => s
    | some x =>
      if x.stage = 2 then (s.modXch c q (fun x => { x with adm := tot.counts })).dispatchBuild c q e lr cr self
      else
        let sharded := lr.gating == 1
        let s := s.stageCount c q (Key.ledgerRounds c) 1
        let pos := requestPos sharded pre.counts x.requests
        let own := ownTokens self x.tokens
        if x.round = 1 then
          let s := match own.head? with
            | some t =>
              let low := own.foldl (fun (m : Nat) (y : Token) => min m y.key) t.key
              if pre.hasTok ∧ low ≤ pre.key then
                (s.log sevWarning c 0x04 r.entry.command (Key.ledgerOrderCount c) (low % 2 ^ 32)).stageCount c q (Key.ledgerOrderCount c) 1
              else s
            | none => s
          let toks := settleFirst lr.capacity pos x.requests x.tokens
          if s.capMode lr.layer = 2 then
            let mine := ownTokens self toks
            let s := (s.stageCount c q (Key.routeSlotsStranded c) ((mine.map Token.stranded).foldl (· + ·) 0)).stageCount c q
              (Key.routeTokensSkipped c) ((mine.filter (fun (t : Token) => !t.overs.isEmpty)).length)
            (s.modXch c q (fun x => { x with tokens := toks.map Token.skip })).admissionDone c q e lr cr self true
          else
            let s := s.modXch c q (fun x => { x with
              tokens := toks
              room := (List.range lr.experts).map (fun i => lr.capacity - min lr.capacity (tot.counts.getD i 0))
              adm := (List.range lr.experts).map (fun i => min lr.capacity (tot.counts.getD i 0)) })
            s.nextRound c q e lr cr self
        else if tot.counts.all (· == 0) then s.admissionDone c q e lr cr self false
        else
          let room := roomAt x.room
          let toks := settleNext room pos x.requests x.tokens
          let s := s.stageCount c q (Key.routeChoicesRepechaged c) (admittedNext room pos (ownRequests self x.tokens x.requests))
          let s := s.modXch c q (fun x => { x with
            tokens := toks
            adm := (List.range lr.experts).map (fun i => x.adm.getD i 0 + min (room i) (tot.counts.getD i 0))
            room := (List.range lr.experts).map (fun i => room i - min (room i) (tot.counts.getD i 0)) })
          s.nextRound c q e lr cr self

/-- Let a DISPATCH go as far as what has arrived allows; `fuel` bounds the stages. -/
def State.dispatchPump (s : State) (c : Fin 4) (q : Fin 8) : Nat → State
  | 0 => s
  | fuel + 1 =>
    match s.run c q with
    | none => s
    | some r =>
      match r.cmd.exchRec, r.xch, r.crew with
      | some e, some x, some k =>
        if e.role ≠ 2 ∨ r.phase ≠ .running then s
        else match s.exchDomain e.layer with
          | none => s
          | some (lr, cr, self) =>
            if x.stage = 0 then
              let order := byKey x.tokens
              let rd (i : Nat) := s.objByte (r.cmd.inputs.getD 0 none32) c i
              let s := s.forEach (indexed order) (fun s y =>
                s.mergeToken c q e lr cr self r.entry.command y.2 (readCandRow lr.listLen rd y.1))
              match s.run c q with
              | some r' => match r'.xch with
                | some x' =>
                  if x'.tokens.all (fun t => !t.cands.isEmpty) then
                    State.dispatchPump (s.startAdmission c q e lr cr self) c q fuel
                  else s
                | none => s
              | none => s
            else if x.stage = 1 ∨ x.stage = 2 then
              match x.vals.getLast? with
              | none => s
              | some v =>
                let p := s.pumpScan (runOwner c q) c r.cmd.target cr self lr.experts k v
                let s := p.1.modRun c q (fun r => { r with crew := some p.2 })
                let sc := countScan cr self lr.experts p.2.scans p.2.round v
                match sc.1, sc.2.1 with
                | some pre, some tot =>
                  let all := sc.2.2.all (fun y => p.2.sent.contains ((p.2.round * 8 + y.stage) * 65536 + y.num, y.dst, 0))
                  if all then State.dispatchPump (s.roundDone c q e lr cr self pre tot) c q fuel else s
                | _, _ => s
            else s
      | _, _, _ => s

/-- Rounds and stages of a DISPATCH are at most this many. -/
abbrev pumpFuel : Nat := 12

/-- An issued DISPATCH (R117, R128 to R130, R137): candidate lists, tokens, and as far as it can go at once. -/
def State.dispatchStart (s : State) (c : Fin 4) (q : Fin 8) : State :=
  match s.run c q with
  | none => s
  | some r =>
    match r.cmd.exchRec with
    | none => s
    | some e =>
      match s.exchDomain e.layer with
      | none => s
      | some (lr, _, self) =>
        let x := s.hubAccess c q (([r.cmd.inputs.getD 0 none32, lr.tagHandle] ++ (if lr.gating = 0 then [e.hs] else [])).map s.wholeOf)
        if !x.2 then x.1.modXch c q (fun y => { y with stage := 4 })
        else
          let s := x.1
          let toks := s.domainTokens c e lr self
          let rd (i : Nat) := s.objByte (r.cmd.inputs.getD 0 none32) c i
          let toks := if lr.gating = 1 then toks
            else toks.map (fun t => { t with cands := readCandRow lr.listLen rd t.row })
          let s := s.modXch c q (fun y => { y with stage := 0, tokens := toks })
          s.dispatchPump c q pumpFuel

/-- Every EXCHANGE of a context is looked at again after something arrived; one held for a decode starts (R160). -/
def State.exchangePump (s : State) (c : Fin 4) : State :=
  (s.forEach allQueues (fun s q =>
    match s.run c q with
    | some r => match r.xch with
      | some x =>
        if x.stage = 4 ∧ r.phase = .running then
          (if x.rec_.role = 1 then s.broadcastStart c q else s.dispatchStart c q)
        else s.dispatchPump c q pumpFuel
      | none => s
    | none => s)).drainFails

/-- The DISPATCH of a layer has begun in the step: hints for the layer come too late from here on (R122). -/
def State.dispatchBegins (s : State) (c : Fin 4) (q : Fin 8) : State :=
  match (s.run c q).bind (fun r => r.cmd.exchRec) with
  | some e => s.modCtx c (fun x => { x with begun := dedup (x.begun ++ [e.layer]) })
  | none => s

/-- DISPATCH (R128). -/
def execDispatch (c : Fin 4) (q : Fin 8) (found : List (Nat × Finding)) (s : State) : Host.Outcome State Fault Refusal :=
  .next (
    let x := (s.tellFound c 3 found).issue c q (isExchange 2)
    if x.2 then (((x.1.exchangeInit c q).dispatchBegins c q).dispatchStart c q).drainFails else x.1)

/-! ### Rows that arrive (R131, R133, R141, R194) -/

/-- Forward rows that have landed at a relay to the crew members of its tray (R131). -/
def State.relayPump (s : State) (c : Fin 4) : State :=
  s.forEach (s.pools.bufs.filter (fun b => b.relay && b.complete && b.owner == ownerIndex c 0)) (fun s b =>
    match s.exchDomain b.layer with
    | none => s
    | some (_, cr, self) =>
      match s.memberAddr cr self with
      | none => s
      | some me =>
        let to_ := ((s.crewAddrs cr).filter (fun x => x.1 != self && x.1 != b.origin && trayOf x.2 == trayOf me)).map Prod.snd
        let s := s.modPools (fun p => { p with bufs := p.bufs.map (fun z =>
          if z.pool = b.pool ∧ z.index = b.index then { z with relay := false } else z) })
        let x := s.poolRead c b
        match x.1 with
        | none => x.2
        | some bytes =>
          let y := x.2.xchSend (.exchange c b.layer) c [] to_ b.id 0 16 bytes
            (fun first d => .landing b.tag b.layer b.key [] false first bytes.length d)
          y.1.xchCount c b.layer (Key.xchBytesSent c) y.2)

/-- The record of the EXCHANGE a delivery belongs to. -/
def State.tagRec (s : State) (tag : DelivTag) : Option ExchRec :=
  match s.command? tag.cmd with
  | some cmd => cmd.exchRec
  | none => none

/-- The buffer a hidden-state row lands in (R133, R192). -/
def landingBuf (e : ExchRec) (c : Nat) (tag : DelivTag) (layer key : Nat) (experts : List Nat) (relay : Bool) (total : Nat) : Buf :=
  { pool := e.pool, index := 0, owner := ownerIndex c 0, refs := if e.role = 1 then 1 else experts.length, complete := false,
    layer := layer, origin := tag.origin, key := key, expert := 0, bytes := total, got := [], bcast := e.role == 1, relay := relay,
    experts := experts, tag := tag }

/-- LANDING (R133): a piece of a row has arrived, from byte `first` of `total`; `experts` are those of its pairs that this module
serves (log 37). -/
def execLanding (port : Fin 16) (tag : DelivTag) (layer key : Nat) (experts : List Nat) (relay : Bool) (first total : Nat)
    (row : List Byte) (s : State) : Host.Outcome State Fault Refusal :=
  .next (
    match ctxIndex? tag.ctx with
    | none => s.discardLanding tag.ctx tag key 0 layer first false
    | some c =>
      if !s.holds c then s.discardLanding c tag key 0 layer first false
      else if s.hasLanded c tag key 0 then s.discardLanding c tag key 0 layer first true
      else match s.tagRec tag with
        | none => s.discardLanding c tag key 0 layer first false
        | some e =>
          if e.role ≠ 1 ∧ experts.isEmpty then
            let s := s.discardLanding c tag key 0 layer first false
            if first = 0 then s.log sevWarning c 0x08 tag.cmd (Key.xchDupDropped c) (key % 2 ^ 32) else s
          else ((s.land c (landingBuf e c tag layer key experts relay total) port first row).relayPump c).exchangePump c)

/-- POOL_WAIT_GRANT (R194): the head of a pool's wait queue is tested again; a landing granted gives its ingress credits
back and goes on. -/
def execPoolWaitGrant (pool : Fin 16) (s : State) : Host.Outcome State Fault Refusal :=
  .next (
    let g := s.poolTestHead pool
    match g.1 with
    | none => g.2
    | some (w, b) =>
      match ctxIndex? (w.owner / 8) with
      | none => g.2
      | some c =>
        let s := (g.2.poolFill c b w.pieces).xchCount c b.layer (Key.xchPoolStallTicks c) (s.now - w.since)
        (s.relayPump c).exchangePump c)

/-- The MERGE buffer of a candidate list that arrives (R132, R192). -/
def State.listBuf (s : State) (c : Nat) (tag : DelivTag) (layer key : Nat) (down : Bool) (n : Nat) : Buf :=
  { pool := s.force (Key.ownerPool (ownerIndex c 2)), index := 0, owner := ownerIndex c 2, refs := 1, complete := false,
    layer := layer, origin := tag.sender, key := key, expert := if down then 1 else 0, bytes := 16 * n, got := [], bcast := false,
    relay := false, experts := [], tag := tag }

/-- MERGE_LIST (R132): a list of merge records arrives. -/
def execMergeList (tag : DelivTag) (layer key : Nat) (down : Bool) (cands : List Cand) (s : State) :
    Host.Outcome State Fault Refusal :=
  .next (
    let kind := if down then 2 else 1
    match ctxIndex? tag.ctx with
    | none => s.discardLanding tag.ctx tag key kind layer 0 false
    | some c =>
      if !s.holds c then s.discardLanding c tag key kind layer 0 false
      else if s.hasLanded c tag key kind then s.discardLanding c tag key kind layer 0 true
      else (s.land c (s.listBuf c tag layer key down cands.length) 16 0 (mergeBytes cands)).exchangePump c)

/-- The buffer a returned output lands in (R141, R192). -/
def returnBuf (e : ExchRec) (c : Nat) (tag : DelivTag) (layer key expert total : Nat) : Buf :=
  { pool := e.pool, index := 0, owner := ownerIndex c 1, refs := 1, complete := false, layer := layer, origin := tag.sender, key := key,
    expert := expert, bytes := total, got := [], bcast := false, relay := false, experts := [], tag := tag }

/-- A return has a descriptor: of its key and expert, which this member built as origin for the token of its tag (R141). -/
def State.returnMatches (s : State) (c : Fin 4) (tag : DelivTag) (layer key expert : Nat) : Bool :=
  let self := match s.exchDomain layer with | some d => d.2.2 | none => none32
  (s.ctx c).xeQueue.any (fun d => d.layer == layer && d.id == (key, tag.origin, tag.row) && d.expert == expert && d.origin == self)

/-- RETURN_ARRIVAL (R141): a piece of an expert output returns; without a descriptor it is discarded. -/
def execReturnArrival (port : Fin 16) (tag : DelivTag) (layer key expert first total : Nat) (row : List Byte) (s : State) :
    Host.Outcome State Fault Refusal :=
  .next (
    let kind := 3 + 4 * expert
    match ctxIndex? tag.ctx with
    | none => s.discardLanding tag.ctx tag key kind layer first false
    | some c =>
      if !s.holds c then s.discardLanding c tag key kind layer first false
      else if s.hasLanded c tag key kind ∨ !s.returnMatches c tag layer key expert then s.discardLanding c tag key kind layer first true
      else match s.combineRec layer with
        | none => s.discardLanding c tag key kind layer first false
        | some (_, e) => s.land c (returnBuf e c tag layer key expert total) port first row)

/-! ### COMBINE (R140, R141) -/

/-- COMBINE (R140): it issues; the sum is formed once every output has landed. -/
def execCombine (c : Fin 4) (q : Fin 8) (found : List (Nat × Finding)) (s : State) : Host.Outcome State Fault Refusal :=
  .next (
    let x := (s.tellFound c 3 found).issue c q (isExchange 3)
    if x.2 then x.1.exchangeInit c q else x.1)

/-- Descriptors a member built as origin for a layer. -/
def State.ownDescriptors (s : State) (c : Fin 4) (layer self : Nat) : List Descriptor :=
  (s.ctx c).xeQueue.filter (fun d => d.layer == layer && d.origin == self)

/-- Place of a pair among the output rows of this holder: served experts ascending, tokens in landing order (log 41). -/
def outputIndex (groups : List ServedGroup) (expert : Nat) (id : TokId) : Nat :=
  (groups.flatMap (fun g => g.keys.map (fun k => (g.expert, k)))).findIdx (fun x => x == (expert, id))

/-- The pairs of a layer whose outputs this holder's expert run has committed. -/
def Ctx.servedOf (x : Ctx) (layer : Nat) : List ServedGroup := (assoc x.served layer).getD []

/-- The returned output of a descriptor. -/
def State.returnOf (s : State) (c : Fin 4) (layer : Nat) (d : Descriptor) : Option Buf :=
  (s.returns c layer).find? (fun b => b.id == d.id && b.expert == d.expert)

/-- The output of a descriptor: the returned row, or this module's own output row when it is the holder. -/
def State.outputRow (s : State) (c : Fin 4) (e : ExchRec) (lr : LayerRec) (self : Nat) (d : Descriptor) : Option (List Byte) :=
  if d.holder = self then
    some (s.rowAt e.hs c (hsFmt e.hsFormat) lr.dModel (outputIndex ((s.ctx c).servedOf lr.layer) d.expert d.id))
  else (s.returnOf c lr.layer d).map (fun b => s.memBytes (s.bufAddr b) b.bytes)

/-- Elements of a row. -/
def rowVals (f : Fmt) (d : Nat) (row : List Byte) : List FVal := (List.range d).map (fun i => f.load (fun o => row.getD o 0) i)

/-- A row's accumulators: weighted outputs, residual, shared partials (R140); `terms` are (weight, row). -/
def combineRow (anchor : Int) (d : Nat) (terms : List (FVal × List FVal)) (residual : List FVal) (shared : List Elem) :
    List Acc × Sat :=
  let r := (List.range d).map (fun i =>
    let a := Acc.zero.enterAll anchor (terms.map (fun t => t.1.mul (t.2.getD i (.fin false 0 0))) ++
      (match residual[i]? with | some v => [v] | none => []))
    let b := match shared[i]? with
      | some x => a.1.merge x.widen
      | none => a.1
    (b, a.2))
  (r.map Prod.fst, (r.map Prod.snd).foldl Sat.add Sat.zero)

/-- The bytes of every output row of a COMBINE, with their counts (R140, log 38). -/
def State.combineOut (s : State) (c : Fin 4) (e : ExchRec) (lr : LayerRec) (self : Nat) : List Byte × Sat :=
  let f := hsFmt e.hsFormat
  let d := lr.dModel
  let anchor := s.anchorOf e.out
  let descs := s.ownDescriptors c lr.layer self
  let rows := (List.range (s.rowsOf e.out f d)).map (fun r =>
    let terms := (descs.filter (fun x => x.row == r)).filterMap (fun x =>
      (s.outputRow c e lr self x).map (fun row => (Fmt.fp32.decode x.weight, rowVals f d row)))
    let residual := if e.residual = none32 then [] else rowVals f d (s.rowAt e.residual c f d r)
    let shared := if e.shared = none32 then [] else (List.range d).map (fun i =>
      (⟨toSigned 64 (leNat (s.objBytes e.shared c (8 * (r * d + i)) 8)), 0⟩ : Elem))
    let x := combineRow anchor d terms residual shared
    let y := leaveAll x.1 anchor f
    (y.1, x.2.add y.2))
  ((rows.map Prod.fst).flatten, (rows.map Prod.snd).foldl Sat.add Sat.zero)

/-! ### Completion and commit of an EXCHANGE (R134, R141, R198) -/

/-- Token rows of a layer's whole routing domain, as its BROADCAST states them (R127). -/
def State.domainRows (s : State) (layer : Nat) : Option Nat :=
  match s.image with
  | none => none
  | some im => im.commands.findSome? (fun x => match x.exchRec with
      | some r => if r.role = 1 ∧ r.layer = layer then some r.domainRows else none
      | none => none)

/-- Under EXPERT_SHARDED gating a DISPATCH completes only over every token row of the domain: without the BROADCAST that lands
them it stays incomplete (R128, R134). -/
def State.domainWhole (s : State) (layer : Nat) (x : XchRun) : Bool :=
  match s.layerRec layer with
  | some lr => lr.gating == 0 || s.domainRows layer == some x.tokens.length
  | none => true

/-- An EXCHANGE is at its commit point: every expected landing complete, every delivery acknowledged (R134). -/
def State.exchangeReady (s : State) (c : Fin 4) (q : Fin 8) (r : Run) : Bool :=
  match r.cmd.exchRec, r.xch with
  | some e, some x =>
    !s.ownerBusy (runOwner c q) &&
    (match e.role with
     | 1 => x.stage == 3 && !s.ownerBusy (.exchange c e.layer) && decide (x.expected ≤ (s.landings c e.layer true).length)
     | 2 => x.stage == 3 && s.domainWhole e.layer x && decide (x.expected ≤ ((s.landings c e.layer false).map (fun b => b.experts.length)).foldl (· + ·) 0)
     | _ =>
       !s.ownerBusy (.exchange c e.layer) &&
       match s.exchDomain e.layer with
       | some (lr, _, self) => (s.ownDescriptors c e.layer self).all (fun d => if d.holder = self
           then ((s.ctx c).servedOf e.layer).any (fun g => g.expert == d.expert && g.keys.contains d.id)
           else (s.returnOf c lr.layer d).isSome)
       | none => true)
  | _, _ => false

/-- What a COMBINE reads from pool buffers when it forms its rows: an uncorrectable word there is a fault of the context (R160,
R190). Answers whether all can be read. -/
def State.returnsReadable (s : State) (c : Fin 4) (layer : Nat) : State × Bool :=
  let x := s.poolReads c (s.returns c layer)
  (x.2, x.1.isSome)

/-- Form a COMBINE's rows in its staged version, with their saturation counts (R140). -/
def State.combineStage (s : State) (c : Fin 4) (q : Fin 8) (e : ExchRec) : State :=
  match s.exchDomain e.layer, s.run c q, s.objRec e.out with
  | some (lr, _, self), some r, some o =>
    let x := s.combineOut c e lr self
    let mode := s.effMode r.cmd e.out
    let s := s.modRun c q (fun r => r.addSat mode x.2)
    match r.staged.find? (fun v => v.1 == e.out) with
    | some v => s.verWrite c 3 o v.2 0 x.1
    | none => s
  | _, _, _ => s

/-- Subtract one reference of each buffer listed at a commit, those of one buffer as one subtraction (R198); a double free tears the
context down (R199). Answers whether one was found. -/
def State.commitDrops (s : State) (l : List (Nat × Nat)) : State × Bool :=
  (dedup l).foldl (fun (r : State × Bool) x =>
    let d := r.1.poolDrop x.1 x.2 (l.filter (· == x)).length
    (d.2, r.2 || d.1)) (s, false)

/-- Send a mirror of the rows of a step (R142); the pass count its header carries is free (log 42). -/
def State.sendMirror (s : State) (c : Fin 4) (member layer step : Nat) (data : List Byte) : State :=
  match s.exchDomain layer with
  | none => s
  | some (lr, cr, _) =>
    let per := match s.combineRec layer with | some x => rowBytes (hsFmt x.2.hsFormat) lr.dModel | none => 0
    let rows := if per = 0 then 0 else data.length / per
    let fr := s.free 42
    let y := fr.2.xchSend (.mirror c) c [] [s.addrTo cr member] (0, 0, 0) 3 64 data
      (fun first d => .mirror c layer rows (step % 2 ^ 32) (fr.1 % 2 ^ 32) first data.length d)
    ((y.1.xchCount c layer (Key.xchBytesSent c) y.2).modCtx c (fun x => { x with mirrorBusy := true })).drainFails

/-- After a COMBINE's commit its rows go to the mirror partner: at most one mirror in flight, a newer one replacing the
pending one (R142). -/
def State.mirrorRows (s : State) (c : Fin 4) (e : ExchRec) (lr : LayerRec) : State :=
  if e.mirror = 0xFFFF then s
  else
    let f := hsFmt e.hsFormat
    let n := s.rowsOf e.out f lr.dModel
    let data := s.objBytes e.out c 0 (n * rowBytes f lr.dModel)
    if s.force (Key.mirrorSlotSize c) < 64 + data.length then
      s.log sevWarning c 0x05 none32 (Key.mirrorSlotSize c) (64 + data.length)
    else if (s.ctx c).mirrorBusy then s.modCtx c (fun x => { x with mirrorPending := some (e.mirror, e.layer, (s.ctx c).step, data) })
    else s.sendMirror c e.mirror e.layer (s.ctx c).step data

/-- A mirror has been acknowledged whole: it has completed to the partner, or the partner refused it, which a free value tells, and
is a warning (R142, R145, log 128). -/
def State.mirrorDone (s : State) (c : Fin 4) : State :=
  let fr := s.free 128
  let s := fr.2.modCtx c (fun x => { x with mirrorBusy := false })
  if fr.1 % 2 = 1 then s.log sevWarning c 0x05 none32 (Key.mirrorSent c) 0 else s.bump (Key.mirrorSent c) 1

/-- The end of a mirror's deliveries: one acknowledged whole is done, and the pending one is sent (R142). -/
def State.mirrorAcked (s : State) (c : Fin 4) : State :=
  if s.ownerBusy (.mirror c) then s
  else
    let s := if (s.ctx c).mirrorBusy then s.mirrorDone c else s
    match (s.ctx c).mirrorPending with
    | some (m, l, st, d) => (s.modCtx c (fun x => { x with mirrorPending := none })).sendMirror c m l st d
    | none => s

/-- Look-ahead hits and hints of a layer at its admission's commit (R123). -/
def State.settleHints (s : State) (c : Fin 4) (layer : Nat) (own : List Token) : State :=
  let mine := (s.ctx c).hints.filter (fun h => h.1 == layer)
  let hits := mine.filter (fun h => own.any (fun t => t.key == h.2.1 && t.kept.any (fun k => t.expertAt k.1 == some h.2.2)))
  ((s.bump (Key.lookaheadPredicted c) mine.length).bump (Key.lookaheadHits c) hits.length).modCtx c (fun x => { x with
    hints := x.hints.filter (fun h => h.1 != layer) })

/-- Exchange counts staged outside a command reach the counters at a commit (R145, log 130). -/
def State.takeXchCounts (s : State) (c : Fin 4) : State :=
  (s.forEach (s.ctx c).xchCounts (fun s x => s.bump x.1 x.2)).modCtx c (fun x => { x with xchCounts := [] })

/-- What the commit of an EXCHANGE does beyond that of every command: counter, references, records of admission, mirrors
(R127, R139, R142, R176, R198). Answers whether a double free was found. -/
def State.exchangeCommitted (s : State) (c : Fin 4) (r : Run) : State × Bool :=
  match r.cmd.exchRec, r.xch with
  | some e, some x =>
    let s := (s.takeXchCounts c).addCounter c e.counter 1
    match s.exchDomain e.layer with
    | none => (s, false)
    | some (lr, _, self) =>
      match e.role with
      | 1 => (s, false)
      | 2 =>
        let step := (s.ctx c).step
        let adm := (indexed x.adm).filter (fun a => a.2 != 0)
        let s := s.modCtx c (fun y => { y with
          lastAdmit := (y.lastAdmit.filter (fun a => !(a.1 == lr.layer && adm.any (fun b => b.1 == a.2.1)))) ++
            adm.map (fun b => (lr.layer, b.1, step)),
          admitted := y.admitted ++ adm.map (fun b => (lr.layer, b.1, b.2)) })
        let s := s.settleHints c lr.layer (ownTokens self x.tokens)
        let merges := s.pools.bufs.filter (fun b => b.owner == ownerIndex c 2 && b.layer == lr.layer)
        let d := s.commitDrops (merges.map (fun b => (b.pool, b.index)))
        if lr.gating = 1 then
          let s := d.1.forEach (d.1.landings c lr.layer true) (fun s b =>
            s.poolSetRefs b (((s.ctx c).xeQueue.filter (fun y => y.layer == lr.layer && y.id == b.id && y.holder == self)).length))
          (s, d.2)
        else d
      | _ =>
        let d := s.commitDrops ((s.returns c lr.layer).map (fun b => (b.pool, b.index)))
        let s := d.1.modCtx c (fun y => { y with
          xeQueue := y.xeQueue.filter (fun z => z.layer != lr.layer), served := assocDrop y.served lr.layer })
        ((s.dropHints lr.layer).mirrorRows c e lr, d.2)
  | _, _ => (s, false)

/-- The pool of a layer's landings. -/
def State.landingPool (s : State) (layer : Nat) : Nat :=
  match s.image with
  | none => 0
  | some im => (im.commands.findSome? (fun x => match x.exchRec with
      | some r => if r.layer = layer ∧ r.role = (match s.layerRec layer with | some lr => if lr.gating = 1 then 1 else 2 | none => 2)
          then some r.pool else none
      | none => none)).getD 0

/-- After an expert BLOCK's commit: references of the rows it used, and the outputs return to their origins (R133, R141); a landed
row whose buffer is free is a double free (R199). -/
def State.expertCommitted (s : State) (c : Fin 4) (layer cmd : Nat) (groups : List ServedGroup) : State × Bool :=
  match s.exchDomain layer, s.combineRec layer with
  | some (lr, cr, self), some (_, e) =>
    let pairs := groups.flatMap (fun g => g.keys.map (fun k => (g.expert, k)))
    let far := pairs.filter (fun p => p.2.2.1 != self)
    let f := hsFmt e.hsFormat
    let s' := s.forEach ((indexed pairs).filter (fun x => x.2.2.2.1 != self)) (fun s y =>
      let id := y.2.2
      let tag := s.tagFor c cmd self id.2.1 id.2.2
      let row := s.rowAt e.hs c f lr.dModel y.1
      let z := s.xchSend (.exchange c layer) c [] [s.addrTo cr id.2.1] id (3 + 4 * y.2.1) 16 row
        (fun first d => .retRow tag layer id.1 y.2.1 first row.length d)
      z.1.xchCount c layer (Key.xchBytesSent c) z.2)
    let s' := s'.modCtx c (fun y => { y with served := assocPut y.served layer groups })
    let gone := far.filter (fun p => (s.rowBuf c layer p.2).isNone)
    let s' := s'.bump (Key.poolDoubleFreeCount (s.landingPool layer)) gone.length
    let d := s'.commitDrops (far.filterMap (fun p => (s.rowBuf c layer p.2).map (fun b => (b.pool, b.index))))
    (d.1, d.2 || !gone.isEmpty)
  | _, _ => (s, false)

/-! ### Mirrors received (R142) -/

/-- MIRROR_ARRIVAL (R142): the slot not written last takes it and becomes valid; without a mirror area it is discarded
with a warning (R145). -/
def execMirrorArrival (ctx layer rows step pass : Nat) (data : List Byte) (s : State) : Host.Outcome State Fault Refusal :=
  .next (
    match ctxIndex? ctx with
    | none => s
    | some c =>
      if !s.hubUp then s else
      let base := s.force (Key.mirrorBase c)
      let size := s.force (Key.mirrorSlotSize c)
      if base = 0 ∨ size < 64 + data.length then s.log sevWarning c 0x05 none32 (Key.mirrorBase c) layer
      else
        let slot := (s.ctx c).mirrorNext % 2
        let hdr := leBytes 2 layer ++ leBytes 2 rows ++ leBytes 4 step ++ leBytes 4 data.length ++ leBytes 4 pass ++
          List.replicate 48 0
        let s := s.chanWrite c 3 (base + slot * size) (hdr ++ data)
        let s := s.modCtx c (fun x => { x with
          mirrors := ⟨slot, step, layer, true⟩ :: x.mirrors.filter (fun m => m.slot != slot), mirrorNext := 1 - slot })
        (s.setReg (Key.mirrorValidStep c) step).setReg (Key.mirrorValidLayer c) layer)

end Sys2Proof.Machine
end

