-- ==== Sys2Proof/Machine/Lanes.lean ====
section
/-! DEFINITION. What a block's issues compute (spec/04, spec/05): where a schedule's locations lie, operand segments,
sparse records, the terms of a lane issue, drains, the Vector Unit's operations, and the work of the Gate Array and the
Look-ahead Router (R105 to R109, R122). -/
namespace Sys2Proof.Machine

/-! ### Locations (R24, R98, R136, R171) -/

/-- Layer a block serves: the one its selection point for served experts names. -/
def servedLayer (b : Block) : Nat :=
  ((b.scheds.flatMap (fun t => t.segs.flatMap (fun g => g.sets.flatMap (fun i => i.hub.filterMap (fun h =>
    match h with | .selectServed l => some l | _ => none))))).head?).getD 0

/-- The block a command runs. -/
def State.blockOf (s : State) (cmd : Command) : Option Block :=
  match cmd.param, s.image with
  | .block i, some im => im.blocks[i]?
  | _, _ => none

/-- Served layer of a command's block. -/
def State.layerOf (s : State) (cmd : Command) : Nat :=
  match s.blockOf cmd with
  | some b => servedLayer b
  | none => 0

/-- The staged version of a handle in a run. -/
def Run.stagedOf (r : Run) (h : Nat) : Option Version := (r.staged.find? (fun v => v.1 == h)).map Prod.snd

/-- What a schedule's place resolves to: a version staged by the command, a committed object, a landed row, nothing. -/
inductive Home
  | staged (h : Nat) (v : Version)
  | committed (h : Nat)
  | row (id : TokId)
  | nowhere
  deriving DecidableEq, Repr

/-- Resolve a place: an output or an intermediate the command stages is its staged version, everything else a committed
version (R24). -/
def State.homeOf (s : State) (r : Run) (e : Replay) : Place → Home
  | .input i => .committed (r.cmd.inputs.getD i none32)
  | .output i =>
    match r.stagedOf (r.cmd.outputs.getD i none32) with
    | some v => .staged (r.cmd.outputs.getD i none32) v
    | none => .nowhere
  | .handle h =>
    match r.stagedOf h with
    | some v => if r.cmd.inputs.contains h then .committed h else .staged h v
    | none => .committed h
  | .landed j =>
    match e.group with
    | some g => match g.1.keys[j]? with
      | some k => .row k
      | none => .nowhere
    | none => .nowhere
  | .served =>
    match e.group with
    | some g => match s.expertHandle (s.layerOf r.cmd) g.1.expert with
      | some h => .committed h
      | none => .nowhere
    | none => .nowhere

/-- Handle a place accumulates into: the one whose anchor record holds (R48, R64). -/
def State.placeHandle (s : State) (r : Run) (e : Replay) (p : Place) : Nat :=
  match s.homeOf r e p with
  | .staged h _ => h
  | .committed h => h
  | _ => none32

/-- Byte offset of a location in a replay (R98, R136). -/
def locOff (l : Loc) (e : Replay) : Nat :=
  l.off + l.unit * e.unit.getD 0 + l.group * (match e.group with | some g => g.2 | none => 0)

/-- Reader of the bytes of a place. -/
def State.reader (s : State) (c : Fin 4) (r : Run) (e : Replay) (p : Place) : Nat → Byte :=
  match s.homeOf r e p with
  | .staged h v => match s.objRec h with
    | some o => fun i => s.verByte o v i
    | none => fun _ => 0
  | .committed h => fun i => s.objByte h c i
  | .row k =>
    let row := s.servedRow c (s.layerOf r.cmd) k
    fun i => row.getD i 0
  | .nowhere => fun _ => 0

/-- First address of a tile's Working Store (R70). -/
abbrev storeBase (tile : Nat) : Nat := 0x20000000000 + tile * 0x4000000

/-- Where in the tile's Working Store a schedule places byte `off` of a location's object. -/
def wsOf (l : Loc) (off : Nat) : Option Nat := l.ws.map (fun a => (a + off - l.off) % 0x4000000)

/-- Write bytes of the version that the run of a queue stages under a handle, in its HBM frames or at an offset of a tile's
Working Store, where they then lie (R24, R66, R70). -/
def State.stageAt (s : State) (c : Fin 4) (q : Fin 8) (tile h off : Nat) (ws : Option Nat) (bs : List Byte) : State :=
  let s := match ws with
    | none => s
    | some a =>
      let part := (off, bs.length, storeBase tile + a)
      s.modRun c q (fun r => { r with staged := r.staged.map (fun (v : Nat × Version) =>
        if v.1 = h ∧ !v.2.store.contains part then (h, { v.2 with store := part :: v.2.store }) else v) })
  match (s.run c q).bind (fun r => r.stagedOf h), s.objRec h with
  | some v, some o => s.verWrite c 0 o v off bs
  | _, _ => s

/-- Write bytes at offset `off` of a location's object: only versions the command stages take them (R24). -/
def State.putLoc (s : State) (c : Fin 4) (q : Fin 8) (r : Run) (e : Replay) (tile : Nat) (l : Loc) (off : Nat) (bs : List Byte) : State :=
  match s.homeOf r e l.place with
  | .staged h _ => s.stageAt c q tile h off (wsOf l off) bs
  | _ => s

/-! ### Operand segments (R45, R65, R86, R88) -/

/-- An element of an operand segment: position, code, block scale. -/
abbrev SegElem := Nat × Nat × Nat

/-- A little-endian field of a reader. -/
def rdNat (rd : Nat → Byte) (off n : Nat) : Nat := leNat ((List.range n).map (fun i => rd (off + i)))

/-- First element of block-scaled FP4 at the byte of its code. -/
def fp4Elem (off : Nat) : Nat := 512 * (off / 272) + 2 * (off % 272 - 16)

/-- The byte of the first code of the FP4 block that a byte of codes lies in: an operand segment begins on a block
boundary (R65). -/
def fp4Block (off : Nat) : Nat := off / 272 * 272 + 16 + (off % 272 - 16) / 16 * 16

/-- Where an operand segment begins. -/
def segStart (f : Fmt) (off : Nat) : Nat := match f with | .fp4 => fp4Block off | _ => off

/-- Code and scale of an FP4 element of a tensor. -/
def fp4Code (rd : Nat → Byte) (k : Nat) : Nat × Nat :=
  let b := (rd (272 * (k / 512) + 16 + k % 512 / 2)).toNat
  (if k % 2 = 0 then b % 16 else b / 16, (rd (272 * (k / 512) + k % 512 / 32)).toNat)

/-- A dense segment of `n` elements. -/
def denseSeg (f : Fmt) (rd : Nat → Byte) (off n : Nat) : List SegElem :=
  match f with
  | .fp4 => (List.range n).map (fun i => (i, fp4Code rd (fp4Elem off + i)))
  | _ => (List.range n).map (fun i => (i, rdNat rd (off + i * (f.width / 8)) (f.width / 8), 0))

/-- The values of a pair-sparse window record with the window positions they meet, groups from `g` on and slots from `sl`
on (R86, R87). -/
def pairGroups (f : Fmt) (rd : Nat → Byte) (off groups width : Nat) : Nat → Nat → Nat → List SegElem
  | 0, _, _ => []
  | fuel + 1, g, sl =>
    let m := (rd (off + g)).toNat
    let n := min 2 (m / 64)
    let take (j : Nat) : List SegElem :=
      if sl + j < width then
        [(8 * g + (if j = 0 then m % 8 else m / 8 % 8), rdNat rd (off + groups + (sl + j) * (f.width / 8)) (f.width / 8), 0)]
      else []
    (List.range n).flatMap take ++ pairGroups f rd off groups width fuel (g + 1) (sl + n)

/-- The entries of a merge-sparse record (R88). -/
def mergeSeg (f : Fmt) (rd : Nat → Byte) (off width : Nat) : List SegElem :=
  (List.range width).map (fun i =>
    (rdNat rd (off + 4 * i + 2) 2, if f = .bf16 then rdNat rd (off + 4 * i) 2 else rdNat rd (off + 4 * i) 1, 0))

/-- Value of an element. -/
def segVal (f : Fmt) (x : SegElem) : FVal :=
  match f with
  | .fp4 => fp4Value x.2.1 x.2.2
  | _ => f.decode x.2.1

/-- Dense elements per lane and issue of a shape (R65): 64 for FP4 by FP4, 8 for BF16, else 32. -/
def shapeWidth (shape : Nat) : Nat := if shape % 16 = 3 then 64 else if shape % 16 = 4 then 8 else 32

/-- Encoding and span of a sparse field (R83). -/
def sparseCode (sp : Nat) : Nat := sp / 16 % 4
def sparseSpan (sp : Nat) : Nat := sp % 16 + 1

/-- Bytes that a segment of `n` elements touches, from its first: for block-scaled FP4 from the scale of its first block to its last
code, whatever groups it crosses (R45). -/
def segSpan (f : Fmt) (off n : Nat) : Nat × Nat :=
  match f with
  | .fp4 =>
    let k := fp4Elem (fp4Block off)
    let last := k + n - 1
    let first := 272 * (k / 512) + k % 512 / 32
    (first, 272 * (last / 512) + 16 + last % 512 / 2 + 1 - first)
  | _ => (off, n * (f.width / 8))

/-- Bytes of the own record or segment of an issue at an offset (R65, R86, R88). -/
def laneOwnSpan (x : LaneIssue) (off : Nat) : Nat × Nat :=
  let w := shapeWidth x.shape
  match sparseCode x.sparse with
  | 1 => (off, (sparseSpan x.sparse * w / 8 + w * (x.ownFmt.width / 8) + 3) / 4 * 4)
  | 2 => (off, 4 * w)
  | _ => segSpan x.ownFmt off w

/-- Bytes of the shared segment, window or record. -/
def laneShSpan (x : LaneIssue) (off : Nat) : Nat × Nat :=
  let w := shapeWidth x.shape
  match sparseCode x.sparse with
  | 1 => segSpan x.shFmt off (sparseSpan x.sparse * w)
  | 2 => (off, 4 * w)
  | _ => segSpan x.shFmt off w

/-- Own elements of one dot lane. -/
def laneLoadOwn (x : LaneIssue) (rd : Nat → Byte) (off : Nat) : List SegElem :=
  let w := shapeWidth x.shape
  match sparseCode x.sparse with
  | 1 => pairGroups x.ownFmt rd off (sparseSpan x.sparse * w / 8) w (sparseSpan x.sparse * w / 8) 0 0
  | 2 => mergeSeg x.ownFmt rd off w
  | _ => denseSeg x.ownFmt rd (segStart x.ownFmt off) w

/-- Shared elements of an issue. -/
def laneLoadShared (x : LaneIssue) (rd : Nat → Byte) (off : Nat) : List SegElem :=
  let w := shapeWidth x.shape
  match sparseCode x.sparse with
  | 1 => denseSeg x.shFmt rd (segStart x.shFmt off) (sparseSpan x.sparse * w)
  | 2 => mergeSeg x.shFmt rd off w
  | _ => denseSeg x.shFmt rd (segStart x.shFmt off) w

/-- Own elements of the 64 dot lanes that a row holds before anything has been loaded into its register: free values, drawn
from counter `base` on (log 121). -/
def freeOwn (x : LaneIssue) (base : Nat) : List (List SegElem) :=
  let w := shapeWidth x.shape
  (List.range 64).map (fun n => (List.range w).map (fun k =>
    let v (j : Nat) := Config.freeValue 121 (base + 3 * (64 * n + k) + j)
    (match sparseCode x.sparse with
     | 1 => v 0 % (sparseSpan x.sparse * w)
     | 2 => v 0 % 65536
     | _ => k, v 1 % 2 ^ x.ownFmt.width, v 2 % 256)))

/-- Values one `freeOwn` draws. -/
abbrev freeOwnCount : Nat := 3 * 64 * 64

/-! ### Terms (R64, R65, R85, R87, R89) -/

/-- Exact sum of values: NaN, or infinities of both signs, give NaN. -/
def fvSum (l : List FVal) : FVal :=
  l.foldl (fun a b =>
    match a, b with
    | .nan, _ => .nan
    | _, .nan => .nan
    | .inf n, .inf m => if n = m then .inf n else .nan
    | .inf n, _ => .inf n
    | _, .inf n => .inf n
    | .fin n1 m1 e1, .fin n2 m2 e2 =>
      let r := finAdd n1 m1 e1 n2 m2 e2
      .fin (decide (r.1 < 0)) r.1.natAbs r.2) (.fin false 0 0)

/-- The two-pointer merge of two records (R89); `fuel` bounds the advances. -/
def mergeTerms (lim : Nat) (fa fb : Fmt) : Nat → List SegElem → List SegElem → List FVal
  | 0, _, _ => []
  | _, [], _ => []
  | _, _, [] => []
  | fuel + 1, a :: as, b :: bs =>
    if a.1 = b.1 then
      (if a.1 < lim then [(segVal fa a).mul (segVal fb b)] else []) ++ mergeTerms lim fa fb fuel as bs
    else if a.1 < b.1 then mergeTerms lim fa fb fuel as (b :: bs)
    else mergeTerms lim fa fb fuel (a :: as) bs

/-- The terms one dot lane enters in an issue. -/
def laneTerms (x : LaneIssue) (own shared : List SegElem) : List FVal :=
  if sparseCode x.sparse = 2 then
    mergeTerms (min x.lOwn x.lSh) x.ownFmt x.shFmt (2 * shapeWidth x.shape + 1) own shared
  else
    let ps := own.filterMap (fun a => (shared[a.1]?).map (fun b => (segVal x.ownFmt a).mul (segVal x.shFmt b)))
    if x.ownFmt = .fp4 ∧ x.shFmt = .fp4 then (chunks 32 2 ps).map fvSum else ps

/-- The token of its group that an issue's lane works for, as the schedule names it: one token where weights are held, one
token a lane where activations are (R67, log 45). -/
def laneToken (x : LaneIssue) (lane : Nat) : Option Nat :=
  x.token.map (fun j => if x.shape / 16 = 1 then j + lane else j)

/-! ### Drains (R51, R66) -/

/-- Pieces, as offset and bytes, that store values in a format from an offset on, elements `stride` bytes apart (0: packed);
block-scaled FP4 elements go to the element whose code lies at the offset, in whole blocks (R45, R59). -/
def encodeVals (f : Fmt) (off stride : Nat) (vs : List FVal) : List (Nat × List Byte) × Sat :=
  match f with
  | .fp4 =>
    let k := fp4Elem off
    let blocks := (chunks 32 (vs.length / 32 + 1) vs).map quantizeBlock
    ((indexed blocks).flatMap (fun b =>
      let at_ := k + 32 * b.1
      let codes := (chunks 2 16 b.2.2.1).map (fun y => BitVec.ofNat 8 (y.headD 0 + 16 * (y.drop 1).headD 0))
      [(272 * (at_ / 512) + at_ % 512 / 32, [BitVec.ofNat 8 b.2.1]), (272 * (at_ / 512) + 16 + at_ % 512 / 2, codes)]),
     (blocks.map (fun b => b.2.2)).foldl Sat.add Sat.zero)
  | _ =>
    let w := f.width / 8
    let st := if stride = 0 then w else stride
    let zs := vs.map f.convert
    ((indexed zs).map (fun y => (off + y.1 * st, leBytes w y.2.1)), (zs.map Prod.snd).foldl Sat.add Sat.zero)

/-- The padding of the groups that pieces of block-scaled FP4 reach for the first time in a staged version: scales of 0x7F, the
elements being zero (R45, log 144). -/
def State.padGroups (s : State) (c : Fin 4) (q : Fin 8) (r : Run) (e : Replay) (tile : Nat) (l : Loc) (f : Fmt)
    (ps : List (Nat × List Byte)) : State :=
  match f, s.homeOf r e l.place with
  | .fp4, .staged h v =>
    let gs := (dedup (ps.map (fun p => p.1 / 272))).filter (fun g => !v.fp4.contains g)
    let s := s.modRun c q (fun r => { r with staged := r.staged.map (fun v =>
      if v.1 = h then (h, { v.2 with fp4 := gs ++ v.2.fp4 }) else v) })
    s.forEach gs (fun s g => s.putLoc c q r e tile l (272 * g) (List.replicate 16 0x7F))
  | _, _ => s

/-- Pieces with neighbours joined. -/
def joinPieces : List (Nat × List Byte) → List (Nat × List Byte)
  | [] => []
  | (o, bs) :: t =>
    match joinPieces t with
    | (p, cs) :: r => if o + bs.length = p then (o, bs ++ cs) :: r else (o, bs) :: (p, cs) :: r
    | [] => [(o, bs)]

/-- The 64 sums of a drain through the exit converters, as pieces for its target (R51, R66); `keep` tells the lanes that
compute. -/
def drainPieces (anchor : Int) (off : Nat) (d : Drain) (accs : List Acc) (keep : Nat → Bool) : List (Nat × List Byte) × Sat :=
  match d.fmt with
  | .fp4 =>
    let xs := accs.map (fun a => a.leave anchor .fp32)
    let y := encodeVals .fp4 off 0 (xs.map (fun x => Fmt.fp32.decode x.1))
    (y.1, (xs.map Prod.snd).foldl Sat.add y.2)
  | f =>
    let st := if d.stride = 0 then f.width / 8 else d.stride
    let zs := ((indexed accs).filter (fun y => keep y.1)).map (fun y => (y.1, leaveAll [y.2] anchor f))
    (zs.map (fun y => (off + y.1 * st, y.2.1)), (zs.map (fun y => y.2.2)).foldl Sat.add Sat.zero)

/-! ### The Vector Unit (R60, R72, R92) -/

/-- Magnitude of a FP32 code for PAIR_PACK's choice. -/
def magOf (v : Nat) : Nat := v % 2 ^ 31

/-- The group of a PAIR_PACK: the two values of largest magnitude, the lower index first on a tie, kept in index order,
zeros dropped (R92); the source's magnitudes decide, before the conversion (log 46). -/
def packGroup (l : List (Nat × Nat)) : List (Nat × Nat) :=
  let best := (sortBy (fun a b => if magOf a.2 ≠ magOf b.2 then decide (magOf b.2 < magOf a.2) else decide (a.1 < b.1)) l).take 2
  (sortBy (fun a b => decide (a.1 ≤ b.1)) best).filter (fun x => magOf x.2 != 0)

/-- The metadata byte of a group; index fields without a value hold 0 (R86, log 46). -/
def packMeta (l : List (Nat × Nat)) : Byte :=
  BitVec.ofNat 8 (64 * l.length + 8 * (match l with | [_, b] => b.1 | _ => 0) + (match l with | a :: _ => a.1 | [] => 0))

/-- The window records of a PAIR_PACK over FP32 codes, the last window filled up with zeros (R86, R92); magnitudes and zeros are
judged before the conversion, and value slots that no group takes hold 0 (log 46). -/
def pairPackOut (f : Fmt) (width span : Nat) (codes : List Nat) : List Byte × Sat :=
  let wins := (chunks (span * width) (codes.length / (span * width) + 1) codes).map (fun w =>
    w ++ List.replicate (span * width - w.length) 0)
  let one (w : List Nat) : List Byte × Sat :=
    let groups := (chunks 8 (w.length / 8 + 1) w).map (fun g => packGroup (indexed g))
    let vals := groups.flatMap (fun g => g.map (fun x => f.convert (Fmt.fp32.decode x.2)))
    let body := groups.map packMeta ++ (vals.map (fun v => leBytes (f.width / 8) v.1)).flatten ++
      List.replicate ((width - vals.length) * (f.width / 8)) 0
    (body ++ List.replicate ((4 - body.length % 4) % 4) 0, (vals.map Prod.snd).foldl Sat.add Sat.zero)
  let rs := wins.map one
  ((rs.map Prod.fst).flatten, (rs.map Prod.snd).foldl Sat.add Sat.zero)

/-- The records of a COMPACT over FP32 codes, the elements dropped, and conversion counts; `first` is the position of the first
element in its operand, `len` the logical length, at and beyond which there are no elements (R88, R92); nonzero is judged
before the conversion, and the fill entries' value bits are 0 (log 46). -/
def compactOut (f : Fmt) (width span len first : Nat) (codes : List Nat) : List Byte × Nat × Sat :=
  let codes := codes.take (len - first)
  let wins := chunks (span * width) (codes.length / (span * width) + 1) (indexed codes)
  let one (w : List (Nat × Nat)) : List Byte × Nat × Sat :=
    let nz := w.filter (fun x => magOf x.2 != 0)
    let vals := (nz.take width).map (fun x => (first + x.1, f.convert (Fmt.fp32.decode x.2)))
    let entry (i v : Nat) : List Byte :=
      if f = .bf16 then leBytes 2 v ++ leBytes 2 i else leBytes 1 v ++ [0] ++ leBytes 2 i
    ((vals.map (fun x => entry x.1 x.2.1)).flatten ++ ((List.replicate (width - vals.length) (entry 0xFFFF 0))).flatten,
     nz.length - width, (vals.map (fun x => x.2.2)).foldl Sat.add Sat.zero)
  let rs := wins.map one
  ((rs.map Prod.fst).flatten, (rs.map (fun x => x.2.1)).foldl (· + ·) 0, (rs.map (fun x => x.2.2)).foldl Sat.add Sat.zero)

/-- Element-wise results of the arithmetic operations on FP32 codes (R60). -/
def vecApply (fn : VecFn) (x : List Nat) : Nat :=
  let a := x.getD 0 0
  let b := x.getD 1 0
  let c := x.getD 2 0
  let d (v : Nat) := Fmt.fp32.decode v
  match fn with
  | .add => fvAdd (d a) (d b)
  | .sub => fvAdd (d a) (d b).neg
  | .mul => fvMul (d a) (d b)
  | .fma => fvFma (d a) (d b) (d c)
  | .cmpEq => fpBool (fvCmp 0 (d a) (d b))
  | .cmpNe => fpBool (fvCmp 1 (d a) (d b))
  | .cmpLt => fpBool (fvCmp 2 (d a) (d b))
  | .cmpLe => fpBool (fvCmp 3 (d a) (d b))
  | .cmpGt => fpBool (fvCmp 4 (d a) (d b))
  | .cmpGe => fpBool (fvCmp 5 (d a) (d b))
  | .select => fpSelect a b c
  | .min => fpMin a b
  | .max => fpMax a b
  | .exp2 => vecFunction 1 a
  | .log2 => vecFunction 2 a
  | .recip => vecFunction 3 a
  | .rsqrt => vecFunction 4 a
  | .tanh => vecFunction 5 a
  | .sigmoid => vecFunction 6 a
  | .sin => vecFunction 7 a
  | .cos => vecFunction 8 a
  | .convert _ _ => a
  | .reduce _ _ => a
  | .reduceOut _ _ => a
  | .pairPack _ _ => a
  | .compact _ _ _ _ => a

/-- The latency of a Vector Unit operation (R72; log 48 on the exit of a reduction). -/
def vecLatency : VecFn → Nat
  | .add | .sub | .mul | .fma => 4
  | .cmpEq | .cmpNe | .cmpLt | .cmpLe | .cmpGt | .cmpGe | .select | .min | .max => 2
  | .exp2 | .log2 | .recip | .rsqrt => 10
  | .tanh | .sigmoid | .sin | .cos => 14
  | .convert _ _ | .reduceOut _ _ | .pairPack _ _ | .compact _ _ _ _ => 6
  | .reduce _ _ => 8

/-! ### Unit masks (R94, R95, R96) -/

/-- Predictor record of a layer. -/
def State.predRec (s : State) (layer : Nat) : Option PredRec :=
  match s.image with
  | some im => im.preds.find? (fun p => p.layer == layer)
  | none => none

/-- Mode in force: FAST runs as EXACT under `PRED_MODE_FORCE` (R96). -/
def State.predMode (s : State) (p : PredRec) : Nat :=
  if p.mode = 2 ∧ s.force Key.predModeForce = 1 then 1 else p.mode

/-- Predicted set from the scores: s ≥ τ, or NaN (R94). -/
def predictedSet (p : PredRec) (score : Nat → Nat) : List Nat :=
  (List.range p.units).filter (fun u =>
    let v := Fmt.fp32.decode (score u)
    fvIsNan v || fvCmp 5 v (Fmt.fp32.decode p.scoreThreshold))

/-- Needed set from the activations: some |a| > θ, or NaN; a negative θ is read as 0 (R93, R95). -/
def neededSet (p : PredRec) (act : Nat → Nat) : List Nat :=
  let th := if p.actThreshold ≥ 2 ^ 31 then 0 else p.actThreshold
  (List.range p.units).filter (fun u => (List.range 32).any (fun i =>
    let v := Fmt.fp32.decode (act (32 * u + i))
    fvIsNan v || fvCmp 4 (Fmt.fp32.decode (act (32 * u + i) % 2 ^ 31)) (Fmt.fp32.decode th)))

/-- Units of a repeat mark for one token, by mode (R96, log 45): 0 OFF, 1 EXACT, 2 FAST. -/
def markUnits (mode units : Nat) (mark : Repeat) (p n : List Nat) : List Nat :=
  if mode = 0 then (match mark with | .unitRepair => [] | _ => List.range units)
  else match mark with
    | .unitP => p
    | .unitN => n
    | .unitPN => if mode = 1 then n else p.filter n.contains
    | .unitRepair => if mode = 1 then n.filter (fun u => !p.contains u) else []
    | _ => []

/-- Units of a replay: those of any token's set. -/
def unionUnits (units : Nat) (l : List (List Nat)) : List Nat := (List.range units).filter (fun u => l.any (fun x => x.contains u))

/-- Counts of a token's masks (R99): predicted, needed, wasted, repaired or lost. -/
def maskCounts (p n : List Nat) : Nat × Nat × Nat × Nat :=
  (p.length, n.length, (p.filter (fun u => !n.contains u)).length, (n.filter (fun u => !p.contains u)).length)

/-! ### Gate work (R103, R105, R107 to R109) -/

/-- The token rows a gate block scores: the own rows and, under EXPERT_SHARDED gating, the landed rows of BROADCAST, in
ascending token key; each with its key, whether it is an own row, and the reader of its elements. -/
def State.gateTokens (s : State) (c : Fin 4) (r : Run) (e : Replay) (lr : LayerRec) (hidden : Loc) (rows : Nat) (f : Fmt) :
    List (Nat × Bool × List FVal) :=
  let rd := s.reader c r e hidden.place
  let base := locOff hidden e
  let own := (List.range rows).map (fun i =>
    (s.tokenKey lr c i, true, (List.range lr.dModel).map (fun j => f.load (fun o => rd (base + i * rowBytes f lr.dModel + o)) j)))
  if lr.gating = 0 then own
  else
    let far := (s.landings c lr.layer true).map (fun b =>
      let row := s.memBytes (s.bufAddr b) b.bytes
      (b.id, false, rowVals f lr.dModel row))
    let self := s.layerSelf lr
    let all := (indexed own).map (fun x => ((x.2.1, self, x.1), x.2.2.1, x.2.2.2)) ++ far
    (sortBy (fun (a b : TokId × Bool × List FVal) => tokIdBefore a.1 b.1) all).map (fun x => (x.1.1, x.2))

/-- The landed rows that a gate block scores beside its own (R103, R131), as addresses and bytes. -/
def State.gateRows (s : State) (c layer : Nat) : List (Nat × Nat) :=
  match s.layerRec layer with
  | some lr => if lr.gating = 1 then (s.landings c layer true).map (fun b => (s.bufAddr b, b.bytes)) else []
  | none => []

/-- Candidates of one token over the experts scored here, with the counts of their logits and limited biases
(R105, R108). -/
def State.gateToken (s : State) (c : Fin 4) (r : Run) (lr : LayerRec) (gf : Fmt) (hid : List FVal) : List Cand × Sat :=
  let bias := (assoc r.bias lr.bias).getD []
  let anchor := s.anchorOf lr.logit
  let rs := (List.range lr.localExperts).map (fun i =>
    let row := (List.range lr.dModel).map (fun j => gf.load (fun o => s.objByte lr.gate c (i * rowBytes gf lr.dModel + o)) j)
    let x := gateLogit anchor hid row
    let ex := lr.expertBase + i
    let b := if lr.bias = none32 then (0, false) else limitBias (toSigned 64 (leNat ((bias.drop (8 * ex)).take 8)))
    (candOf x.1 b.1 ex, if b.2 then x.2.add Sat.oneEntry else x.2))
  (rs.map Prod.fst, (rs.map Prod.snd).foldl Sat.add Sat.zero)

/-- The next routed layer of the image. -/
def State.nextLayer (s : State) (l : Nat) : Option LayerRec :=
  match s.image with
  | none => none
  | some im => (sortBy (fun (a b : LayerRec) => decide (a.layer ≤ b.layer)) (im.layers.filter (fun x => decide (l < x.layer)))).head?

/-- The best experts of the next layer for a token by the Look-ahead Router (R122): (h · P1) · P2, both products at the
next layer's logit anchor, ranked without bias. -/
def State.lookaheadOf (s : State) (c : Fin 4) (lr next : LayerRec) (pf : Fmt) (hid : List FVal) : List Nat :=
  let anchor := s.anchorOf next.logit
  let el (h i : Nat) := pf.load (fun o => s.objByte h c o) i
  let mid := (List.range lr.laRank).map (fun j =>
    let x := gateLogit anchor hid ((List.range lr.dModel).map (fun i => el lr.laP1 (i * lr.laRank + j)))
    if bit x.1.flags 2 || (bit x.1.flags 1 && bit x.1.flags 0) then FVal.nan
    else if bit x.1.flags 1 then .inf false
    else if bit x.1.flags 0 then .inf true
    else .fin (decide (x.1.val < 0)) x.1.val.natAbs anchor)
  let cs := (List.range next.experts).map (fun ex =>
    candOf (gateLogit anchor mid ((List.range lr.laRank).map (fun j => el lr.laP2 (j * next.experts + ex)))).1 0 ex)
  (topCands lr.lookahead cs).map Cand.expert

/-- Send the staging hint of an expert of a layer to its holder: to the own Placement Engine directly (R122). -/
def State.sendHint (s : State) (c : Fin 4) (lr : LayerRec) (ex : Nat) : State :=
  let home := s.homeMember lr ex
  if home = s.layerSelf lr then s.stagingHint lr.layer ex
  else match s.crew? lr.crew with
    | none => s
    | some cr => match s.memberAddr cr home with
      | some a => s.sendControl a c (.hint lr.layer ex)
      | none => s

/-- The Look-ahead Router's work in a gate block (R122). -/
def State.lookahead (s : State) (c : Fin 4) (r : Run) (e : Replay) (lr : LayerRec) (hidden : Loc) (rows : Nat) (hf pf : Fmt) : State :=
  match s.nextLayer lr.layer with
  | none => s
  | some next =>
    if lr.lookahead = 0 ∨ s.force Key.lookaheadEnable = 0 then s
    else
      let toks := s.gateTokens c r e lr hidden rows hf
      let hs := toks.map (fun t => (t.1, t.2.1, s.lookaheadOf c lr next pf t.2.2))
      let mine := (hs.filter (fun t => t.2.1)).flatMap (fun t => t.2.2.map (fun ex => (next.layer, t.1, ex)))
      let s := s.modCtx c (fun x => { x with hints := dedup (x.hints ++ mine) })
      s.forEach (dedup (hs.flatMap (fun t => t.2.2))) (fun s ex => s.sendHint c next ex)

end Sys2Proof.Machine
end

