-- ==== Sys2Proof/Machine/Tile.lean ====
section
/-! DEFINITION. The Tile Sequencer (spec/04, spec/05): issue sets and segments with their departures, the checks on what
a segment reads, repeat ranges and selection points, waits inside a block, block completion and budget, and the rows
BLOCK, BLOCK_WAIT_RESUME, NEAR_STREAM_STALL_END, WAIT_FEATHER and BLOCK_BUDGET_EXPIRY. -/
namespace Sys2Proof.Machine

/-- The run of a queue and what one of its tiles holds. -/
def State.tileOf (s : State) (c : Fin 4) (q : Fin 8) (tile : Nat) : Option (Run × TileRun) :=
  match s.run c q with
  | none => none
  | some r => if r.running then (r.tiles.find? (fun t => t.tile == tile)).map (fun t => (r, t)) else none

/-- Replace what a tile holds. -/
def State.setTile (s : State) (c : Fin 4) (q : Fin 8) (t : TileRun) : State :=
  s.modRun c q (fun r => { r with tiles := r.tiles.map (fun x => if x.tile = t.tile then t else x) })

/-! ### Accumulators (R64, R66) -/

/-- Add a sum into an accumulator. -/
def accAdd (l : List (Nat × Nat × Nat × Acc)) (row acc lane : Nat) (a : Acc) : List (Nat × Nat × Nat × Acc) :=
  if l.any (fun x => x.1 == row && x.2.1 == acc && x.2.2.1 == lane) then
    l.map (fun x => if x.1 == row && x.2.1 == acc && x.2.2.1 == lane then (row, acc, lane, x.2.2.2.merge a) else x)
  else (row, acc, lane, a) :: l

/-- Terms due by cycle `at_` land in the accumulators. -/
def TileRun.landTerms (t : TileRun) (at_ : Nat) : TileRun :=
  let due := t.flight.filter (fun x => decide (x.1 ≤ at_))
  { t with
    accs := due.foldl (fun l x => accAdd l x.2.1 x.2.2.1 x.2.2.2.1 x.2.2.2.2) t.accs
    flight := t.flight.filter (fun x => !decide (x.1 ≤ at_)) }

/-- The tile's clock: the CCLK it has run and waited since the block began. -/
def TileRun.clock (t : TileRun) : Nat := t.cycles + t.waitCclk

/-- An accumulator's sum. -/
def TileRun.accOf (t : TileRun) (row acc lane : Nat) : Acc :=
  match t.accs.find? (fun x => x.1 == row && x.2.1 == acc && x.2.2.1 == lane) with
  | some x => x.2.2.2
  | none => Acc.zero

/-- Row offset of a Lane Row (R77). -/
def State.rowOffset (s : State) (tile row : Nat) : Nat :=
  let i := tile * 32 + row
  ((s.bulkBytes Key.unitMap (2 * i) 2).filter (fun b => b != 0xFF)).length

/-! ### One issue set (R64, R66, R73, R78, R79, R81) -/

/-- Progress within a segment: the delay taken so far, the part of it that waits for near-stack data, the rows gated, the row
cycles gated. -/
structure SegSt where
  s : State
  t : TileRun
  delay : Nat
  stall : Nat
  gated : List Nat
  feathered : Nat

/-- Ungate rows at cycle `at_` of the segment (R79, log 47). -/
def SegSt.wake (x : SegSt) (rows : List Nat) (at_ : Nat) : SegSt :=
  let now := x.gated.filter rows.contains
  { x with gated := x.gated.filter (fun r => !rows.contains r), feathered := x.feathered + now.length * at_ }

/-- Extra accesses among the scheduled accesses of one CCLK: bank bits [12:7] (R70, R71). -/
def bankConflicts (ports : List (Nat × Nat)) : Nat :=
  let banks := ports.map (fun p => p.2 / 128 % 64)
  banks.length - (dedup banks).length

/-- The latency pad of a drain cycle (R78). -/
def SegSt.padOf (x : SegSt) (ds : List Drain) : Nat :=
  let need := ds.foldl (fun n d => max n (x.s.rowOffset x.t.tile d.row - x.t.assumed.getD d.row 2)) 0
  let last := ds.foldl (fun n d =>
    match x.t.issued.find? (fun y => y.1 == d.row && y.2.1 == d.acc) with
    | some y => max n y.2.2
    | none => n) 0
  need - (x.t.pads - last)

/-- The run as it stands, which the segment may have changed. -/
def SegSt.run (x : SegSt) (c : Fin 4) (q : Fin 8) (r : Run) : Run := (x.s.run c q).getD r

/-- Whether a token computes the unit of a replay: the unit is in its own set, by the record of the layer whose selection point
formed the masks (R96, log 45). -/
def State.unitOfToken (s : State) (e : Replay) (t : TileRun) (tok : Option Nat) : Bool :=
  match e.unit, tok, t.maskLayer.bind s.predRec with
  | some u, some j, some p =>
    if e.group.isNone then true
    else (markUnits (s.predMode p) p.units e.seg.mark (t.maskP.getD j []) (t.maskN.getD j [])).contains u
  | _, _, _ => true

/-- The own operands that a row uses in an issue: those it holds, those of its other buffer, or those loaded now; a register
that nothing has loaded holds free values (R64, R67, log 121). -/
def SegSt.operand (x : SegSt) (c : Fin 4) (r : Run) (e : Replay) (i : LaneIssue) : SegSt :=
  let held (l : List (Nat × List (List SegElem))) := l.find? (fun y => y.1 == i.row)
  let put (l : List (Nat × List (List SegElem))) (v : List (List SegElem)) := (i.row, v) :: l.filter (fun y => y.1 != i.row)
  let loaded (l : Loc) : List (List SegElem) :=
    let rd := x.s.reader c r e l.place
    (List.range 64).map (fun n => laneLoadOwn i rd (locOff l e + n * i.stride))
  let free : List (List SegElem) × State :=
    (freeOwn i x.s.freeCount, { x.s with freeCount := x.s.freeCount + freeOwnCount })
  let x := match i.own with
    | .load l => { x with t := { x.t with own := put x.t.own (loaded l) } }
    | .keep => if (held x.t.own).isSome then x else { x with s := free.2, t := { x.t with own := put x.t.own free.1 } }
    | .swap =>
      let now := match held x.t.shadow with | some y => (y.2, x.s) | none => free
      { x with s := now.2, t := { x.t with
          own := put x.t.own now.1
          shadow := match held x.t.own with
            | some y => put x.t.shadow y.2
            | none => x.t.shadow.filter (fun y => y.1 != i.row) } }
  match i.fill with
  | some l => { x with t := { x.t with shadow := put x.t.shadow (loaded l) } }
  | none => x

/-- One Lane Row issue (R64, R67, R83 to R89); terms beyond the 2^32 of an accumulation are not entered (R47). -/
def SegSt.lane (x : SegSt) (c : Fin 4) (q : Fin 8) (r : Run) (e : Replay) (i : LaneIssue) (at_ : Nat) : SegSt :=
  let r := x.run c q r
  let x := x.operand c r e i
  let s := x.s
  let t := x.t
  let regs := ((t.own.find? (fun y => y.1 == i.row)).map Prod.snd).getD []
  let shared := laneLoadShared i (s.reader c r e i.shared.place) (locOff i.shared e)
  let h := s.placeHandle r e i.target
  let anchor := s.anchorOf h
  let due := at_ + 6 + (if sparseCode i.sparse = 0 then 0 else 4) + s.rowOffset t.tile i.row
  let had := match t.terms.find? (fun y => y.1 == i.row && y.2.1 == i.acc) with | some y => y.2.2 | none => 0
  let most := regs.foldl (fun n y => max n (laneTerms i y shared).length) 0
  let outs := if 2 ^ 32 < had + most then [] else (indexed regs).filterMap (fun y =>
    if s.unitOfToken e t (laneToken i y.1) then
      let z := Acc.zero.enterAll anchor (laneTerms i y.2 shared)
      some (y.1, z.1, z.2)
    else none)
  let sat := outs.foldl (fun (a : Sat) y => a.add y.2.2) Sat.zero
  let s := s.modRun c q (fun r => r.addSat (s.effMode r.cmd h) sat)
  let s := if sparseCode i.sparse = 0 then s else s.bump (Key.sparseIssueCount t.tile) 1
  { x with
    s := s
    t := { t with
      flight := t.flight ++ outs.map (fun y => (due, i.row, i.acc, y.1, y.2.1))
      terms := (i.row, i.acc, had + most) :: t.terms.filter (fun y => !(y.1 == i.row && y.2.1 == i.acc))
      issued := (i.row, i.acc, t.pads) :: t.issued.filter (fun y => !(y.1 == i.row && y.2.1 == i.acc)) } }

/-- One drain (R66): the sums of what has landed go to the staged version of the target, by lanes whose token computes. -/
def SegSt.drain (x : SegSt) (c : Fin 4) (q : Fin 8) (r : Run) (e : Replay) (d : Drain) (at_ : Nat) : SegSt :=
  let r := x.run c q r
  let t := x.t.landTerms at_
  let h := x.s.placeHandle r e d.dst.place
  let keep (n : Nat) : Bool := x.s.unitOfToken e t (d.token.map (fun j => if d.byLane then j + n else j))
  let y := drainPieces (x.s.anchorOf h) (locOff d.dst e) d ((List.range 64).map (fun n => t.accOf d.row d.acc n)) keep
  let t' := if d.clear then { t with
      accs := t.accs.filter (fun a => !(a.1 == d.row && a.2.1 == d.acc)),
      terms := t.terms.filter (fun a => !(a.1 == d.row && a.2.1 == d.acc)) } else t
  if !d.byLane && !keep 0 then { x with t := t' }
  else
    let ps := joinPieces y.1
    let s := x.s.padGroups c q r e t.tile d.dst d.fmt ps
    let s := s.forEach ps (fun s p => s.putLoc c q r e t.tile d.dst p.1 p.2)
    { x with s := s.modRun c q (fun r => r.addSat (x.s.effMode r.cmd h) y.2), t := t' }

/-- Vector Unit results that can be used by cycle `at_` take their places, the earliest first (R72). -/
def SegSt.landVec (x : SegSt) (c : Fin 4) (q : Fin 8) (at_ : Nat) : SegSt :=
  let due := sortBy (fun a b => decide (a.1 ≤ b.1)) (x.t.vecFlight.filter (fun y => decide (y.1 ≤ at_)))
  let x := { x with t := { x.t with vecFlight := x.t.vecFlight.filter (fun y => !decide (y.1 ≤ at_)) } }
  due.foldl (fun x y =>
    match y.2 with
    | .bytes h off ws bs => { x with s := x.s.stageAt c q x.t.tile h off ws bs }
    | .acc k a => { x with t := { x.t with vecAccs := match x.t.vecAccs.find? (fun z => z.1 == k) with
        | some z => (k, z.2.merge a) :: x.t.vecAccs.filter (fun z => z.1 != k)
        | none => (k, a) :: x.t.vecAccs } }) x

/-- Element codes of `n` elements of `w` bytes of an operand: from memory, or from an earlier output; an output that is not yet
there, or of an issue the block never made, is a free value (R72, log 48). -/
def SegSt.vecIn (x : SegSt) (c : Fin 4) (r : Run) (e : Replay) (n w : Nat) (at_ : Nat) : VecSrc → List Nat × SegSt
  | .mem l =>
    let rd := x.s.reader c r e l.place
    ((List.range n).map (fun i => rdNat rd (locOff l e + w * i) w), x)
  | .prior k =>
    let free := ((List.range n).map (fun i => Config.freeValue 48 (x.s.freeCount + i) % 2 ^ (8 * w)),
      { x with s := { x.s with freeCount := x.s.freeCount + n } })
    match (if k = 0 then none else x.t.outs[k - 1]?) with
    | some o => if o.1 ≤ at_ then ((List.range n).map (fun i => o.2.getD i 0), x) else free
    | none => free

/-- Put a result of the Vector Unit on its way: pieces for its target, and its element codes for later operations (R72). -/
def SegSt.vecOut (x : SegSt) (c : Fin 4) (q : Fin 8) (r : Run) (e : Replay) (v : VecIssue) (f : Fmt) (at_ : Nat)
    (ps : List (Nat × List Byte)) (codes : List Nat) (sat : Sat) : SegSt :=
  let ready := at_ + vecLatency v.fn
  let h := match v.dst with | some l => x.s.placeHandle r e l.place | none => none32
  let s := x.s.modRun c q (fun r => r.addSat (x.s.effMode r.cmd h) sat)
  let ps := joinPieces ps
  let y := match v.dst with
    | none => (s, [])
    | some l =>
      match s.homeOf r e l.place with
      | .staged h _ =>
        (s.padGroups c q r e x.t.tile l f ps, ps.map (fun (p : Nat × List Byte) => (ready, VecLand.bytes h p.1 (wsOf l p.1) p.2)))
      | _ => (s, [])
  { x with s := y.1, t := { x.t with vecFlight := x.t.vecFlight ++ y.2, outs := (ready, codes) :: x.t.outs } }

/-- One Vector Unit issue (R60, R72, R92). -/
def SegSt.vec (x : SegSt) (c : Fin 4) (q : Fin 8) (r : Run) (e : Replay) (v : VecIssue) (at_ : Nat) : SegSt :=
  let r := x.run c q r
  let off := match v.dst with | some l => locOff l e | none => 0
  let anchor := x.s.anchorOf (match v.dst with | some l => x.s.placeHandle r e l.place | none => none32)
  if !x.s.unitOfToken e x.t v.token then x
  else
    let operand (x : SegSt) (k w : Nat) : List Nat × SegSt :=
      match v.srcs[k]? with
      | some l => x.vecIn c r e v.n w at_ l
      | none => ([], x)
    let first : Option VecSrc := v.srcs[0]?
    match v.fn with
    | .convert src dst =>
      let y : List FVal × SegSt := match src, first with
        | .fp4, some (.mem l) => ((denseSeg .fp4 (x.s.reader c r e l.place) (locOff l e) v.n).map (segVal .fp4), x)
        | _, _ => let z := operand x 0 (src.width / 8); (z.1.map src.decode, z.2)
      let z := encodeVals dst off 0 y.1
      y.2.vecOut c q r e v dst at_ z.1 (if dst = .fp4 then [] else y.1.map (fun a => (dst.convert a).1)) z.2
    | .reduce k square =>
      let y := operand x 0 4
      let vs := y.1.map (fun a => let d := Fmt.fp32.decode a; if square then d.mul d else d)
      let z := Acc.zero.enterAll anchor vs
      let x := y.2.vecOut c q r e { v with dst := none } .fp32 at_ [] [] z.2
      { x with t := { x.t with vecFlight := x.t.vecFlight ++ [(at_ + vecLatency v.fn, VecLand.acc k z.1)] } }
    | .reduceOut k dst =>
      let a := ((x.t.vecAccs.find? (fun y => y.1 == k)).map Prod.snd).getD Acc.zero
      let y := leaveAll [a] anchor dst
      let x := { x with t := { x.t with vecAccs := x.t.vecAccs.filter (fun z => z.1 != k) } }
      x.vecOut c q r e v dst at_ [(off, y.1)] [leNat y.1] y.2
    | .pairPack f span =>
      let y := operand x 0 4
      let z := pairPackOut f (if f = .bf16 then 8 else 32) span y.1
      y.2.vecOut c q r e v f at_ [(off, z.1)] [] z.2
    | .compact f span len first =>
      let y := operand x 0 4
      let z := compactOut f (if f = .bf16 then 8 else 32) span len first y.1
      let x := y.2.vecOut c q r e v f at_ [(off, z.1)] [] z.2.2
      { x with s := x.s.bump (Key.compactDropCount x.t.tile) z.2.1 }
    | fn =>
      let a := operand x 0 4
      let b := operand a.2 1 4
      let d := operand b.2 2 4
      let out := (List.range v.n).map (fun i => vecApply fn [a.1.getD i 0, b.1.getD i 0, d.1.getD i 0])
      d.2.vecOut c q r e v .fp32 at_ [(off, (out.map (leBytes 4)).flatten)] out Sat.zero

/-- A selection point's record in the wait trace (R98, R136, R301). -/
def State.selectionRecord (s : State) (c : Fin 4) (r : Run) (tile seg n : Nat) : State :=
  s.writeWait c r.entry.command s.tick 0 none 8 tile (some n) seg

/-- Tokens of a replay: those of its group, else one. -/
def Replay.tokens (e : Replay) : Nat := match e.group with | some g => g.1.keys.length | none => 1

/-- A tile's schedule has the selection point of a layer's needed set. -/
def selectsN (k : TileSched) (layer : Nat) : Bool :=
  k.segs.any (fun g => g.sets.any (fun i => i.hub.any (fun h => match h with | .selectN l _ => l == layer | _ => false)))

/-- The tile that counts the masks of a layer: the lowest one whose schedule forms them (R99, log 44). -/
def State.countTile (s : State) (r : Run) (layer : Nat) : Nat :=
  match s.blockOf r.cmd with
  | none => 4
  | some b => ((b.scheds.filter (fun k => bit r.cmd.target k.tile && selectsN k layer)).map TileSched.tile).foldl min 4

/-- Count the distinct sequences among the token rows a gate block has scored against those the context declares (R15, R111; log 120). -/
def State.checkSequences (s : State) (c : Fin 4) (r : Run) : State :=
  let n := (dedup (r.gateKeys.map (fun k => k / 2 ^ 32 % 2 ^ 28))).length
  let declared := s.reg (Key.ctxGenSequences c)
  if declared = 0 ∨ n ≤ declared then s
  else (s.bump (Key.ctxSeqExcess c) 1).log sevWarning c 0x04 r.entry.command (Key.ctxSeqExcess c) n

/-- Routing Engine work and selection points (R98, R99, R109, R122, R136). -/
def SegSt.hub (x : SegSt) (c : Fin 4) (q : Fin 8) (r : Run) (e : Replay) (h : HubOp) : SegSt :=
  let r := x.run c q r
  let s := x.s
  match h with
  | .gate layer hidden rows hf gf out =>
    match s.layerRec layer with
    | none => x
    | some lr =>
      let n := lr.listLen
      let toks := s.gateTokens c r e lr hidden rows hf
      let rs := toks.map (fun t => s.gateToken c r lr gf t.2.2)
      let sat := rs.foldl (fun (a : Sat) y => a.add y.2) Sat.zero
      let heats := rs.foldl (fun k y => k + deadHeats n y.1) 0
      let s := (indexed rs).foldl (fun s y =>
        s.putLoc c q r e x.t.tile out (locOff out e + y.1 * (24 * n)) (candRow n (topCands n y.2.1))) s
      let keys := (toks.filter (fun t => t.2.1)).map Prod.fst
      { x with s := s.modRun c q (fun r => { (r.addSat (s.effMode r.cmd lr.logit) sat).addCount (Key.routeDeadHeats c) heats with
          gateKeys := dedup (r.gateKeys ++ keys) }) }
  | .lookahead layer hidden rows hf pf =>
    match s.layerRec layer with
    | none => x
    | some lr => { x with s := s.lookahead c r e lr hidden rows hf pf }
  | .selectP layer scores =>
    match s.predRec layer with
    | none => x
    | some p =>
      let rd := s.reader c r e scores.place
      let sets := (List.range e.tokens).map (fun j =>
        if s.predMode p = 0 then List.range p.units
        else predictedSet p (fun u => rdNat rd (locOff scores e + j * scores.group + 4 * u) 4))
      { x with s := s.selectionRecord c r x.t.tile x.t.segIndex (unionUnits p.units sets).length,
               t := { x.t with maskP := sets, maskLayer := some layer } }
  | .selectN layer acts =>
    match s.predRec layer with
    | none => x
    | some p =>
      let rd := s.reader c r e acts.place
      let mode := s.predMode p
      let sets := (List.range e.tokens).map (fun j =>
        if mode = 0 then List.range p.units
        else neededSet p (fun i => rdNat rd (locOff acts e + j * acts.group + 4 * i) 4))
      let s := s.selectionRecord c r x.t.tile x.t.segIndex (unionUnits p.units sets).length
      let s := if mode = 0 ∨ x.t.tile ≠ s.countTile r layer then s
        else (indexed sets).foldl (fun s y =>
          let n := maskCounts (x.t.maskP.getD y.1 []) y.2
          s.modRun c q (fun r => (((r.addCount (Key.predUnitsPredicted c) n.1).addCount (Key.predUnitsNeeded c) n.2.1).addCount
            (Key.predUnitsWasted c) n.2.2.1).addCount (if mode = 1 then Key.predUnitsRepaired c else Key.predUnitsLost c) n.2.2.2)) s
      { x with s := s, t := { x.t with maskN := sets, maskLayer := some layer } }
  | .selectServed layer =>
    match s.layerRec layer with
    | none => x
    | some lr =>
      let g := s.servedGroups c layer (s.layerSelf lr)
      let s := s.modRun c q (fun r => { r with served := g })
      { x with s := s.selectionRecord c r x.t.tile x.t.segIndex g.length }

/-! ### Near-stack streams (R75, R161, R166) -/

/-- CCLK from a near-stack request to its first data: 112, and 128 under conservative timing (R75, R166). -/
def State.nearLatency (s : State) : Nat := if s.reg Key.hbmTimingMode = 1 then 128 else 112

/-- Bytes per CCLK that one near stack sustains: half of the tile's 2,980, scaled by 8.0 ÷ 9.6 under conservative timing (R69,
R75, R166, log 127). -/
def State.nearRate (s : State) : Nat := if s.reg Key.hbmTimingMode = 1 then 1490 * 80 / 96 else 1490

/-- The stack of a tile's near pair. -/
def nearStack (tile b : Nat) : Option (Fin 8) := stackIndex? (2 * tile + b)

/-- Quiet marks and stream requests of an issue set at a cycle of the tile's clock: a marked stack gets no request for 64 CCLK
(R73, R75, R161). -/
def SegSt.requests (x : SegSt) (i : IssueSet) (at_ : Nat) : SegSt :=
  let mark (x : SegSt) (b : Nat) : SegSt :=
    match bit i.quiet b, nearStack x.t.tile b with
    | true, some st => { x with
        s := x.s.quietSlot st
        t := { x.t with quietUntil := if b = 0 then (at_ + slotCclk, x.t.quietUntil.2) else (x.t.quietUntil.1, at_ + slotCclk) } }
    | _, _ => x
  let x := mark (mark x 0) 1
  i.streams.foldl (fun x st =>
    if st.stack / 2 ≠ x.t.tile then x
    else
      let from_ := max at_ (if st.stack % 2 = 0 then x.t.quietUntil.1 else x.t.quietUntil.2)
      let rate := if st.rate = 0 then x.s.nearRate else min st.rate x.s.nearRate
      { x with t := { x.t with
          streams := (st.id, from_ + x.s.nearLatency, rate) :: x.t.streams.filter (fun y => y.1 != st.id) } }) x

/-- CCLK that the consumption of near-stack data at a cycle comes before its delivery (R73, R75). -/
def TileRun.shortfall (t : TileRun) (takes : List (Nat × Nat)) (at_ : Nat) : Nat :=
  takes.foldl (fun n y =>
    match t.streams.find? (fun z => z.1 == y.1) with
    | some z => max n (z.2.1 + ((y.2 + z.2.2 - 1) / z.2.2 - 1) - at_)
    | none => n) 0

/-- One issue set: wakes, conflicts, wake stalls, pads and the near streams' stall first; then operand feed, drains, Vector Unit,
hub (R71, R73). Of several rows left gated that issue in one CCLK each counts one stall and all take one delay; each access more
than one to a bank counts one conflict; a row that the schedule wakes is awake at once (log 47). -/
def SegSt.set (x : SegSt) (c : Fin 4) (q : Fin 8) (r : Run) (e : Replay) (i : IssueSet) : SegSt :=
  let x := x.wake ((List.range 32).filter (fun n => bit i.wake n)) (i.at_ + x.delay)
  let conf := bankConflicts i.ports
  let x := { x with s := x.s.bump (Key.wsConflictCount x.t.tile) conf, delay := x.delay + conf }
  let stalled := dedup ((i.lanes.map LaneIssue.row).filter x.gated.contains)
  let x := if stalled.isEmpty then x else
    let y := x.wake stalled (i.at_ + x.delay)
    { y with s := y.s.bump (Key.wakeStallCount y.t.tile) stalled.length, delay := y.delay + wakeCclk }
  let pad := x.padOf i.drains
  let x := { x with
    s := x.s.bump (Key.latencyPadCycles x.t.tile) pad, delay := x.delay + pad, t := { x.t with pads := x.t.pads + pad } }
  let late := x.t.shortfall i.takes (x.t.clock + i.at_ + x.delay)
  let x := { x with s := x.s.bump (Key.streamStallCycles x.t.tile) late, delay := x.delay + late, stall := x.stall + late }
  let at_ := x.t.clock + i.at_ + x.delay
  let x := (x.requests i at_).landVec c q at_
  let x := i.lanes.foldl (fun x l => x.lane c q r e l at_) x
  let x := i.drains.foldl (fun x d => x.drain c q r e d at_) x
  let x := match i.vec with
    | some v => x.vec c q r e v at_
    | none => x
  i.hub.foldl (fun x h => x.hub c q r e h) x

/-- CCLK since the last quiet slot of the near stacks of a tile that has run a segment of `n` CCLK up to clock `end_`: from the
end of the slot when one was marked in it (R161, R163). -/
def State.sinceSlots (s : State) (t : TileRun) (n end_ : Nat) : State :=
  let one (s : State) (b : Nat) : State :=
    match nearStack t.tile b with
    | none => s
    | some st =>
      let u := if b = 0 then t.quietUntil.1 else t.quietUntil.2
      s.modStack st (fun k => { k with sinceSlot := if end_ < u + n then end_ - u else k.sinceSlot + n })
  one (one s 0) 1

/-- The rows gated in a segment from its first cycle: those its mask names, and those gated before and not yet woken (R79). -/
def State.gatedRows (s : State) (tile feather : Nat) : List Nat :=
  if s.force Key.featherEnable = 1 then
    (List.range 32).filter (fun n => bit feather n || (s.tileHw tile).gated.contains n)
  else []

/-- Replay one segment on a tile (R73, R79): its sets in order, then its cycles. Answers also the CCLK it stalls for near-stack
data. -/
def State.runSegment (s : State) (c : Fin 4) (q : Fin 8) (r : Run) (t : TileRun) (e : Replay) : State × Nat :=
  let gated := s.gatedRows t.tile e.seg.feather
  let x := e.seg.sets.foldl (fun x i => x.set c q r e i) (⟨s, { t with segIndex := e.index }, 0, 0, gated, 0⟩ : SegSt)
  let n := e.seg.count + x.delay
  let s := (x.s.bump (Key.featheredRowCycles t.tile) (x.feathered + x.gated.length * n)).bump (Key.blockCycles t.tile) n
  let s := s.modTile t.tile (fun h => { gated := x.gated, counted := max h.counted s.nowCclk + n })
  let t := { x.t with cycles := x.t.cycles + n }
  ((s.sinceSlots t n t.clock).setTile c q t, x.stall)

/-! ### What a segment reads (R70, R156, R160, R185) -/

/-- Byte ranges a segment reads: place, offset, bytes. -/
def State.segmentReads (s : State) (e : Replay) : List (Place × Nat × Nat) :=
  e.seg.sets.flatMap (fun i =>
    i.lanes.flatMap (fun l =>
      (l.own.loc.toList ++ l.fill.toList).flatMap (fun o => (List.range 64).map (fun n =>
        let y := laneOwnSpan l (locOff o e + n * l.stride)
        (o.place, y.1, y.2))) ++
      (let y := laneShSpan l (locOff l.shared e)
       [(l.shared.place, y.1, y.2)])) ++
    (match i.vec with
     | none => []
     | some v => (v.srcs.filterMap VecSrc.loc).map (fun l => match v.fn with
         | .convert .fp4 _ => let y := segSpan .fp4 (locOff l e) (v.n + 31); (l.place, y.1, y.2)
         | .convert src _ => (l.place, locOff l e, src.bytesOf v.n)
         | _ => (l.place, locOff l e, 4 * v.n))) ++
    i.hub.flatMap (fun h =>
      let whole (h : Nat) : List (Place × Nat × Nat) := match s.objRec h with | some o => [(.handle h, 0, o.size)] | none => []
      match h with
      | .gate layer hidden rows hf _ _ =>
        match s.layerRec layer with
        | none => []
        | some lr => (hidden.place, locOff hidden e, rows * rowBytes hf lr.dModel) :: (whole lr.tagHandle ++ whole lr.gate ++ whole lr.bias)
      | .lookahead layer hidden rows hf _ =>
        match s.layerRec layer with
        | none => []
        | some lr => (hidden.place, locOff hidden e, rows * rowBytes hf lr.dModel) :: (whole lr.tagHandle ++ whole lr.laP1 ++ whole lr.laP2)
      | .selectP layer l => match s.predRec layer with | some p => (List.range e.tokens).map (fun j => (l.place, locOff l e + j * l.group, 4 * p.units)) | none => []
      | .selectN layer l => match s.predRec layer with | some p => (List.range e.tokens).map (fun j => (l.place, locOff l e + j * l.group, 128 * p.units)) | none => []
      | .selectServed _ => []))

/-- Tiles of an object a byte range touches. -/
def tilesIn (o : ObjRec) (off n : Nat) : List Nat :=
  (List.range o.tileCount).filter (fun j => let sp := o.tileSpan j; decide (off < sp.1 + sp.2 ∧ sp.1 < off + n))

/-- The code word or unit of `k` bytes at `u` holds bytes of an object that a read of `n` bytes at `off` touches: in a frame of
the version, or in a part of it that lies in a Working Store. -/
def versionHit (o : ObjRec) (v : Version) (off n u k : Nat) : Bool :=
  (decide (u < 0xC000000000) && (match v.frames.findIdx? (fun f => f == u / frameBytes) with
    | none => false
    | some j =>
      let at_ := (o.tileSpan j).1 + u % frameBytes
      decide (off < at_ + k ∧ at_ < off + n))) ||
  v.store.any (fun x =>
    let lo := max u x.2.2
    let hi := min (u + k) (x.2.2 + x.2.1)
    decide (lo < hi ∧ x.1 + (lo - x.2.2) < off + n ∧ off < x.1 + (hi - x.2.2)))

/-- The handle a segment's reads reach in a code word or unit, all ones for a landed row; `none` when they do not reach it. -/
def State.readHit (s : State) (c : Fin 4) (r : Run) (e : Replay) (reads : List (Place × Nat × Nat)) (u k : Nat) : Option Nat :=
  reads.findSome? (fun x =>
    match s.homeOf r e x.1 with
    | .staged h v => match s.objRec h with
      | some o => if versionHit o v x.2.1 x.2.2 u k then some h else none
      | none => none
    | .committed h =>
      match s.objRec h with
      | none => none
      | some o =>
        if (match s.inputVersion h c with | some v => versionHit o v x.2.1 x.2.2 u k | none => false) then some h
        else if s.mem.stagings.any (fun g => g.handle == h && g.frames.contains (u / frameBytes)) then some h
        else none
    | .row j =>
      match s.rowBuf c (s.layerOf r.cmd) j with
      | some b => if s.bufAddr b < u + k ∧ u < s.bufAddr b + b.bytes then some none32 else none
      | none => none
    | .nowhere => none)

/-- Landed rows that the gate work of a segment reads, as addresses and bytes (R131). -/
def State.segmentRows (s : State) (c : Fin 4) (e : Replay) : List (Nat × Nat) :=
  dedup (e.seg.sets.flatMap (fun i => i.hub.flatMap (fun h => match h with
    | .gate layer .. => s.gateRows c layer
    | .lookahead layer .. => s.gateRows c layer
    | _ => [])))

/-- Objects a segment reads under committed versions (R24, R176). -/
def State.segmentObjs (s : State) (r : Run) (e : Replay) : List Nat :=
  dedup ((s.segmentReads e).filterMap (fun x => match s.homeOf r e x.1 with
    | .committed h => some h
    | _ => none))

/-- Reader code of a tile's read of an address: near or far stream (R165). -/
def streamReader (tile addr : Nat) : Nat := if stackOfAddr addr / 2 = tile then 0 else 1

/-- Check what a segment reads: words in error, poison and LOST units. Answers whether the segment may run. -/
def State.checkReads (s : State) (c : Fin 4) (q : Fin 8) (r : Run) (t : TileRun) (e : Replay) : State × Bool :=
  let reads := s.segmentReads e
  let rows := s.segmentRows c e
  let words := (s.suspects (fun _ _ => true)).filterMap (fun a =>
    let u := s.errorUnit a
    let hit := match s.readHit c r e reads u.1 u.2 with
      | some h => some h
      | none => if rows.any (fun x => decide (x.1 < u.1 + u.2 ∧ u.1 < x.1 + x.2)) then some none32 else none
    hit.map (fun h => (a, h)))
  let x := words.foldl (fun (x : State × Bool) y =>
    if !x.2 then x
    else
      let s := x.1
      let a := y.1
      let z := s.readAt c (streamReader t.tile a) a (s.upsetAt a)
      match z.1 with
      | .ok => (z.2, true)
      | .fail => (z.2.ctxFault c 0x10 r.entry.command 0x06 (Key.hbmUeCount (stackOfAddr a)) (a / 4096), false)
      | .act => (z.2.actDetected c q y.2 a, false)
      | .hold stripe =>
        let s := (z.2.startLocalDecode stripe).2
        match s.tileOf c q t.tile with
        | none => (s, false)
        | some (_, t) => (s.setTile c q { t with
            hold := if t.hold.contains (stripe, s.groupIndex) then t.hold else t.hold ++ [(stripe, s.groupIndex)],
            holdSince := if t.hold.isEmpty then (s.now, s.tick) else t.holdSince }, false)) (s, true)
  if !x.2 then x
  else
    let lost := reads.findSome? (fun y =>
      match x.1.homeOf r e y.1 with
      | .committed h => match x.1.objRec h with
        | some o => (tilesIn o y.2.1 y.2.2).findSome? (fun j => x.1.lostStripe h j)
        | none => none
      | _ => none)
    match lost with
    | none => x
    | some stripe =>
      let s := x.1.startRebuild stripe
      (s.setTile c q { t with hold := [(stripe, s.groupIndex)], holdSince := (s.now, s.tick) }, false)

/-! ### The sequence of replays (R73, R74, R98, R136, R452) -/

/-- Marks that repeat over units. -/
def unitMark : Repeat → Bool
  | .unitP => true | .unitN => true | .unitPN => true | .unitRepair => true | .once => false | .served => false

/-- The wait of a wait point is satisfied by what the module itself holds; streams and deliveries are told by the row
that ends their wait (R34, R74). -/
def State.pointMet (s : State) (c : Fin 4) (q : Fin 8) : WaitPoint → Bool
  | .counter i t => decide (t ≤ s.counter c i)
  | .fetch h => !s.notStaged c q h
  | .farStream _ => false
  | .codec _ => false
  | .fabric _ => false

/-- Served groups with the number of tokens before each. -/
def withFirst : Nat → List ServedGroup → List (ServedGroup × Nat)
  | _, [] => []
  | n, g :: t => (g, n) :: withFirst (n + g.keys.length) t

/-- Unfold the repeat range at the head of what is left (R452): served groups, or units of the mask. -/
def State.unfold (s : State) (r : Run) (t : TileRun) (e : Replay) : Option (List Replay) :=
  if e.seg.mark = .served ∧ e.group.isNone then
    let inside (x : Replay) : Bool := x.seg.mark == .served || unitMark x.seg.mark
    let range := t.todo.takeWhile inside
    some ((withFirst 0 r.served).flatMap (fun g => range.map (fun x => { x with group := some g })) ++ t.todo.dropWhile inside)
  else if unitMark e.seg.mark ∧ e.unit.isNone then
    let inside (x : Replay) : Bool := x.seg.mark == e.seg.mark && x.group == e.group && x.unit.isNone
    let range := t.todo.takeWhile inside
    let us := match t.maskLayer.bind s.predRec with
      | none => []
      | some p => unionUnits p.units ((List.range (max t.maskP.length t.maskN.length)).map (fun j =>
          markUnits (s.predMode p) p.units e.seg.mark (t.maskP.getD j []) (t.maskN.getD j [])))
    some (us.flatMap (fun u => range.map (fun x => { x with unit := some u })) ++ t.todo.dropWhile inside)
  else none

/-- The end of a schedule: Vector Unit results still on their way take their places (R72). -/
def State.endSchedule (s : State) (c : Fin 4) (q : Fin 8) (t : TileRun) : State :=
  let x := (⟨s, t, 0, 0, [], 0⟩ : SegSt).landVec c q (t.vecFlight.foldl (fun n y => max n y.1) 0)
  x.s.setTile c q x.t

/-- The end of a segment: its wait point opens, is already satisfied, or there is none (R74). -/
def State.endSegment (s : State) (c : Fin 4) (q : Fin 8) (tile : Nat) (w : Option WaitPoint) : State × Bool :=
  match s.tileOf c q tile with
  | none => (s, false)
  | some (r, t) =>
    match w with
    | some w =>
      if s.pointMet c q w then (s.closeWait c r.entry.command t w s.now s.tick false, true)
      else (s.setTile c q { t with waiting := some (w, s.now, s.tick) }, false)
    | none => (s, true)

/-- One step of a tile: unfold a range, begin a wait, or replay a segment up to its wait point. Answers whether the tile
can go on; `skip` passes a near-stream stall that has ended. -/
def State.seqStep (s : State) (c : Fin 4) (q : Fin 8) (tile : Nat) (skip : Bool) : State × Bool :=
  match s.tileOf c q tile with
  | none => (s, false)
  | some (r, t) =>
    if t.waiting.isSome ∨ !t.hold.isEmpty ∨ t.stalled then (s, false)
    else match t.todo with
      | [] => (s.endSchedule c q t, false)
      | e :: rest =>
        match s.unfold r t e with
        | some l => (s.setTile c q { t with todo := l }, true)
        | none =>
          let objs := s.segmentObjs r e
          let s := s.modRun c q (fun r => { r with objs := dedup (r.objs ++ objs) })
          match objs.find? (fun h => s.notStaged c q h) with
          | some h =>
            let s := s.waitFetch c q h
            (s.setTile c q { t with waiting := some (.fetch h, s.now, s.tick), segIndex := e.index }, false)
          | none =>
            let x := s.checkReads c q r t e
            if !x.2 then (x.1, false)
            else
              let y := x.1.runSegment c q r { t with todo := rest } e
              -- near-stack data that the segment consumes early stops the tile until it arrives
              if y.2 ≠ 0 ∧ !skip then (x.1.setTile c q { t with stalled := true }, false)
              else
                match y.1.mem.writeHurt with
                | some a => ((y.1.modMem (fun m => { m with writeHurt := none })).actDetected c q none32 a, false)
                | none => y.1.endSegment c q tile e.seg.wait

/-- Replays of a block are at most this many. -/
abbrev blockFuel : Nat := 1048576

/-- Let a tile replay until it waits, is held, or ends. -/
def State.runTile (s : State) (c : Fin 4) (q : Fin 8) (tile : Nat) : Nat → State
  | 0 => s
  | fuel + 1 =>
    let x := s.seqStep c q tile false
    if x.2 then State.runTile x.1 c q tile fuel else x.1

/-- A tile at the start of a block. -/
def TileRun.fresh (k : TileSched) : TileRun :=
  { tile := k.tile, assumed := k.assumed, todo := (indexed k.segs).map (fun x => ⟨x.2, x.1, none, none⟩), segIndex := 0, cycles := 0,
    waitCclk := 0, waiting := none, hold := [], holdSince := (0, 0), stalled := false, gated := false, accs := [], flight := [],
    vecAccs := [], own := [], shadow := [], terms := [], vecFlight := [], outs := [], streams := [], quietUntil := (0, 0),
    maskLayer := none, maskP := [], maskN := [], pads := 0, issued := [] }

/-- A tile begins a block after a stretch without one: rows left gated have been so all along, and 64 CCLK are a quiet slot of
its near stacks (R81, R82, R161). -/
def State.wakeTile (s : State) (tile : Nat) : State := s.gatedWait tile (s.nowCclk - (s.tileHw tile).counted) 0 0

/-- The bias tables that a block's gate work uses: those committed when the block issues (R125). -/
def State.biasAtIssue (s : State) (c : Fin 4) (b : Block) : List (Nat × List Byte) :=
  let layers := b.scheds.flatMap (fun t => t.segs.flatMap (fun g => g.sets.flatMap (fun i => i.hub.filterMap (fun h =>
    match h with | .gate l .. => some l | _ => none))))
  ((dedup layers).filterMap s.layerRec).filterMap (fun lr =>
    if lr.bias = none32 then none else some (lr.bias, s.objBytes lr.bias c 0 (8 * lr.experts)))

/-- An issued BLOCK: the sequencers of its target tiles begin (R73). -/
def State.blockStart (s : State) (c : Fin 4) (q : Fin 8) : State :=
  match s.run c q with
  | none => s
  | some r =>
    match s.blockOf r.cmd with
    | none => s
    | some b =>
      let ts := (b.scheds.filter (fun k => bit r.cmd.target k.tile)).map TileRun.fresh
      let s := s.modRun c q (fun r => { r with tiles := ts, bias := s.biasAtIssue c b })
      let s := s.forEach ts (fun s t => s.wakeTile t.tile)
      s.forEach ts (fun s t => s.runTile c q t.tile blockFuel)

/-- BLOCK (R73). -/
def execBlock (c : Fin 4) (q : Fin 8) (found : List (Nat × Finding)) (s : State) : Host.Outcome State Fault Refusal :=
  .next (
    let x := (s.tellFound c 0 found).issue c q (fun r => r.cmd.kind == 1 && r.plainIssue)
    if x.2 then x.1.blockStart c q else x.1)

/-- Every tile of a block has replayed its schedule. -/
def Run.blockDone (r : Run) : Bool :=
  r.tiles.all (fun t => t.todo.isEmpty && t.waiting.isNone && t.hold.isEmpty && !t.stalled)

/-- Own tick at which the first of a run's tiles began to wait for the fetch of an object. -/
def Run.fetchSince (r : Run) (h now : Nat) : Nat :=
  r.tiles.foldl (fun n t => match t.waiting with | some (.fetch x, start, _) => if x = h then min n start else n | _ => n) now

/-- The wait of a tile ends: its record, counters, and for an expert's WAIT fetch the exchange's counts, once for the fetch however
many tiles wait for it (R74, R138). -/
def State.endWait (s : State) (c : Fin 4) (q : Fin 8) (r : Run) (t : TileRun) (w : WaitPoint) (start tick : Nat) : State :=
  let s := s.closeWait c r.entry.command t w start tick false
  let dur := (s.now - start) * cclkPerTick
  let slot (s : State) (b : Nat) : State := match nearStack t.tile b with | some st => s.quietSlot st | none => s
  let s := if dur < slotCclk then s else slot (slot s 0) 1
  let expert (h : Nat) : Bool := match s.objRec h with | some o => o.isExpert | none => false
  let s := match w with
    | .fetch h =>
      if !expert h || r.fetched.contains h then s
      else ((s.stageCount c q (Key.xchFetchWaits c) 1).stageCount c q (Key.xchFetchWaitTicks c) (s.now - r.fetchSince h s.now)).modRun c q
        (fun r => { r with fetched := h :: r.fetched })
    | _ => s
  s.setTile c q { t with
    waiting := none, gated := false, waitCclk := t.waitCclk + dur + (if t.gated then wakeCclk else 0) }

/-- BLOCK_WAIT_RESUME (R74): the wait of a tile is satisfied, or its held stream is served, and the replay goes on. -/
def execBlockWaitResume (c : Fin 4) (q : Fin 8) (tile : Fin 4) (dt : Nat) (found : List (Nat × Finding)) (s : State) :
    Host.Outcome State Fault Refusal :=
  .next (
    let s := (s.advance dt).tellFound c 0 found
    match s.tileOf c q tile with
    | none => s
    | some (r, t) =>
      match t.waiting with
      | some (w, start, tick) =>
        let told := match w with | .counter _ _ => false | .fetch _ => false | _ => true
        if told || s.pointMet c q w then (s.endWait c q r t w start tick).runTile c q tile blockFuel else s
      | none => s.runTile c q tile blockFuel)

/-- NEAR_STREAM_STALL_END (R73): near-stack data that the schedule consumes early has arrived; the segment runs with the stall
that its requests and rates come to. -/
def execNearStreamStallEnd (c : Fin 4) (q : Fin 8) (tile : Fin 4) (found : List (Nat × Finding)) (s : State) :
    Host.Outcome State Fault Refusal :=
  .next (
    let s := s.tellFound c 0 found
    match s.tileOf c q tile with
    | none => s
    | some (_, t) =>
      if !t.stalled then s
      else
        let x := (s.setTile c q { t with stalled := false }).seqStep c q tile true
        if x.2 then x.1.runTile c q tile blockFuel else x.1)

/-- WAIT_FEATHER (R80): a wait that has lasted `FEATHER_IDLE_MIN` CCLK gates every row of the tile, unless it is satisfied
in the same CCLK (R81). -/
def execWaitFeather (c : Fin 4) (q : Fin 8) (tile : Fin 4) (dt : Nat) (s : State) : Host.Outcome State Fault Refusal :=
  .next (
    let s := s.advance dt
    match s.tileOf c q tile with
    | none => s
    | some (_, t) =>
      match t.waiting with
      | none => s
      | some (w, start, _) =>
        if s.force Key.featherEnable ≠ 1 ∨ (s.now - start) * cclkPerTick < s.force Key.featherIdleMin ∨ s.pointMet c q w then s
        else s.setTile c q { t with gated := true })

/-! ### The block budget (R36, R37) -/

/-- Budgets of a command: block budget in CCLK, command budget in ticks; both from the command's own DEADLINES entry (log 87). -/
def State.budgets (s : State) (cmd : Command) : Nat × Nat :=
  match s.image with
  | some im => im.deadlines.getD cmd.deadline (none32, none32)
  | none => (none32, none32)

/-- A tile of the run has spent more CCLK in its block than the budget allows. -/
def State.overBlockBudget (s : State) (r : Run) : Bool :=
  r.cmd.kind == 1 && r.tiles.any (fun t => decide ((s.budgets r.cmd).1 < t.cycles))

/-- DEADLINE_MISS with the budget that expired (R36, R37). -/
def State.deadlineMiss (s : State) (c : Fin 4) (r : Run) (budget : Nat) : State :=
  (s.bump Key.deadlineMissCount 1).ctxFault c 0x30 r.entry.command 0x01 (Key.ctxFaultCode c) budget

/-- BLOCK_BUDGET_EXPIRY (R36). -/
def execBlockBudgetExpiry (c : Fin 4) (q : Fin 8) (s : State) : Host.Outcome State Fault Refusal :=
  .next (
    match s.run c q with
    | none => s
    | some r => if r.running && s.overBlockBudget r then s.deadlineMiss c r (s.budgets r.cmd).1 else s)

end Sys2Proof.Machine
end

