-- ==== Sys2Proof/Machine/MemFabric.lean ====
section
/-! DEFINITION. The memory fabric (spec/13): the sender's window table, async copies and their pieces, exported windows
and the requests applied at a target, responses, and the rows COPY_LOCAL, PUT, GET, ATOMIC_LIST, LOAD, STORE, ATOMIC,
SIGNAL, LOAD_DATA, ATOMIC_DATA and MF_RESPONSE_TIMEOUT. -/
namespace Sys2Proof.Machine

/-! ### The sender's side (R249, R254) -/

/-- Destination field and offset of a remote address; `none` when bit 51 is clear (R146, R249). -/
def remoteParts (a : Nat) : Option (Nat × Nat) := if bit a 51 then some (a / 2 ^ 35 % 65536, a % 2 ^ 35) else none

/-- The image's destinations are ranks. -/
def State.rankAddressed (s : State) : Bool := match s.image with | some im => bit im.header.flags 0 | none => false

/-- Address of a destination field: a rank, or a coordinate with aux 0 (R249). -/
def State.destAddr (s : State) (d : Nat) : Option Addr := if s.rankAddressed then s.rankAddr d else some ⟨d, 0⟩

/-- Rights of a request: LOAD, STORE, ATOMIC. -/
abbrev rightLoad : Nat := 0
abbrev rightStore : Nat := 1
abbrev rightAtomic : Nat := 2

/-- Some entry of the window table covers a request (R254, step 3). -/
def State.windowCovers (s : State) (c : Fin 4) (dest off n right : Nat) : Bool :=
  (List.range 64).any (fun i =>
    let f (a k : Nat) := s.bulkForce (Key.mfWindowTable c) (24 * i + a) k
    decide (f 0 2 ≤ dest ∧ dest ≤ f 2 2) && bit (f 4 1) right && decide (f 8 8 ≤ off ∧ off + n ≤ f 8 8 + f 16 8))

/-- The step of the sender's checks that a request fails, 0 for none (R254): 3 window, 4 alignment, 5 page. -/
def State.windowStep (s : State) (c : Fin 4) (dest off n right : Nat) : Nat :=
  if !s.windowCovers c dest off n right then 3
  else if right = rightAtomic ∧ !((n = 4 ∨ n = 8) ∧ off % n = 0) then 4
  else if right ≠ rightAtomic ∧ off / 4096 ≠ (off + n - 1) / 4096 then 5
  else 0

/-- Send one request of a COPY to a target and offset, or hold it back while the NI is at a bound. Answers whether it has gone (R246,
R254). -/
def State.sendRequest (s : State) (c : Fin 4) (q : Fin 8) (remote : Option (Nat × Nat)) (n right piece : Nat) (b : Nat → Body) : State × Bool :=
  let refuse (s : State) (a : Addr) := ((s.txnFailed (runOwner c q) 0x21 a piece).drainFails, true)
  match remote with
  | none => refuse ((s.bump Key.niRefusedDest 1).log sevWarning c 0x0A none32 Key.niRefusedDest 0) ⟨0, 0⟩
  | some (d, off) =>
    match s.destAddr d with
    | none => refuse s ⟨0, 0⟩
    | some a =>
      if !s.isMember a then ((s.sendTo (runOwner c q) c 3 a piece (b off)).drainFails, true)
      else
        let step := s.windowStep c d off n right
        if step ≠ 0 then
          refuse ((s.bump Key.mfWindowRefused 1).log sevWarning c 0x0B none32 Key.mfWindowRefused step) a
        else if !s.isFailed a && (s.atBound [a] || s.fab.queued.any (fun t => t.left.any (fun x => x.1 == a))) then (s, false)
        else ((s.sendTo (runOwner c q) c 3 a piece (b off)).drainFails, true)

/-! ### Async copies (R260 to R262) -/

/-- The COPY record of a command. -/
def Command.copyRec (c : Command) : Option CopyRec :=
  match c.param with
  | .copy r => if c.kind = 4 then some r else none
  | _ => none

/-- Pieces of a range: cut at every 4 KiB boundary of the remote offset. -/
def cutPages : Nat → Nat → Nat → Nat → List (Nat × Nat × Nat)
  | 0, _, _, _ => []
  | fuel + 1, lo, off, n =>
    if n = 0 then []
    else
      let k := min n (4096 - off % 4096)
      (lo, off, k) :: cutPages fuel (lo + k) (off + k) (n - k)

/-- Send one piece of a COPY (R261). -/
def State.sendPiece (s : State) (c : Fin 4) (q : Fin 8) (r : Run) (p : CopyRec) (x : Nat × Nat × Nat) : State × Bool :=
  let inp := r.cmd.inputs.getD 0 none32
  let target := (remoteParts p.remote).map (fun d => (d.1, x.2.1))
  if p.op = 2 then
    let data := s.objBytes inp c x.1 x.2.2
    s.sendRequest c q target x.2.2 rightStore x.1 (fun off => .store off data)
  else if p.op = 3 then
    s.sendRequest c q target x.2.2 rightLoad x.1 (fun off => .load off x.2.2)
  else
    let f (a k : Nat) := leNat (s.objBytes inp c (p.localOffset + 32 * x.1 + a) k)
    s.sendRequest c q (remoteParts (f 0 8)) (f 9 1) rightAtomic x.1 (fun off => .atomic off (f 8 1) (f 9 1) (bit p.flags 0) (f 16 8) (f 24 8))

/-- Send the pieces of a COPY while the NI takes them; `fuel` bounds their number. -/
def State.copyPump (s : State) (c : Fin 4) (q : Fin 8) : Nat → State
  | 0 => s
  | fuel + 1 =>
    match s.run c q with
    | none => s
    | some r =>
      match r.cmd.copyRec, r.copy with
      | some p, some k =>
        match k.todo with
        | [] => s
        | x :: rest =>
          if !r.running then s
          else
            let y := s.sendPiece c q r p x
            if y.2 then State.copyPump (y.1.modRun c q (fun r => { r with copy := r.copy.map (fun _ => ⟨rest, true⟩) })) c q fuel
            else y.1
      | _, _ => s

/-- Pieces still to send. -/
def Run.copyTodo (r : Run) : Nat := match r.copy with | some k => k.todo.length | none => 0

/-- Every COPY tries to send again. -/
def State.copyPumpAll (s : State) : State :=
  s.forEach allCtx (fun s c => s.forEach allQueues (fun s q => match s.run c q with
    | some r => s.copyPump c q r.copyTodo
    | none => s))

/-- A COPY that has issued begins once its source can be read (R261). -/
def State.copyStart (s : State) (c : Fin 4) (q : Fin 8) : State :=
  match s.run c q with
  | none => s
  | some r =>
    match r.cmd.copyRec with
    | none => s
    | some p =>
      if !r.running ∨ r.copy.isSome then s
      else
        let x := if p.op = 3 then (s, true) else s.hubAccess c q [(r.cmd.inputs.getD 0 none32, p.localOffset, if p.op = 4 then 32 * p.count else p.length)]
        if !x.2 then x.1
        else
          let s := x.1
          let out := r.cmd.outputs.getD 0 none32
          let begin_ (s : State) (l : List (Nat × Nat × Nat)) : State :=
            (s.modRun c q (fun r => { r with copy := some ⟨l, false⟩ })).copyPump c q l.length
          if p.op = 1 then
            let bs := s.objBytes (r.cmd.inputs.getD 0 none32) c p.localOffset p.length
            let s := match r.stagedOf out, s.objRec out with
              | some v, some o => s.verWrite c 3 o v p.localOffset bs
              | _, _ => s
            begin_ s []
          else if p.op = 4 then begin_ s ((List.range p.count).map (fun i => (i, 0, 0)))
          else begin_ s (cutPages (p.length / 4096 + 2) p.localOffset (p.remote % 2 ^ 35) p.length)

/-- A COPY of an operation that a plain issue row serves. -/
def isCopy (op : Nat) (r : Run) : Bool :=
  r.plainIssue && (match r.cmd.copyRec with | some p => p.op == op | none => false)

/-- A COPY row: it issues, or begins the copy that waited for its source. -/
def State.copyRow (s : State) (c : Fin 4) (q : Fin 8) (op : Nat) : State :=
  let x := s.issue c q (isCopy op)
  let again := match x.1.run c q with
    | some r => r.running && r.copy.isNone && (match r.cmd.copyRec with | some p => p.op == op | none => false)
    | none => false
  if x.2 || again then x.1.copyStart c q else x.1

/-- COPY_LOCAL (R260). -/
def execCopyLocal (c : Fin 4) (q : Fin 8) (found : List (Nat × Finding)) (s : State) : Host.Outcome State Fault Refusal := .next ((s.tellFound c 3 found).copyRow c q 1)

/-- PUT (R261). -/
def execPut (c : Fin 4) (q : Fin 8) (found : List (Nat × Finding)) (s : State) : Host.Outcome State Fault Refusal := .next ((s.tellFound c 3 found).copyRow c q 2)

/-- GET (R261). -/
def execGet (c : Fin 4) (q : Fin 8) (s : State) : Host.Outcome State Fault Refusal := .next (s.copyRow c q 3)

/-- ATOMIC_LIST (R261). -/
def execAtomicList (c : Fin 4) (q : Fin 8) (found : List (Nat × Finding)) (s : State) : Host.Outcome State Fault Refusal := .next ((s.tellFound c 3 found).copyRow c q 4)

/-- A COPY is complete: begun, every piece sent and none outstanding (R261). -/
def State.copyDone (s : State) (c : Fin 4) (q : Fin 8) (r : Run) : Bool :=
  (match r.copy with | some k => k.todo.isEmpty | none => false) && !s.ownerBusy (runOwner c q)

/-! ### Exported windows (R251, R252) -/

/-- The segment in force that holds a range of offsets: context, handle, offset in the object. -/
def State.exportAt (s : State) (off n : Nat) : Option (Fin 4 × Nat × Nat) :=
  allCtx.findSome? (fun c => (s.ctx c).exports.findSome? (fun e =>
    match s.objRec e.2.2 with
    | some o =>
      if e.2.1 ≤ off ∧ off + n ≤ e.2.1 + tilesOf o.size * frameBytes then some (c, e.2.2, off - e.2.1) else none
    | none => none))

/-- Module physical address of a byte of a segment: bytes past the object's size lie in the rest of its last frame. -/
def segmentAddr (o : ObjRec) (v : Version) (off : Nat) : Option Nat :=
  if off < o.size then v.addr o off
  else if o.quartered then none
  else (v.frames[off / frameBytes]?).map (fun f => f * frameBytes + off % frameBytes)

/-- The version a remote request reaches (R251). -/
def State.exportVersion (s : State) (c : Fin 4) (h : Nat) : Option Version :=
  match s.inst h c with
  | some i => i.hot
  | none => none

/-- Bytes of a segment. -/
def State.segmentBytes (s : State) (o : ObjRec) (v : Version) (off n : Nat) : List Byte :=
  (List.range n).map (fun i => match segmentAddr o v (off + i) with
    | some a => cellGet s.mem.cells a
    | none => 0)

/-- Write bytes into a segment through the memory controllers, a run of consecutive addresses at a time. -/
def State.segmentWrite (s : State) (o : ObjRec) (v : Version) (off : Nat) (bs : List Byte) : State :=
  s.forEach (addrRuns ((indexed bs).filterMap (fun x => (segmentAddr o v (off + x.1)).map (fun a => (a, x.2)))))
    (fun s r => s.chanWrite noCtx 5 r.1 r.2)

/-! ### Requests applied at a target (R252, R256, R257) -/

/-- New value of an atomic of `n` bytes; `none` for an operation code the table does not list (R257, log 50). -/
def atomicNew (op n old operand compare : Nat) : Option Nat :=
  let m := 2 ^ (8 * n)
  let x := operand % m
  match op with
  | 1 => some ((old + x) % m)
  | 2 => some x
  | 3 => some (if old = compare % m then x else old)
  | 4 => some (if toSigned (8 * n) old < toSigned (8 * n) x then x else old)
  | 5 => some (max old x)
  | _ => none

/-- Send a response (R255). -/
def State.respond (s : State) (src : Addr) (ctx : Nat) (b : Body) : State := (s.sendTo .response ctx 4 src 0 b).drainFails

/-- An unbacked request (R252). -/
def State.unbacked (s : State) (off : Nat) : State :=
  (s.bump Key.mfUnbackedIn 1).log sevWarning noCtx 0x0B none32 Key.mfUnbackedIn (off / 4096)

/-- A remote read of a range of a segment (R156, R157, R160). -/
def State.segmentRead (s : State) (o : ObjRec) (v : Version) (off n : Nat) : (ReadOut × Nat) × State :=
  let ads := (List.range n).filterMap (fun i => segmentAddr o v (off + i))
  s.readWords noCtx 5 (s.suspects (fun u k => ads.any (fun a => decide (u ≤ a ∧ a < u + k))))

/-- Apply a request of a source, or hold it for the decode of what it reads (R160, R256). Answers false when it is held. -/
def State.applyRequest (s : State) (src : Addr) (ctx txn : Nat) (b : Body) : State × Bool :=
  match b with
  | .load off n =>
    match s.exportAt off n with
    | none => ((s.unbacked off).respond src ctx (.loadData txn 2 (List.replicate n 0)), true)
    | some (c, h, o') =>
      match s.objRec h, s.exportVersion c h with
      | some o, some v =>
        let x := s.segmentRead o v o' n
        match x.1.1 with
        | .hold stripe => ((x.2.startLocalDecode stripe).2, false)
        | .ok => ((x.2.bump Key.mfRequestsServed 1).respond src ctx (.loadData txn 0 (x.2.segmentBytes o v o' n)), true)
        | _ =>
          let bytes := (List.range n).map (fun i => Config.poisonedByte (x.2.freeCount + i))
          let s := { x.2 with freeCount := x.2.freeCount + n }
          ((s.bump Key.mfRequestsServed 1).respond src ctx (.loadData txn 1 bytes), true)
      | _, _ => ((s.unbacked off).respond src ctx (.loadData txn 2 (List.replicate n 0)), true)
  | .store off data =>
    match s.exportAt off data.length with
    | none => (s.unbacked off, true)
    | some (c, h, o') =>
      match s.objRec h, s.exportVersion c h with
      | some o, some v => ((s.segmentWrite o v o' data).bump Key.mfRequestsServed 1, true)
      | _, _ => (s.unbacked off, true)
  | .atomic off op n noReturn operand compare =>
    let answer (s : State) (status old : Nat) : State := if noReturn then s else s.respond src ctx (.atomicData txn status old)
    match s.exportAt off n with
    | none => (answer (s.unbacked off) 2 0, true)
    | some (c, h, o') =>
      match s.objRec h, s.exportVersion c h with
      | some o, some v =>
        let x := s.segmentRead o v o' n
        match x.1.1 with
        | .hold stripe => ((x.2.startLocalDecode stripe).2, false)
        | .ok =>
          let s := x.2
          let old := leNat (s.segmentBytes o v o' n)
          let y := match atomicNew op n old operand compare with
            | some w => (w, s)
            | none => s.free 50
          let s := y.2.segmentWrite o v o' (leBytes n y.1)
          (answer ((s.bump Key.mfRequestsServed 1).bump Key.mfAtomicsServed 1) 0 old, true)
        | _ =>
          let f := x.2.free 50
          (answer (f.2.bump Key.mfRequestsServed 1) 1 (f.1 % 2 ^ (8 * n)), true)
      | _, _ => (answer (s.unbacked off) 2 0, true)
  | .signal k n =>
    match ctxIndex? ctx with
    | none => (s, true)
    | some c =>
      let s := if s.holds c then s.addCounter c k n else s
      ((s.bump Key.mfRequestsServed 1).settle, true)
  | _ => (s, true)

/-- A request of a source has been applied: the oldest one accepted from it is acknowledged (R256). -/
def State.requestApplied (s : State) (src : Addr) : State :=
  match s.fab.unapplied.find? (fun x => x.1 == src) with
  | some x => (s.modFab (fun f => { f with unapplied := f.unapplied.erase x })).sendAck src 3
  | none => s

/-- Serve a request in the order of its source's stream: behind one that is held, it waits too (R258); it is acknowledged once it has been applied
(R256). -/
def State.serveRequest (s : State) (src : Addr) (ctx txn : Nat) (b : Body) : State :=
  if s.fab.held.any (fun x => x.1 == src) then s.modFab (fun f => { f with held := f.held ++ [(src, ctx, txn, b)] })
  else
    let x := s.applyRequest src ctx txn b
    if x.2 then x.1.requestApplied src else x.1.modFab (fun f => { f with held := f.held ++ [(src, ctx, txn, b)] })

/-- Requests held for a decode are tried again in order (R160). -/
def State.serveHeld (s : State) : State :=
  let l := s.fab.held
  (s.modFab (fun f => { f with held := [] })).forEach l (fun s x => s.serveRequest x.1 x.2.1 x.2.2.1 x.2.2.2)

/-- LOAD (R256). -/
def execLoad (src : Addr) (ctx txn off len : Nat) (found : List (Nat × Finding)) (s : State) : Host.Outcome State Fault Refusal :=
  .next (if s.hubUp then (s.tellFound noCtx 5 found).serveRequest src ctx txn (.load off len) else s)

/-- STORE (R256). -/
def execStore (src : Addr) (ctx txn off : Nat) (data : List Byte) (found : List (Nat × Finding)) (s : State) : Host.Outcome State Fault Refusal :=
  .next (if s.hubUp then (s.tellFound noCtx 5 found).serveRequest src ctx txn (.store off data) else s)

/-- ATOMIC (R257). -/
def execAtomic (src : Addr) (ctx txn off op size : Nat) (noReturn : Bool) (operand compare : Nat)
    (found : List (Nat × Finding)) (s : State) :
    Host.Outcome State Fault Refusal :=
  .next (if s.hubUp then (s.tellFound noCtx 5 found).serveRequest src ctx txn (.atomic off op size noReturn operand compare) else s)

/-- SIGNAL (R256): counted even while the context is pre-empted (R40); discarded for a context that holds nothing (R361). -/
def execSignal (src : Addr) (ctx counter increment : Nat) (s : State) : Host.Outcome State Fault Refusal :=
  .next (if s.hubUp then s.serveRequest src ctx 0 (.signal counter increment) else s)

/-! ### Responses at the requester (R255, R263, R264) -/

/-- A request has been answered: its transaction ends, or waits only for its acknowledgement. -/
def State.answered (s : State) (t : Txn) : State :=
  (s.modFab (fun f => { f with txns := f.txns.map (fun x => if x.id = t.id then { x with abandoned := true } else x) })).reapTxns

/-- The queue of a run's transactions. -/
def ownerQueue : TxnOwner → Option (Fin 4 × Fin 8)
  | .run c q => match ctxIndex? c, (if h : q < 8 then some (⟨q, h⟩ : Fin 8) else none) with
    | some c, some q => some (c, q)
    | _, _ => none
  | _ => none

/-- A response arrives for transaction `txn`: `put` stores what it brings in the staged output. -/
def State.response (s : State) (txn status : Nat) (load : Bool) (put : CopyRec → Txn → List Byte) (at_ : CopyRec → Txn → Nat) : State :=
  match s.fab.txns.find? (fun t => t.id == txn && awaitsResponse t.body && !t.abandoned &&
      (match t.body with | .load .. => load | _ => !load)) with
  | none => s
  | some t =>
    let s := s.answered t
    match ownerQueue t.owner with
    | none => s
    | some (c, q) =>
      match s.run c q with
      | none => s
      | some r =>
        if !r.running then s
        else if status = 1 then
          (s.bump Key.mfPoisonResp 1).ctxFault c 0x10 r.entry.command 0x0B Key.mfPoisonResp txn
        else
          let s := if status = 2 then
              (s.bump Key.mfUnbackedResp 1).log sevWarning c 0x0B r.entry.command Key.mfUnbackedResp txn
            else s
          let out := r.cmd.outputs.getD 0 none32
          let s := match r.cmd.copyRec, r.stagedOf out, s.objRec out with
            | some p, some v, some o => s.verWrite c 3 o v (at_ p t) (put p t)
            | _, _, _ => s
          s.copyPumpAll

/-- LOAD_DATA (R264). -/
def execLoadData (txn status : Nat) (data : List Byte) (s : State) : Host.Outcome State Fault Refusal :=
  .next (s.response txn status true
    (fun _ t => match t.body with
      | .load _ n => if status = 2 then List.replicate n 0 else data.take n
      | _ => [])
    (fun _ t => t.piece))

/-- ATOMIC_DATA (R264): the old value is written as a U64 to row i of the output. -/
def execAtomicData (txn status old : Nat) (s : State) : Host.Outcome State Fault Refusal :=
  .next (s.response txn status false (fun _ _ => leBytes 8 (if status = 2 then 0 else old)) (fun _ t => 8 * t.piece))

/-- MF_RESPONSE_TIMEOUT (R263): acknowledged and not answered within the response timer. -/
def execMfResponseTimeout (txn dt : Nat) (s : State) : Host.Outcome State Fault Refusal :=
  .next (
    let s := s.advance dt
    match s.fab.txns.find? (fun t => t.id == txn && awaitsResponse t.body && !t.abandoned) with
    | none => s
    | some t =>
      match t.acked with
      | none => s
      | some (since, a) =>
        if s.now < since + s.reg Key.mfResponseTimer then s
        else
          let s := s.bump Key.mfResponseTimeouts 1
          let s := (s.answered t).txnFailed t.owner 0x21 a t.piece
          s.drainFails.copyPumpAll)

end Sys2Proof.Machine
end

