-- ==== Sys2Proof/Machine/Restore.lean ====
section
/-! DEFINITION. Checkpoint slots and restore (spec/17): CRC-32C, the layout and validity of a slot, the offers of a restore
and their selection, and putting a shard's content in place. The gathering runs in Collective.lean. -/
namespace Sys2Proof.Machine

/-! ### Slots (R345, R346) -/

/-- The Local Flash Store is attached (R410). -/
def State.flashAttached (s : State) : Bool := s.reg Key.flashState == 1

/-- Bytes of a slot. -/
def State.slotBytes (s : State) : Nat := s.force Key.ckptSlotBytes

/-- First flash byte of a slot: 0 A, 1 B. -/
def State.slotBase (s : State) (i : Nat) : Nat := i * s.slotBytes

/-- Bytes of a slot. -/
def State.slotRead (s : State) (i off n : Nat) : List Byte := cellBytes s.mem.flash (s.slotBase i + off) n

/-- A little-endian field of a slot. -/
def State.slotNat (s : State) (i off n : Nat) : Nat := leNat (s.slotRead i off n)

/-- Write bytes of a slot, counted as programmed (R410). -/
def State.slotWrite (s : State) (i off : Nat) (bs : List Byte) : State :=
  (s.bump Key.flashBytesWritten bs.length).modMem (fun m => { m with flash := cellWrite m.flash (s.slotBase i + off) bs })

/-- Offset of the commit record. -/
def State.recordOff (s : State) : Nat := s.slotBytes - 4096

/-- "TBCK" and "TBCR" as little-endian words. -/
abbrev manifestMagic : Nat := 0x4B434254
abbrev recordMagic : Nat := 0x52434254

/-- The next 1 MiB boundary. -/
def mibUp (n : Nat) : Nat := (n + 0xFFFFF) / 0x100000 * 0x100000

/-- A slot is valid (R346). -/
def State.slotValid (s : State) (i : Nat) : Bool :=
  let r := s.recordOff
  let dl := s.slotNat i 0x98 8
  let tc := s.slotNat i 0xA8 8
  s.slotNat i r 4 == recordMagic && s.slotNat i (r + 4) 4 == s.slotNat i 8 4 &&
    s.slotNat i (r + 0x18) 8 == s.slotNat i 0x28 8 && decide (dl + 4 * tc ≤ s.slotBytes) &&
    s.slotNat i (r + 0x0C) 4 == crc32c (s.slotRead i 0 4096 ++ s.slotRead i (s.slotNat i 0x90 8) dl ++
      s.slotRead i (s.slotNat i 0xA0 8) (4 * tc))

/-- Report `CKPT_SLOT_STEP`. -/
def State.noteSlots (s : State) : State :=
  s.setBulk Key.ckptSlotStep 0 ([0, 1].flatMap (fun i => leBytes 4 (if s.slotValid i then s.slotNat i 8 4 else none32)))

/-- Zero a slot's commit record. -/
def State.voidSlot (s : State) (i : Nat) : State :=
  ((s.bump Key.flashBytesWritten 4096).modMem (fun m => { m with flash := cellClear m.flash (s.slotBase i + s.recordOff) 4096 })).noteSlots

/-- Content of tile `k` of a slot. -/
def State.slotTile (s : State) (i k : Nat) : List Byte := s.slotRead i (s.slotNat i 0xB0 8 + k * frameBytes) frameBytes

/-- The CRC a slot's list holds for tile `k`. -/
def State.slotTileCrc (s : State) (i k : Nat) : Nat := s.slotNat i (s.slotNat i 0xA0 8 + 4 * k) 4

/-! ### Offers and selection (R350) -/

/-- The first 8 bytes of `IMAGE_DIGEST`. -/
def State.imageDigest8 (s : State) : Nat := s.bulkNat Key.imageDigest 0 8

/-- An offer of a member: one valid slot. -/
structure Offer where
  member : Nat
  step : Nat
  kind : Nat
  shard : Nat
  count : Nat
  image : Nat
  content : Nat
  deriving DecidableEq, Repr

/-- The 32 bytes of a slot's offer; kind 0 for an invalid slot (log 51). -/
def State.offerOf (s : State) (i : Nat) : List Byte :=
  if s.flashAttached && s.slotValid i then
    leBytes 4 (s.slotNat i 8 4) ++ leBytes 4 (s.slotNat i 6 1) ++ leBytes 4 (s.slotNat i 0x0C 4) ++ leBytes 4 (s.slotNat i 0x10 4) ++
      s.slotRead i 0x20 8 ++ s.slotRead i 0x28 8
  else List.replicate 32 0

/-- Offers read back from the gathered bytes of all members. -/
def readOffers (members : Nat) (bs : List Byte) : List Offer :=
  (List.range (2 * members)).filterMap (fun k =>
    let f (a n : Nat) := leNat ((bs.drop (32 * k + a)).take n)
    if f 4 4 = 0 then none else some ⟨k / 2, f 0 4, f 4 4, f 8 4, f 12 4, f 16 8, f 24 8⟩)

/-- Members with no offer of a step for the image. -/
def lacking (offers : List Offer) (members img step : Nat) : List Nat :=
  (List.range members).filter (fun m => !offers.any (fun o => o.member == m && o.step == step && o.image == img))

/-- Whether a step can be restored (pseudocode "Restore selection"). -/
def stepOk (offers : List Offer) (members shards img step : Nat) : Bool :=
  (lacking offers members img step).isEmpty &&
  (List.range shards).all (fun h =>
    let at_ := offers.filter (fun o => o.step == step && o.shard == h)
    match at_.filter (fun o => o.kind == 1) with
    | [] => false
    | f :: _ => (at_.filter (fun o => o.kind == 2)).all (fun r => r.content == f.content))

/-- The steps tried, highest first, up to the ceiling. -/
def stepsTried (offers : List Offer) (ceiling : Nat) : List Nat :=
  sortBy (fun a b => decide (b ≤ a)) (dedup ((offers.map Offer.step).filter (fun t => decide (t ≤ ceiling))))

/-- Choose the restore step: counts and logs every step refused on the way; the answer tells whether one was (R350). -/
def State.chooseStep (s : State) (offers : List Offer) (members : Nat) : List Nat → Option Nat × Bool × State
  | [] => (none, false, s)
  | t :: ts =>
    if stepOk offers members (s.force Key.ckptShardCount) s.imageDigest8 t then (some t, false, s)
    else
      let s := (s.bump Key.ckptStepsRefused 1).log sevWarning noCtx 0x0F none32 Key.ckptStepsRefused t
      let s := s.forEach (lacking offers members s.imageDigest8 t) (fun s m =>
        s.log sevWarning noCtx 0x0F none32 Key.ckptStepsRefused m)
      let r := State.chooseStep s offers members ts
      (r.1, true, r.2.2)

/-- The slot of this module that holds a step for the image. -/
def State.restoreSlot (s : State) (step : Nat) : Option Nat :=
  [0, 1].find? (fun i => s.slotValid i && s.slotNat i 8 4 == step && s.slotNat i 0x20 8 == s.imageDigest8)

/-! ### Putting a shard in place (R351) -/

/-- A directory entry of a slot: handle, offset of its first tile, tiles. -/
def State.slotDir (s : State) (i : Nat) : List (Nat × Nat × Nat) :=
  (List.range (s.slotNat i 0x98 8 / 32)).map (fun k =>
    let b := s.slotNat i 0x90 8 + 32 * k
    (s.slotNat i b 4, s.slotNat i (b + 0x10) 8 / frameBytes, s.slotNat i (b + 0x18) 4))

/-- The handle `CKPT` directories give the parity entry. -/
abbrev parityHandle : Nat := 0xFFFFFFFE

/-- Put tile `j` of an object's committed content in place: the HOT copy's frame, or the lower copy (R351). -/
def State.putTile (s : State) (h j : Nat) (bs : List Byte) : State :=
  match s.objRec h with
  | none => s
  | some o =>
    let owner := if o.perContext then s.ckptCtx else 4
    let sp := o.tileSpan j
    match s.mem.objects.find? (fun i => i.handle == h && i.owner == owner) with
    | none => s
    | some i =>
      let s := match i.hot with
        | some v => match v.frames[j]? with
          | some f => s.modMem (fun m => m.setFrame f (cellsOf (bs.take sp.2)))
          | none => s
        | none => s
      match i.low with
      | none => s
      | some l =>
        let new := (lowCopyOf h o l.tier (cellWrite l.cells sp.1 (bs.take sp.2)) l.step l.prod).1
        (s.noteProgrammed { new with stored := [new.stored.getD j 0] }).modInst h owner (fun x => { x with low := some new })

/-- Put tile `k` of a slot's write order in place. -/
def State.putShardTile (s : State) (i k : Nat) (bs : List Byte) : State :=
  match (s.slotDir i).find? (fun d => decide (d.2.1 ≤ k ∧ k < d.2.1 + d.2.2)) with
  | none => s
  | some d =>
    if d.1 = parityHandle then s.modMem (fun m => m.setFrame (s.parityFrame (k - d.2.1)) (cellsOf bs))
    else s.putTile d.1 (k - d.2.1) bs

/-- Put the own FULL shard in place, tile by tile, each checked against its CRC; answers the tile that failed (R351, R352). -/
def State.putShard (s : State) (i : Nat) : Nat → Nat → State × Option Nat
  | 0, _ => (s, none)
  | n + 1, k =>
    let bs := s.slotTile i k
    if crc32c bs ≠ s.slotTileCrc i k then (s, some k) else State.putShard (s.putShardTile i k bs) i n (k + 1)

/-- The units of coded state after a restore: every generation is the step, nothing is retained or open (R351). -/
def State.restoreUnits (s : State) (step : Nat) (parity : Bool) : State :=
  if !s.hasCoded then s
  else
    let rec_ (p : Bool) (u : Nat) : UnitRec := ⟨u, p, step, none32, 0, false, false, []⟩
    let s := s.forEach s.mem.objects (fun s i => match i.prev with
      | some v => (s.modInst i.handle i.owner (fun x => { x with prev := none })).modMem (fun m => m.releaseFrames v.frames)
      | none => s)
    let s := s.forEach s.codedObjects (fun s h => s.modInst h.1 4 (fun i => { i with hot := i.hot.map (fun v => { v with gen := step }) }))
    let s := s.modCoded (fun c => { c with
      units := (List.range s.dataUnits).map (rec_ false) ++ (List.range (s.reg Key.codedParityUnits)).map (rec_ true),
      staging := [], doneFrom := [], ownDone := false, owed := [], started := parity })
    let s := if parity then s
      else s.forEach (List.range (s.reg Key.codedParityUnits)) (fun s u => s.modMem (fun m => m.setFrame (s.parityFrame u) []))
    ((s.setReg Key.codedRecordedGen step).setReg Key.codedOpenGen none32).setReg Key.codedState (if parity then 2 else 1)

/-- A restore has put its shard in place: step, random state, position, coded state, status (R351). -/
def State.restoreDone (s : State) (i step : Nat) (older : Bool) : State :=
  let s := match ctxIndex? s.ckptCtx with
    | some c => (s.modCtx c (fun x => { x with step := step })).setBulk (Key.rngState c) 0 (s.slotRead i 0x30 32)
    | none => s
  let s := s.setBulk Key.ckptRestoredPosition 0 (s.slotRead i 0x50 64)
  let s := s.restoreUnits step (bit (s.slotNat i 0x1A 2) 0)
  let s := s.modCkpt (fun k => { k with restore := none })
  ((s.setReg Key.ckptRestoredStep step).setReg Key.ckptRestoreStatus (if older then 2 else 1)).setReg Key.ckptState 0

/-- Pieces of a tile: 16 of 4 KiB. -/
def tilePiece (bs : List Byte) (p : Nat) : List Byte := (bs.drop (4096 * p)).take 4096

/-- The writer of a shard sends each tile once to every replica of it (R351). -/
def State.sendShard (s : State) (i step : Nat) (offers : List Offer) (cr : Crew) : State :=
  let shard := s.slotNat i 0x0C 4
  let to_ := (offers.filter (fun o => o.step == step && o.shard == shard && o.kind == 2 && o.image == s.imageDigest8)).filterMap
    (fun o => s.memberAddr cr o.member)
  if to_.isEmpty then s
  else s.forEach (List.range (s.slotNat i 0xA8 8)) (fun s k =>
    let bs := s.slotTile i k
    s.forEach (List.range 16) (fun s p => s.sendTree .checkpoint s.ckptCtx 1 to_ 0 (.ckptTile shard step k p (tilePiece bs p))))

/-- All offers are gathered: choose, report, and start the restore of the shard (R350, R351). -/
def State.restoreSelect (s : State) (r : RestoreRun) (cr : Crew) (bs : List Byte) : State :=
  let n := cr.members.length
  let offers := readOffers n bs
  let c := s.chooseStep offers n (stepsTried offers r.ceiling)
  let s := c.2.2
  match c.1 with
  | none => ((s.modCkpt (fun k => { k with restore := none })).setReg Key.ckptRestoreStatus 4).setReg Key.ckptState 0
  | some step =>
    let s := s.modCkpt (fun k => { k with restore := some { r with step := some step, refused := c.2.1 } })
    let s := s.setReg Key.ckptRestoredStep step
    match s.restoreSlot step with
    | none => s
    | some i => if s.slotNat i 6 1 = 1 then s.sendShard i step offers cr else s

end Sys2Proof.Machine
end

