-- ==== Sys2Proof/Machine/Collective.lean ====
section
/-! DEFINITION. Crew commands (spec/14): the COLLECTIVE kind from its issue to its commit, entry, strokes and scans, aborts
and their settling, helper runs; the gathering of a restore (spec/17), which runs by the same rules. Rows ALL_REDUCE,
REDUCE_SCATTER, ALL_GATHER, COLLECTIVE_BROADCAST, ALL_TO_ALL, BARRIER, ENTER, STROKE, SCAN, CREW_ABORT, STROKE_TIMEOUT and
ABORT_SETTLE. -/
namespace Sys2Proof.Machine

/-! ### The plan of a COLLECTIVE (R270 to R273) -/

/-- The COLLECTIVE record of a command. -/
def Command.collRec (c : Command) : Option CollRec :=
  match c.param with
  | .collective r => if c.kind = 3 then some r else none
  | _ => none

/-- Element format of a COLLECTIVE record (R270). -/
def collFmt : Nat → Fmt
  | 0 => .w64 | 1 => .fp32 | 2 => .bf16 | 3 => .e4m3 | 4 => .e5m2 | _ => .bytes

/-- An operation with a sum. -/
def CollRec.reduces (r : CollRec) : Bool := r.op == opAllReduce || r.op == opReduceScatter

/-- Bytes of one element of a record's format. -/
def CollRec.elemBytes (r : CollRec) : Nat := (collFmt r.format).width / 8

/-- The plan of this module for a COLLECTIVE; `none` when it is not a member. Data without a sum moves as bytes (R271,
R276). -/
def State.collJob (s : State) (cmd : Command) (r : CollRec) : Option CollJob :=
  match s.crew? cmd.target with
  | none => none
  | some cr =>
    let self := s.selfIndex cmd.target
    let fast := r.reduces && s.effMode cmd (cmd.outputs.headD none32) == 3
    if self < cr.members.length then
      some { crew := cmd.target, cr := cr, self := self, op := r.op, tree := s.useTree cr r, root := r.root,
             elements := if r.reduces then r.elements else r.elements * r.elemBytes, bf16 := fast,
             width := if !r.reduces then 1 else if fast then 2 else 8,
             packet := if !r.reduces then 4096 else if fast then 2048 else 512 }
    else none

/-! ### The package stage (R272) -/

/-- Element `e` of a member's package-stage sum over its inputs, as contributed: W64, or a BF16 code in the fast mode. -/
def packElem (fmt : Fmt) (anchor : Int) (fast : Bool) (rds : List (Nat → Byte)) (e : Nat) : Elem × Sat :=
  let acc :=
    if fmt = .w64 then
      ((⟨(rds.map (fun rd => toSigned 64 (leNat ((List.range 8).map (fun i => rd (8 * e + i)))))).foldl (· + ·) 0, false, false, false⟩ : Acc),
       Sat.zero)
    else Acc.zero.enterAll anchor (rds.map (fun rd => fmt.load rd e))
  let out := if fast then (let x := acc.1.leave anchor .bf16; ((⟨(x.1 : Nat), 0⟩ : Elem), x.2)) else acc.1.narrow
  (out.1, acc.2.add out.2)

/-- What a member contributes to a COLLECTIVE, with the counts of its package stage. -/
def State.contribution (s : State) (c : Fin 4) (cmd : Command) (r : CollRec) (j : CollJob) : List Elem × Sat :=
  let rd (k : Nat) : Nat → Byte := s.objByte (cmd.inputs.getD k none32) c
  if r.reduces then
    let rds := (List.range r.inputsUsed).map rd
    let x := (List.range r.elements).map (packElem (collFmt r.format) (s.anchorOf (cmd.outputs.headD none32)) j.bf16 rds)
    (x.map Prod.fst, (x.map Prod.snd).foldl Sat.add Sat.zero)
  else
    let n := if r.op = opBarrier then 0 else if r.op = opAllToAll then j.cr.members.length * j.elements
      else if r.op = opBroadcast ∧ j.self ≠ j.root then 0 else j.elements
    ((List.range n).map (fun i => ⟨((rd 0 i).toNat : Nat), 0⟩), Sat.zero)

/-- What a COLLECTIVE reads of its inputs on this member (R271). -/
def collInputs (cmd : Command) (r : CollRec) (members self : Nat) : List ObjPart :=
  if r.op = opBarrier ∨ (r.op = opBroadcast ∧ self ≠ r.root) then []
  else ((cmd.inputs.take r.inputsUsed).filter (· != none32)).map (fun h =>
    (h, 0, (if r.op = opAllToAll then members else 1) * r.elements * r.elemBytes))

/-! ### Progress (R274, R275, R277) -/

/-- Close the entry of a crew command once the last ENTER it waits for has arrived. -/
def State.noteEntry (s : State) (c : Fin 4) (before after : List Nat) (since : Nat) : State :=
  if !before.isEmpty && after.isEmpty then s.bump (Key.collEntryWaitTicks c) (s.now - since) else s

/-- Send what a running COLLECTIVE has ready. -/
def State.collPump (s : State) (c : Fin 4) (q : Fin 8) : State :=
  match s.run c q with
  | none => s
  | some r =>
    match r.cmd.collRec, r.crew with
    | some p, some k =>
      if r.phase ≠ .running ∨ k.sig = 0 then s
      else match s.collJob r.cmd p with
        | none => s
        | some j =>
          let x := s.pumpColl (runOwner c q) c j k
          (x.1.modRun c q (fun r => { r with crew := some x.2 })).drainFails
    | _, _ => s

/-- Everything a plan sends has been sent. -/
def CollJob.allSent (j : CollJob) (k : CrewRun) : Bool :=
  (j.sends k.contribution k.pieces).all (fun x =>
    let n := if j.op = opBarrier then [0] else ((indexRuns x.elems).flatMap (fun r => cutRun j.packet (r.2 + 1) r)).map Prod.fst
    n.all (fun f => k.sent.contains (x.stage * 65536 + x.num, x.dst, f)))

/-- A COLLECTIVE has reached its commit point: its result is whole, everything is sent and acknowledged (R271, R275). -/
def State.collReady (s : State) (c : Fin 4) (q : Fin 8) (r : Run) : Bool :=
  match r.cmd.collRec, r.crew with
  | some p, some k =>
    k.sig != 0 && (match s.collJob r.cmd p with
      | some j => (j.result k.contribution k.pieces).isSome && j.allSent k && !s.ownerBusy (runOwner c q)
      | none => false)
  | _, _ => false

/-- Adds of the fast mode that overflowed on this member: each element is counted where it leaves the summing part of the
plan (R61). -/
def CollJob.overflows (j : CollJob) (k : CrewRun) : Nat :=
  if !j.bf16 then 0
  else
    let half (st : Nat) := ((j.plan.take (st + 1)).map (fun x => stageStrokes x.2 (j.cr.size x.1))).foldl (· + ·) 0 - j.cr.size st / 2
    let last := ((j.plan.take 4).map (fun x => stageStrokes x.2 (j.cr.size x.1))).foldl (· + ·) 0
    let sums (x : SendJob) : Bool := if j.tree then x.stage != 0 && decide (x.num ≤ half x.stage) else decide (x.num ≤ last)
    let of (l : List (Option Elem)) := l.foldl (fun n x => match x with | some e => n + e.flags | none => n) 0
    let sent := ((j.sends k.contribution k.pieces).filter sums).foldl (fun n x => n + of (x.elems.map x.val)) 0
    match j.result k.contribution k.pieces with
    | some l => sent + of (l.map some)
    | none => sent

/-- Free bytes for a result the spec states no value for. -/
def State.freeBytes (s : State) (place : Nat) : Nat → List Byte × State
  | 0 => ([], s)
  | n + 1 =>
    let x := s.free place
    let r := State.freeBytes x.2 place n
    (BitVec.ofNat 8 x.1 :: r.1, r.2)

/-- Put the result of a COLLECTIVE into its staged output, with the counts of its exit (R272, R277). A W64 result of the
fast mode has no stated value (log 52). -/
def State.collStage (s : State) (c : Fin 4) (q : Fin 8) : State :=
  match s.run c q with
  | none => s
  | some r =>
    match r.cmd.collRec, r.crew with
    | some p, some k =>
      match s.collJob r.cmd p with
      | none => s
      | some j =>
        let h := r.cmd.outputs.headD none32
        match j.result k.contribution k.pieces, s.objRec h, r.staged.find? (fun v => v.1 == h) with
        | some l, some o, some v =>
          let fmt := collFmt p.outFormat
          let x : List Byte × Sat × State :=
            if !p.reduces then (l.map (fun e => BitVec.ofInt 8 e.val), Sat.zero, s)
            else if j.bf16 then
              if fmt = .w64 then (let f := s.freeBytes 52 (8 * l.length); (f.1, Sat.zero, f.2))
              else (let y := fmt.encodeAll (l.map (fun e => Fmt.bf16.decode e.val.toNat)); (y.1, y.2, s))
            else if fmt = .w64 then ((l.map (fun e => leBytes 8 (ofSigned 64 e.val))).flatten, Sat.zero, s)
            else (let y := leaveAll (l.map Elem.widen) (s.anchorOf h) fmt; (y.1, y.2, s))
          let sat := { x.2.1 with wire := x.2.1.wire + j.overflows k }
          (x.2.2.modRun c q (fun r => if p.reduces then r.addSat (s.effMode r.cmd h) sat else r)).verWrite c 3 o v.2 0 x.1
        | _, _, _ => s
    | _, _ => s

/-! ### Entry (R269, R275) -/

/-- After a member has entered: a held ENTER that differs, or one of a later attempt, is an abort (R275, R279). -/
def State.entryChecks (s : State) (c : Fin 4) (q : Fin 8) (crew : Nat) (k : CrewRun) (differs : Bool) : State :=
  if differs then s.originateAbort c q 0x24
  else match s.heldEnters.find? (fun h => h.crew == crew && h.inst == k.inst && decide (k.attempt < h.att)) with
    | some h => s.abortAt c q 0x22 h.src
    | none => s

/-- A COLLECTIVE that has issued: not a member, it fails; else it takes its instance, forms its contribution as soon as
its inputs can be read, and enters. -/
def State.collStart (s : State) (c : Fin 4) (q : Fin 8) : State :=
  match s.run c q with
  | none => s
  | some r =>
    match r.cmd.collRec with
    | none => s
    | some p =>
      match s.collJob r.cmd p with
      | none => s.ctxFault c 0x24 r.entry.command 0x0C (Key.crewSelfIndex r.cmd.target) (s.selfIndex r.cmd.target)
      | some j =>
        let i := s.takeInstance r.cmd.target r.crew
        let k := match r.crew with
          | some k => k
          | none => CrewRun.fresh r.cmd.target i.1 0 0 0 s.now []
        let s := i.2.modRun c q (fun r => { r with crew := some k })
        let x := s.hubAccess c q (collInputs r.cmd p j.cr.members.length j.self)
        if !x.2 then x.1
        else
          let s := x.1
          let y := s.contribution c r.cmd p j
          let k := { k with sig := s.collSignature r.cmd p, entrySince := s.now, contribution := y.1, stroke := 0, progress := 0 }
          let s := s.modRun c q (fun r => { (if p.reduces then r.addSat (s.effMode r.cmd (r.cmd.outputs.headD none32)) y.2 else r) with
            crew := some k })
          let s := s.noteCrews.sendEnters (runOwner c q) c r.cmd.target j.cr p.op j.tree p.root j.self k
          let h := s.takeHeld r.cmd.target k
          let s := h.1.modRun c q (fun r => { r with crew := some h.2.1 })
          (s.entryChecks c q r.cmd.target k h.2.2).collPump c q

/-- The entry at the head of a queue is a COLLECTIVE of an operation that a plain issue row serves. -/
def isColl (op : Nat) (r : Run) : Bool :=
  r.plainIssue && (match r.cmd.collRec with | some p => p.op == op | none => false)

/-- A COLLECTIVE row: it issues and enters; one that has issued and waits for its inputs tries again. -/
def State.collRow (s : State) (c : Fin 4) (q : Fin 8) (op : Nat) : State :=
  match s.run c q with
  | none => s
  | some r =>
    match r.cmd.collRec with
    | none => s
    | some p =>
      if p.op ≠ op then s
      else if r.phase = .running then
        (if (match r.crew with | some k => k.sig == 0 | none => true) then s.collStart c q else s)
      else
        let x := s.issue c q (isColl op)
        if x.2 then x.1.collStart c q else x.1

/-- ALL_REDUCE (R271). -/
def execAllReduce (c : Fin 4) (q : Fin 8) (found : List (Nat × Finding)) (s : State) : Host.Outcome State Fault Refusal := .next ((s.tellFound c 3 found).collRow c q opAllReduce)

/-- REDUCE_SCATTER (R271). -/
def execReduceScatter (c : Fin 4) (q : Fin 8) (found : List (Nat × Finding)) (s : State) : Host.Outcome State Fault Refusal :=
  .next ((s.tellFound c 3 found).collRow c q opReduceScatter)

/-- ALL_GATHER (R271). -/
def execAllGather (c : Fin 4) (q : Fin 8) (found : List (Nat × Finding)) (s : State) : Host.Outcome State Fault Refusal := .next ((s.tellFound c 3 found).collRow c q opAllGather)

/-- BROADCAST of the COLLECTIVE kind (R271). -/
def execCollectiveBroadcast (c : Fin 4) (q : Fin 8) (found : List (Nat × Finding)) (s : State) : Host.Outcome State Fault Refusal :=
  .next ((s.tellFound c 3 found).collRow c q opBroadcast)

/-- ALL_TO_ALL (R271). -/
def execAllToAll (c : Fin 4) (q : Fin 8) (found : List (Nat × Finding)) (s : State) : Host.Outcome State Fault Refusal := .next ((s.tellFound c 3 found).collRow c q opAllToAll)

/-- BARRIER (R271). -/
def execBarrier (c : Fin 4) (q : Fin 8) (s : State) : Host.Outcome State Fault Refusal := .next (s.collRow c q opBarrier)

/-- COLLECTIVEs that wait for their inputs try again (R160). -/
def State.collRetry (s : State) (c : Fin 4) : State :=
  s.forEach allQueues (fun s q =>
    match s.run c q with
    | some r =>
      if r.phase == .running && r.cmd.kind == 3 && (match r.crew with | some k => k.sig == 0 | none => true) then s.collStart c q else s
    | none => s)

/-! ### Finding the run a packet is for -/

/-- The issued, uncommitted command of this module on a crew. -/
def State.crewRun (s : State) (crew : Nat) : Option (Fin 4 × Fin 8 × Run × CrewRun) :=
  (allCtx.flatMap (fun c => allQueues.filterMap (fun q =>
    match s.run c q with
    | some r => if r.cmd.isCrew && r.cmd.target == crew then r.crew.map (fun k => (c, q, r, k)) else none
    | none => none))).head?

/-- `a` is a later instance than `b`, over the 29 bits a packet carries. -/
def instLater (a b : Nat) : Bool := a != b && decide ((a + 2 ^ 29 - b) % 2 ^ 29 < 2 ^ 28)

/-- A retained commit of an instance and its context (R282). -/
def State.helpedOf (s : State) (crew inst : Nat) : Option (Fin 4 × Helped) :=
  (allCtx.flatMap (fun c => ((s.ctx c).helped.filter (fun h => h.crew == crew && h.inst == inst)).map (fun h => (c, h)))).head?

/-- The context that crew traffic without a run is counted in: that of a retained commit, else the first that holds its
resources. -/
def State.crewCtx (s : State) (crew : Nat) : Fin 4 :=
  match s.crewRun crew with
  | some x => x.1
  | none =>
    match allCtx.find? (fun c => (s.ctx c).helped.any (fun h => h.crew == crew)) with
    | some c => c
    | none => (allCtx.find? (fun c => s.holds c)).getD 0

/-- A packet of an earlier instance or attempt is discarded (R275). -/
def State.staleCrew (s : State) (crew : Nat) : State := s.bump (Key.collStaleDropped (s.crewCtx crew)) 1

/-- Hold an ENTER, up to 64 a crew (R275). -/
def State.holdEnter (s : State) (h : HeldEnter) : State :=
  if 64 ≤ (s.heldEnters.filter (fun x => x.crew == h.crew)).length then s.staleCrew h.crew
  else { s with heldEnters := s.heldEnters ++ [h] }

/-! ### Helper runs (R282) -/

/-- Change a retained commit. -/
def State.modHelped (s : State) (c : Fin 4) (crew inst : Nat) (f : Helped → Helped) : State :=
  s.modCtx c (fun x => { x with helped := x.helped.map (fun h => if h.crew = crew ∧ h.inst = inst then f h else h) })

/-- Let a helper run go as far as what has arrived allows; it ends when its plan is done. -/
def State.helperPump (s : State) (c : Fin 4) (crew inst : Nat) : Nat → State
  | 0 => s
  | fuel + 1 =>
    match s.helpedOf crew inst with
    | none => s
    | some (_, h) =>
      match h.run with
      | none => s
      | some k =>
        let owner := TxnOwner.helper c crew
        match h.cmd.collRec with
        | some p =>
          match s.collJob h.cmd p with
          | none => s
          | some j =>
            let x := s.pumpColl owner c j k
            let finished := (j.result x.2.contribution x.2.pieces).isSome && j.allSent x.2
            (x.1.modHelped c crew inst (fun h => { h with run := if finished then none else some x.2 })).noteCrews
        | none =>
          match h.cmd.exchRec with
          | none => s
          | some e =>
            match s.exchDomain e.layer, h.scans[k.round - 1]? with
            | some (lr, cr, self), some v =>
              let x := s.pumpScan owner c crew cr self lr.experts k v
              let sc := countScan cr self lr.experts x.2.scans k.round v
              let finished := sc.1.isSome && sc.2.1.isSome &&
                sc.2.2.all (fun y => x.2.sent.contains ((k.round * 8 + y.stage) * 65536 + y.num, y.dst, 0))
              let s := x.1.modHelped c crew inst (fun h => { h with run := some x.2 })
              if !finished then s
              else if k.round < h.scans.length then
                let k := { x.2 with round := k.round + 1, entrySince := s.now }
                let s := s.sendEnters owner c crew cr opCount true 0 self k
                let y := s.takeHeld crew k
                State.helperPump (y.1.modHelped c crew inst (fun h => { h with run := some y.2.1 })) c crew inst fuel
              else (s.modHelped c crew inst (fun h => { h with run := none })).noteCrews
            | _, _ => (s.modHelped c crew inst (fun h => { h with run := none })).noteCrews

/-- Ledger rounds of an EXCHANGE are at most five. -/
abbrev roundFuel : Nat := 6

/-- An ENTER of a later attempt of a committed instance starts this member as a helper (R282). -/
def State.helperStart (s : State) (c : Fin 4) (h : Helped) (att : Nat) : State :=
  match s.crew? h.crew with
  | none => s
  | some cr =>
    let self := s.selfIndex h.crew
    let owner := TxnOwner.helper c h.crew
    let s := s.withdraw owner true
    let pl := s.planOf cr h.cmd
    let round := if h.cmd.kind = 2 then 1 else 0
    let sig := match h.cmd.collRec with
      | some p => s.collSignature h.cmd p
      | none => match h.cmd.exchRec with
        | some e => (match s.exchDomain e.layer with | some d => countSignature d.1.experts | none => 0)
        | none => 0
    let k := { CrewRun.fresh h.crew h.inst att round sig s.now [] with contribution := h.contribution }
    let s := (s.bump (Key.collHelperRuns c) 1).sendEnters owner c h.crew cr pl.1 pl.2.1 pl.2.2 self k
    let y := s.takeHeld h.crew k
    ((y.1.modHelped c h.crew h.inst (fun x => { x with attempt := att, run := some y.2.1 })).noteCrews).helperPump c h.crew h.inst roundFuel

/-! ### The gathering of a restore (R350) -/

/-- The plan of a restore's gathering. -/
def State.restoreJob (s : State) : Option CollJob :=
  match s.restoreCommand.collRec with
  | some p => s.collJob s.restoreCommand p
  | none => none

/-- The restore waiting for packets of a crew and instance. -/
def State.restoreFor (s : State) (crew inst : Nat) : Option RestoreRun :=
  match s.ckpt.restore with
  | some r => if r.crew.crew = crew ∧ r.crew.inst = inst then some r else none
  | none => none

/-- Let the gathering go on; with every offer gathered each member chooses (R350). -/
def State.restorePump (s : State) : State :=
  match s.ckpt.restore, s.restoreJob with
  | some r, some j =>
    if r.step.isSome then s
    else
      let x := s.pumpColl .checkpoint s.ckptCtx j r.crew
      let r := { r with crew := x.2 }
      let s := x.1.modCkpt (fun k => { k with restore := some r })
      match j.result r.crew.contribution r.crew.pieces with
      | some l => if j.allSent r.crew then s.restoreSelect r j.cr (l.map (fun e => BitVec.ofInt 8 e.val)) else s
      | none => s
  | _, _ => s

/-- A restore enters its crew with its offers (R350). -/
def State.restoreEnterCrew (s : State) (ceiling : Nat) : State :=
  match s.restoreJob, s.restoreCommand.collRec with
  | some j, some p =>
    let i := s.takeInstance j.crew none
    let s := i.2
    let k := { CrewRun.fresh j.crew i.1 0 0 (s.collSignature s.restoreCommand p) s.now [] with
      contribution := (s.offerOf 0 ++ s.offerOf 1).map (fun b => ⟨(b.toNat : Nat), 0⟩) }
    let s := s.modCkpt (fun x => { x with restore := some ⟨ceiling, k, none, none, false, []⟩ })
    let s := s.sendEnters .checkpoint s.ckptCtx j.crew j.cr j.op j.tree j.root j.self k
    let h := s.takeHeld j.crew k
    let s := h.1.modCkpt (fun x => { x with restore := x.restore.map (fun r => { r with crew := h.2.1 }) })
    if h.2.2 then s.restoreFail 0x24 j.self else s.restorePump
  | _, _ => (s.setReg Key.ckptRestoreStatus 3).setReg Key.ckptState 0

/-! ### ENTER (R275, R279, R282) -/

/-- An ENTER for the command this member is running. -/
def State.enterRun (s : State) (c : Fin 4) (q : Fin 8) (r : Run) (k : CrewRun) (e : HeldEnter) : State :=
  if e.att < k.attempt then s.staleCrew e.crew
  else if k.attempt < e.att then (s.holdEnter e).abortAt c q 0x22 e.src
  else if (match r.abort with | some ab => !ab.decided | none => false) then s
  else if !r.running ∨ k.sig = 0 ∨ k.round < e.round then s.holdEnter e
  else if e.round < k.round then s.staleCrew e.crew
  else if e.sig ≠ k.sig then s.originateAbort c q 0x24
  else
    match s.crew? e.crew with
    | none => s
    | some cr =>
      let pl := s.planOf cr r.cmd
      let self := s.selfIndex e.crew
      let k' := { k with entered := k.entered ++ [(e.round, e.src)] }
      let s := s.noteEntry c (k.awaits cr pl.1 pl.2.1 pl.2.2 self) (k'.awaits cr pl.1 pl.2.1 pl.2.2 self) k.entrySince
      let s := s.modRun c q (fun r => { r with crew := some k' })
      (s.collPump c q).exchangePump c

/-- An ENTER for an instance this member has committed; a helper compares signatures like any member (R275, R282). -/
def State.enterHelped (s : State) (c : Fin 4) (h : Helped) (e : HeldEnter) : State :=
  match h.run with
  | none => if h.attempt < e.att then (s.holdEnter e).helperStart c h e.att else s.staleCrew e.crew
  | some k =>
    if e.att < k.attempt then s.staleCrew e.crew
    else if k.attempt < e.att then (s.holdEnter e).helperStart c h e.att
    else if k.round < e.round then s.holdEnter e
    else if e.sig ≠ k.sig then s.helperFail c h.crew 0x24
    else (s.modHelped c h.crew h.inst (fun x => { x with run := some { k with entered := k.entered ++ [(e.round, e.src)] } })).helperPump
      c h.crew h.inst roundFuel

/-- ENTER (R275). -/
def execEnter (src crew round inst att sig : Nat) (s : State) : Host.Outcome State Fault Refusal :=
  .next (
    let e : HeldEnter := ⟨crew, round, inst, att, src, sig⟩
    match s.restoreFor crew inst with
    | some r =>
      if sig ≠ r.crew.sig then s.restoreFail 0x24 (s.selfIndex crew)
      else (s.modCkpt (fun k => { k with restore := some { r with
        crew := { r.crew with entered := r.crew.entered ++ [(round, src)] } } })).restorePump
    | none =>
      match s.helpedOf crew inst, s.crewRun crew with
      | some (c, h), _ => s.enterHelped c h e
      | none, some (c, q, r, k) =>
        if k.inst = inst then s.enterRun c q r k e
        else if instLater inst k.inst then s.holdEnter e
        else s.staleCrew crew
      | none, none =>
        let next := s.reg (Key.crewInstance crew) % 2 ^ 29
        if inst = next ∨ instLater inst next then s.holdEnter e else s.staleCrew crew)

/-! ### STROKE and SCAN (R277, R278, R283) -/

/-- A packet is expected: nothing of it has arrived yet. -/
def CrewRun.expects (k : CrewRun) (stage num src first : Nat) : Bool :=
  !k.pieces.any (fun p => p.stage == stage && p.num == num && p.src == src && p.first == first)

/-- Accept a stroke's data; accepting an expected packet restarts the stroke timer, and a member that only receives has
begun the stroke it accepts a packet of (DEDUCED, log 88). -/
def CrewRun.accept (k : CrewRun) (p : Piece) (now : Nat) : CrewRun :=
  if k.expects p.stage p.num p.src p.first then
    { k with pieces := k.pieces ++ [p], progress := now, stroke := max k.stroke p.num }
  else k

/-- A stroke whose data this member adds rather than writes: the tray and scatter strokes and the up passes of a sum. -/
def CollJob.adds (j : CollJob) (stage num : Nat) : Bool :=
  if !(j.op == opAllReduce || j.op == opReduceScatter) then false
  else
    let upto (n : Nat) := ((j.plan.take n).map (fun x => stageStrokes x.2 (j.cr.size x.1))).foldl (· + ·) 0
    if j.tree then stage == 0 || decide (num ≤ upto (stage + 1) - j.cr.size stage / 2) else decide (num ≤ upto 4)

/-- A 64-bit word with one bit in error. -/
def flipBit (x : Int) (b : Nat) : Int := toSigned 64 (ofSigned 64 x ^^^ 2 ^ b)

/-- What the Reduction Engine has added so far for element `i`: the own contribution and what has arrived up to a stage (R277). -/
def CrewRun.partialSum (k : CrewRun) (stage i : Nat) : Int :=
  (k.pieces.filter (fun p => decide (p.stage ≤ stage) && decide (p.first ≤ i))).foldl
    (fun n p => match p.elems[i - p.first]? with | some e => n + e.val | none => n)
    (match k.contribution[i]? with | some e => e.val | none => 0)

/-- The residue check of the additions of an arriving stroke: `upsets` are the bits of their sums in error, by element (R63). -/
def CrewRun.residuesOk (k : CrewRun) (stage first : Nat) (elems : List Elem) (upsets : List (Nat × Nat)) : Bool :=
  (indexed elems).all (fun x =>
    let a := k.partialSum stage (first + x.1)
    let c := (upsets.filter (fun u => u.1 == x.1)).foldl (fun v u => flipBit v u.2) (a + x.2.val)
    residueOk a x.2.val c)

/-- The additions of an arriving stroke in the Reduction Engine, counted, and whether their residue check failed (R63). -/
def State.strokeAdds (s : State) (job : Option CollJob) (k : CrewRun) (stage num src first : Nat) (elems : List Elem)
    (upsets : List (Nat × Nat)) : State × Bool :=
  match job with
  | none => (s, false)
  | some j =>
    if j.adds stage num && k.expects stage num src first then
      let s := s.bump Key.rdeAdditions elems.length
      if !j.bf16 && !k.residuesOk stage first elems upsets then (s.bump Key.residueMismatchCount 1, true) else (s, false)
    else (s, false)

/-- STROKE (R277): a packet of a collective; `upsets` are the bits in error, by element, in the sums the Reduction Engine makes with it
(R63). -/
def execStroke (src crew num stage inst att first : Nat) (elems : List Elem) (upsets : List (Nat × Nat)) (s : State) :
    Host.Outcome State Fault Refusal :=
  .next (
    let p : Piece := ⟨stage, num, src, first, elems⟩
    match s.restoreFor crew inst with
    | some r => (s.modCkpt (fun k => { k with restore := some { r with crew := r.crew.accept p s.now } })).restorePump
    | none =>
      match s.helpedOf crew inst, s.crewRun crew with
      | some (c, h), _ =>
        match h.run with
        | none => s.staleCrew crew
        | some k =>
          if k.attempt ≠ att then s.staleCrew crew
          else
            let x := s.strokeAdds (h.cmd.collRec.bind (s.collJob h.cmd)) k stage num src first elems upsets
            if x.2 then x.1.helperFail c crew 0x50
            else (x.1.modHelped c crew inst (fun x => { x with run := some (k.accept p s.now) })).helperPump c crew inst roundFuel
      | none, some (c, q, r, k) =>
        if k.inst ≠ inst ∨ att < k.attempt then (if instLater inst k.inst then s else s.staleCrew crew)
        else if k.attempt < att ∨ r.phase ≠ .running ∨ k.sig = 0 then s
        else
          match r.cmd.collRec.bind (s.collJob r.cmd) with
          | none => s
          | some j =>
            let x := s.strokeAdds (some j) k stage num src first elems upsets
            if x.2 then x.1.originateAbort c q 0x50
            else (x.1.modRun c q (fun r => { r with crew := some (k.accept p s.now) })).collPump c q
      | none, none => s.staleCrew crew)

/-- Accept a scan packet. -/
def CrewRun.acceptScan (k : CrewRun) (p : ScanPiece) (now : Nat) : CrewRun :=
  if k.scans.any (fun x => x.round == p.round && x.stage == p.stage && x.num == p.num && x.src == p.src && x.first == p.first)
  then k else { k with scans := k.scans ++ [p], progress := now, stroke := max k.stroke p.num }

/-- SCAN (R278): a packet of a count exchange. -/
def execScan (src crew round num stage inst att first : Nat) (vals : List ScanVal) (s : State) :
    Host.Outcome State Fault Refusal :=
  .next (
    let p : ScanPiece := ⟨round, num, stage, src, first, vals⟩
    match s.helpedOf crew inst, s.crewRun crew with
    | some (c, h), _ =>
      match h.run with
      | none => s.staleCrew crew
      | some k =>
        if k.attempt ≠ att then s.staleCrew crew
        else (s.modHelped c crew inst (fun x => { x with run := some (k.acceptScan p s.now) })).helperPump c crew inst roundFuel
    | none, some (c, q, r, k) =>
      if k.inst ≠ inst ∨ att < k.attempt then (if instLater inst k.inst then s else s.staleCrew crew)
      else if k.attempt < att ∨ r.phase ≠ .running then s
      else (s.modRun c q (fun r => { r with crew := some (k.acceptScan p s.now) })).exchangePump c
    | none, none => s.staleCrew crew)

/-! ### Aborts (R279 to R283) -/

/-- `COLL_LAST_ABORT` of a decision: crew, origin, instance and code (R288). -/
def State.noteAbort (s : State) (c : Fin 4) (crew origin inst code : Nat) : State :=
  s.setReg (Key.collLastAbort c) (crew % 2 ^ 16 * 2 ^ 48 + origin % 2 ^ 16 * 2 ^ 32 + inst % 2 ^ 24 * 2 ^ 8 + code)

/-- A notice of an attempt that has already been decided, acted on once: a final code kills the rerun and is raised, a rerun code is
logged (R280, R281). -/
def State.lateAbort (s : State) (c : Fin 4) (q : Fin 8) (r : Run) (k : CrewRun) (att code origin : Nat) : State :=
  if k.hasActed att code then s
  else
    let s := s.modRun c q (fun x => { x with crew := x.crew.map (fun y => { y with acted := (att, code) :: y.acted }) })
    if abortFinal code then s.ctxFault c code r.entry.command 0x0C (Key.collAborts c) origin
    else s.logCtx c code sevRecovered 0x0C r.entry.command (Key.collAborts c) origin

/-- CREW_ABORT (R280). -/
def execCrewAbort (_src crew origin inst att code : Nat) (s : State) : Host.Outcome State Fault Refusal :=
  .next (
    match s.restoreFor crew inst with
    | some _ => s.restoreFail code origin
    | none =>
      match s.helpedOf crew inst, s.crewRun crew with
      | some (c, h), _ =>
        let s := match h.run with
          | some k => if k.attempt = att then s.helperFail c crew code else s
          | none => s
        if abortFinal code ∧ s.holds c ∧ !h.raised.contains code then
          (s.modHelped c crew inst (fun x => { x with raised := code :: x.raised })).ctxFault c code none32 0x0C (Key.collAborts c) origin
        else s
      | none, some (c, q, r, k) =>
        if k.inst ≠ inst then s
        else if att < k.attempt then s.lateAbort c q r k att code origin
        else s.abortAt c q code origin
      | none, none => s)

/-- The stroke timer of a run has expired. -/
def State.strokeExpired (s : State) (crew : Nat) (k : CrewRun) : Bool :=
  let t := match s.crew? crew with
    | some cr => if cr.strokeTimeout = 0 then s.force Key.strokeTimeout else cr.strokeTimeout
    | none => s.force Key.strokeTimeout
  decide (0 < k.stroke) && decide (t ≤ s.now - k.progress)

/-- STROKE_TIMEOUT (R283): the timer of the crew command in a queue is looked at, and that of a restore. -/
def execStrokeTimeout (c : Fin 4) (q : Fin 8) (dt : Nat) (s : State) : Host.Outcome State Fault Refusal :=
  .next (
    let s := s.advance dt
    let s := match s.ckpt.restore with
      | some r => if r.step.isNone && s.strokeExpired r.crew.crew r.crew then s.restoreFail 0x22 (s.selfIndex r.crew.crew) else s
      | none => s
    match s.run c q with
    | none => s
    | some r =>
      match r.crew with
      | none => s
      | some k =>
        let inRound := match r.xch with | some x => x.stage == 1 || x.stage == 2 | none => true
        if r.phase == .running && inRound && s.strokeExpired r.cmd.target k then s.originateAbort c q 0x22 else s)

/-- Some member of a crew maps to an address marked failed. -/
def State.crewFailed (s : State) (crew : Nat) : Bool :=
  match s.crew? crew with
  | none => false
  | some cr => (List.range cr.members.length).any (fun m => match s.memberAddr cr m with
      | some a => s.isFailed a
      | none => false)

/-- The settle window of a command has ended: a final code, any code of a `NO_RERUN` command (R38), or a rerun past the limit, is raised; else the command is
rerun with its attempt one higher (R281). With coded state the rerun is held while a member of the crew maps to a failed
address (R328). -/
def State.settleAbort (s : State) (c : Fin 4) (q : Fin 8) (r : Run) (k : CrewRun) (ab : AbortRun) : State :=
  let s := s.noteAbort c r.cmd.target ab.origin k.inst ab.code
  if abortFinal ab.code ∨ bit r.cmd.flags 1 ∨ s.force Key.rerunLimit < r.reruns + 1 then
    s.ctxFault c ab.code r.entry.command 0x0C (Key.collAborts c) ab.origin
  else
    let s := (s.logCtx c ab.code sevRecovered 0x0C r.entry.command (Key.collAborts c) ab.origin).bump (Key.collAborts c) 1
    let hold := s.hasCoded && s.crewFailed r.cmd.target
    s.modRun c q (fun r => { r with
      abort := if hold then some { ab with since := s.now, decided := true } else none,
      crew := r.crew.map (fun y => { y with attempt := (k.attempt + 1) % 8 }) })

/-- ABORT_SETTLE (R281): the settle window of the command in a queue ends. -/
def execAbortSettle (c : Fin 4) (q : Fin 8) (dt : Nat) (s : State) : Host.Outcome State Fault Refusal :=
  .next (
    let s := s.advance dt
    match s.run c q with
    | none => s
    | some r =>
      match r.abort, r.crew with
      | some ab, some k =>
        if !ab.decided && decide (s.force Key.abortSettle ≤ s.now - ab.since) then s.settleAbort c q r k ab else s
      | _, _ => s)

/-- The crab signal: every crew command entered and not committed is aborted (R284). -/
def State.crabAll (s : State) : State :=
  s.forEach allCtx (fun s c => s.forEach allQueues (fun s q =>
    match s.run c q with
    | some r =>
      if r.running && r.cmd.isCrew && (match r.crew with | some k => k.sig != 0 | none => false) then
        (s.bump Key.collCrabSent 1).originateAbort c q 0x23
      else s
    | none => s))

/-! ### Commit (R281, R282) -/

/-- Operations whose commit closes earlier instances of their crew (R282). -/
def closesInstances (cmd : Command) : Bool :=
  match cmd.param with
  | .collective r => r.op != opBroadcast
  | .exchange r => r.role == 2
  | _ => false

/-- Frames of the input versions a crew command used. -/
def State.usedFrames (s : State) (c : Fin 4) (cmd : Command) : List Nat :=
  (cmd.inputs.filter (· != none32)).flatMap (fun h => s.inputFrames h c)

/-- The retained commits of a crew end, and what only they held is released. -/
def State.closeInstances (s : State) (crew : Nat) : State :=
  s.forEach allCtx (fun s c =>
    let gone := (s.ctx c).helped.filter (fun h => h.crew == crew)
    let s := s.modCtx c (fun x => { x with helped := x.helped.filter (fun h => h.crew != crew) })
    s.forEach gone (fun s h => s.releaseHeld h.frames))

/-- What the commit of a crew command does: it is counted, earlier instances close, and its own stays open (R282). -/
def State.crewCommitted (s : State) (c : Fin 4) (r : Run) : State :=
  match r.crew with
  | none => s
  | some k =>
    let s := s.bump (Key.collCommitted c) 1
    let s := if closesInstances r.cmd then s.closeInstances k.crew else s
    let fast := match r.cmd.collRec with
      | some p => p.reduces && s.effMode r.cmd (r.cmd.outputs.headD none32) == 3
      | none => false
    let s := if fast then s.bump Key.bf16FastCount 1 else s
    (s.modCtx c (fun x => { x with helped := x.helped ++ [
      { crew := k.crew, inst := k.inst, attempt := k.attempt, cmd := r.cmd, contribution := k.contribution,
        scans := (match r.xch with | some y => y.vals | none => []), run := none, raised := [], frames := s.usedFrames c r.cmd }] })).noteCrews

/-- Every retained commit ends: the image is unloaded (R282). -/
def State.closeAllInstances (s : State) : State :=
  s.forEach allCtx (fun s c =>
    let gone := (s.ctx c).helped
    let s := s.modCtx c (fun x => { x with helped := [] })
    s.forEach gone (fun s h => s.releaseHeld h.frames))

end Sys2Proof.Machine
end

