-- ==== Sys2Proof/Machine/Flits.lean ====
section
/-! DEFINITION. What stands on the wire: flits with their headers, check and code words (R207 to R209), the payloads of LINK and
IDLE flits (R210, R291), packet headers with their service fields and data (R228, R255, R276, R315, R342). The records of
`State.out` are what a port sends; the functions here spell their bytes. -/
namespace Sys2Proof.Machine

/-! ### Flits (R207, R208) -/

/-- Flit kinds (table "Flit header"). -/
abbrev flitIdle : Nat := 0
abbrev flitLink : Nat := 1
abbrev flitHead : Nat := 2
abbrev flitBody : Nat := 3
abbrev flitTail : Nat := 4
abbrev flitSingle : Nat := 5
abbrev flitAbort : Nat := 6

/-- The header word of a flit that returns credits `cr` of (class·2 + VC, count). -/
def flitHeader (kind tag tc vc : Nat) (cr : Nat × Nat) : Nat :=
  kind % 16 * 2 ^ 28 + tag % 4096 * 2 ^ 16 + tc % 8 * 2 ^ 13 + vc % 2 * 2 ^ 12 + cr.1 / 2 % 8 * 2 ^ 9 + cr.1 % 2 * 2 ^ 8 + cr.2 % 256

/-- Exactly `n` bytes: cut, or filled with zeros. -/
def fillTo (n : Nat) (l : List Byte) : List Byte := (List.range n).map (fun i => l.getD i 0)

/-- A flit: header, 248 payload bytes, CRC-32C of bytes 0 to 251. -/
def flit (header : Nat) (payload : List Byte) : List Byte :=
  let b := leBytes 4 header ++ fillTo 248 payload
  b ++ leBytes 4 (crc32c b)

/-- The check of a received flit after correction. -/
def flitGood (f : List Byte) : Bool := f.length == 256 && crc32c (f.take 252) == leNat (f.drop 252)

/-- Code word `k` of a flit: the bytes of one parity of index, 128 of them, and their four parity bytes (log 131). -/
def codeWord (f : List Byte) (k : Nat) : List Byte :=
  let d := (List.range 128).map (fun i => f.getD (2 * i + k) 0)
  d ++ (List.range 4).map (Config.rsParity d)

/-- A flit on the wire: its two code words interleaved, 264 bytes. -/
def wireBytes (f : List Byte) : List Byte :=
  (List.range 264).map (fun i => (codeWord f (i % 2)).getD (i / 2) 0)

/-- The bytes that serial lane `k` carries of a flit: in rotation over the four (R207). -/
def laneBytes (f : List Byte) (k : Nat) : List Byte := (List.range 66).map (fun i => (wireBytes f).getD (4 * i + k) 0)

/-- The receiver restores a flit whose code words have so many symbols in error: at most two each (R207). -/
def correctable (errs : Nat × Nat) : Bool := decide (errs.1 ≤ 2) && decide (errs.2 ≤ 2)

/-- Kind of flit `j` of a packet of `n`. -/
def flitKind (n j : Nat) : Nat :=
  if n = 1 then flitSingle else if j = 0 then flitHead else if j + 1 = n then flitTail else flitBody

/-! ### Link control messages and beacons (R210, R291) -/

/-- The first bytes of a LINK flit's payload (table "Link control messages"). -/
def linkPayload : LinkMsg → List Byte
  | .caps c => leBytes 1 1 ++ leBytes 2 c.version ++ leBytes 2 c.features ++ leBytes 2 c.coord ++ leBytes 1 c.port ++ leBytes 1 c.role ++
      leBytes 2 c.rateMax
  | .boundary t => leBytes 1 2 ++ leBytes 2 t
  | .boundaryAck t => leBytes 1 3 ++ leBytes 2 t
  | .tagSet t => leBytes 1 4 ++ leBytes 2 t
  | .tagSetAck t => leBytes 1 5 ++ leBytes 2 t
  | .resync => leBytes 1 6
  | .resyncMark => leBytes 1 7
  | .creditSet f => leBytes 1 8 ++ ((List.range 16).map (fun i => leBytes 1 (f.getD i 0))).flatten
  | .latProbe n => leBytes 1 9 ++ leBytes 4 n
  | .latEcho n h => leBytes 1 10 ++ leBytes 4 n ++ leBytes 4 h

/-- The payload of an IDLE flit (table "Beacon payload"); `source_coord` and `source_priority` follow. -/
def beaconPayload (b : Beacon) : List Byte :=
  leBytes 8 b.ticks ++ leBytes 2 b.fraction ++ leBytes 1 b.stratum ++ leBytes 1 b.state ++ leBytes 2 b.coord ++ leBytes 1 b.priority

/-- The LINK flit of a record. -/
def LinkOut.flit (o : LinkOut) : List Byte :=
  Machine.flit (flitHeader flitLink 0 0 0 (o.credits.headD (0, 0))) (linkPayload o.msg)

/-- IDLE flit `j` of a record. -/
def IdleOut.flit (o : IdleOut) (j : Nat) : List Byte :=
  Machine.flit (flitHeader flitIdle 0 0 0 (o.credits.getD j (0, 0))) (beaconPayload o.beacon)

/-- The ABORT flit of a record. -/
def AbortOut.flit (o : AbortOut) : List Byte :=
  Machine.flit (flitHeader flitAbort o.tag o.tc o.vc (o.credits.headD (0, 0))) []

/-! ### Packet headers (R228, R255, R276, R315, R342) -/

/-- Number of a message whose service code and fields no chapter lays out, and the values it carries; `none` for the others (log 132). -/
def freeService : Body → Option (Nat × List Nat)
  | .landing t layer key pairs _ first total _ =>
    some (0x20, [t.ctx, t.step, t.cmd, t.sender, t.origin, t.row, layer, key, first, total] ++ pairs.flatMap (fun p => [p.1, p.2]))
  | .mergeList t layer key down _ => some (0x21, [t.ctx, t.step, t.cmd, t.sender, t.origin, t.row, layer, key, if down then 1 else 0])
  | .retRow t layer key ex first total _ => some (0x22, [t.ctx, t.step, t.cmd, t.sender, t.origin, t.row, layer, key, ex, first, total])
  | .mirror c layer rows step pass first total _ => some (0x23, [c, layer, rows, step, pass, first, total])
  | .planDigest d => some (0x40, [d])
  | .hint layer ex => some (0x41, [layer, ex])
  | _ => none

/-- Service code (tables "Fabric services", "Memory-fabric services", "Collective services", "Coding services" and that of
checkpoints). A TAKEOVER is code 0x06. -/
def serviceCode (b : Body) : Nat :=
  match b with
  | .ack _ => 0x01
  | .heartbeat _ => 0x02
  | .linkState .. => 0x03
  | .memberLost .. => 0x04
  | .skip => 0x05
  | .takeover .. => 0x06
  | .ckptRequest .. => 0x07
  | .ckptTile .. => 0x08
  | .load .. => 0x10
  | .store .. => 0x11
  | .atomic .. => 0x12
  | .signal .. => 0x13
  | .parityDelta .. => 0x14
  | .decodeRead .. => 0x15
  | .groupDone .. => 0x16
  | .groupRecord _ => 0x17
  | .loadData .. => 0x18
  | .atomicData .. => 0x19
  | .decodeTerm .. => 0x1A
  | .groupState .. => 0x1B
  | .rebuildStart .. => 0x1C
  | .decodeData .. => 0x1D
  | .enter .. => 0x30
  | .stroke .. => 0x31
  | .scan .. => 0x32
  | .crewAbort .. => 0x33
  | .landing .. | .mergeList .. | .retRow .. | .mirror .. | .planDigest _ | .hint .. =>
    match freeService b with
    | some f => f.1 / 16 * 16 + (Config.packetField f.1 [] 0).toNat % 16
    | none => 0

/-- The OR of the special flags of a packet's elements. -/
def flagsOr (l : List Elem) : Nat := l.foldl (fun n e => n ||| e.flags % 8) 0

/-- Instance and attempt in one field (R276). -/
def instField (inst att : Nat) : Nat := inst % 2 ^ 29 * 8 + att % 8

/-- The service fields that are laid out, before the zeros that fill the 16 bytes. -/
def serviceFields (b : Body) : List Byte :=
  match b with
  | .ack l => match l with
    | [] => []
    | x :: t => leBytes 2 x.2.1 ++ leBytes 1 x.1 ++ leBytes 1 l.length ++ leBytes 4 x.2.2 ++ (match t with
      | [] => []
      | y :: _ => leBytes 2 y.2.1 ++ leBytes 1 y.1 ++ leBytes 1 0 ++ leBytes 4 y.2.2)
  | .heartbeat t => leBytes 8 t
  | .linkState p up c => leBytes 1 p ++ leBytes 1 up ++ leBytes 2 c
  | .memberLost a c t => leBytes 2 a.coord ++ leBytes 1 a.aux ++ leBytes 1 c ++ leBytes 8 t
  | .skip => []
  | .takeover r a c t => leBytes 2 r ++ leBytes 2 a.coord ++ leBytes 1 a.aux ++ leBytes 1 c ++ leBytes 2 0 ++ leBytes 8 t
  | .ckptRequest t o r c k => leBytes 4 t ++ leBytes 2 o ++ leBytes 1 r ++ leBytes 1 c ++ leBytes 8 k
  | .ckptTile sh st t p _ => leBytes 4 sh ++ leBytes 4 st ++ leBytes 4 t ++ leBytes 1 p
  | .load o n => leBytes 8 (o % 2 ^ 35) ++ leBytes 4 n
  | .store o _ => leBytes 8 (o % 2 ^ 35)
  | .atomic o op sz nr _ _ => leBytes 8 (o % 2 ^ 35) ++ leBytes 1 op ++ leBytes 1 sz ++ leBytes 1 (if nr then 1 else 0)
  | .signal k n => leBytes 2 k ++ leBytes 2 0 ++ leBytes 4 n
  | .loadData t st _ => leBytes 2 t ++ leBytes 1 st
  | .atomicData t st _ => leBytes 2 t ++ leBytes 1 st
  | .parityDelta s g sl r f n gs => leBytes 4 s ++ leBytes 4 g ++ leBytes 1 (sl % 8 + r % 2 * 8) ++ leBytes 1 f ++ leBytes 1 gs.length ++
      leBytes 1 n
  | .decodeRead s v i k rq nx p => leBytes 4 s ++ leBytes 4 v ++ leBytes 1 i ++ leBytes 1 k ++ leBytes 2 rq ++ leBytes 2 nx.coord ++
      leBytes 1 (nx.aux % 4 + p % 8 * 4)
  | .decodeTerm rq s p _ => leBytes 2 rq ++ leBytes 2 0 ++ leBytes 4 s ++ leBytes 1 p
  | .decodeData rq s i _ => leBytes 2 rq ++ leBytes 2 0 ++ leBytes 4 s ++ leBytes 1 i
  | .groupDone g i => leBytes 4 g ++ leBytes 1 i
  | .groupRecord g => leBytes 4 g
  | .groupState a o u i f => leBytes 4 a ++ leBytes 4 o ++ leBytes 4 u ++ leBytes 1 i ++ leBytes 1 f
  | .rebuildStart g v i l _ _ => leBytes 4 g ++ leBytes 1 v ++ leBytes 1 i ++ leBytes 1 l
  | .enter c r i a g => leBytes 2 c ++ leBytes 2 r ++ leBytes 4 (instField i a) ++ leBytes 8 g
  | .stroke c n st i a f _ l => leBytes 2 c ++ leBytes 2 n ++ leBytes 4 (instField i a) ++ leBytes 4 f ++
      leBytes 1 (flagsOr l + (if flagsOr l = 0 then 0 else 8)) ++ leBytes 1 st
  | .scan c r n st i a f _ => leBytes 2 c ++ leBytes 2 (r % 16 * 4096 + n % 4096) ++ leBytes 4 (instField i a) ++ leBytes 4 f ++
      leBytes 1 0 ++ leBytes 1 st
  | .crewAbort c o i a k => leBytes 2 c ++ leBytes 2 o ++ leBytes 4 (instField i a) ++ leBytes 1 k
  | .landing .. | .mergeList .. | .retRow .. | .mirror .. | .planDigest _ | .hint .. =>
    match freeService b with
    | some f => (List.range 16).map (fun i => Config.packetField f.1 f.2 (i + 1))
    | none => []

/-- The map of special flags, 3 bits an element (R276). -/
def flagMap (l : List Elem) : List Byte :=
  leBytes ((3 * l.length + 7) / 8) (l.reverse.foldl (fun n e => n * 8 + e.flags % 8) 0)

/-- The data bytes of a packet, with the 16-byte headers of R130 and R141 and the 64-byte header of R142 before the first piece. The
count of pairs in the landing header of a tree packet, which is one for all its destinations, is free (log 132). -/
def dataBytes (tree : Bool) : Body → List Byte
  | .store _ l => l
  | .atomic _ _ _ _ x y => leBytes 8 x ++ leBytes 8 y
  | .loadData _ _ l => l
  | .atomicData _ _ o => leBytes 8 o
  | .landing t layer key pairs _ first _ row =>
    (if first = 0 then leBytes 8 key ++ leBytes 2 t.origin ++ leBytes 2 layer ++
        (if tree then (List.range 4).map (Config.packetField 0x24 (pairs.flatMap (fun p => [p.1, p.2]))) else leBytes 4 pairs.length)
     else []) ++ row
  | .mergeList _ _ _ _ l => mergeBytes l
  | .retRow _ layer key ex first _ row =>
    (if first = 0 then leBytes 8 key ++ leBytes 4 ex ++ leBytes 2 layer ++ leBytes 2 0 else []) ++ row
  | .mirror _ layer rows step pass first total l =>
    (if first = 0 then leBytes 2 layer ++ leBytes 2 rows ++ leBytes 4 step ++ leBytes 4 total ++ leBytes 4 pass ++ leBytes 48 0
     else []) ++ l
  | .stroke _ _ _ _ _ _ w l =>
    (l.map (fun e => leBytes w (ofSigned (8 * w) e.val))).flatten ++ (if flagsOr l = 0 then [] else flagMap l)
  | .scan _ _ _ _ _ _ _ vs =>
    (vs.map (fun v => (v.counts.map (leBytes 4)).flatten ++ leBytes 8 v.key ++ leBytes 1 (if v.hasTok then 1 else 0))).flatten
  | .parityDelta _ _ _ _ _ _ gs => gs.flatten
  | .decodeTerm _ _ _ l => l
  | .decodeData _ _ _ l => l
  | .rebuildStart _ _ _ _ rs ss => (rs.map (leBytes 2)).flatten ++ (ss.map (fun a => leBytes 4 (wordOfAddr a))).flatten
  | .ckptTile _ _ _ _ l => l
  | _ => []

/-- The 32-byte packet header (table "Packet header"). -/
def packetHeader (pk : Packet) : List Byte :=
  let d := pk.dsts.headD (⟨0, 0⟩, 0)
  let one := pk.mode == 0
  leBytes 2 (if pk.mode = 1 then 0 else if one then d.1.coord else pk.src.coord) ++ leBytes 2 pk.src.coord ++
  leBytes 1 ((if one then d.1.aux % 4 else 0) + pk.src.aux % 4 * 4 + pk.mode % 4 * 16 + pk.lineDim % 4 * 64) ++
  leBytes 1 (if pk.mode = 2 then pk.span % 128 + (if pk.minus then 128 else 0) else 0) ++
  leBytes 2 (bodyBytes pk.body) ++
  leBytes 2 (if one && pk.tc != 0 then d.2 else 0) ++
  leBytes 2 (pk.txn % 4096 + pk.attempt % 4 * 4096 + pk.ctx % 4 * 16384) ++
  leBytes 1 (serviceCode pk.body) ++ leBytes 1 pk.hops ++ leBytes 2 0 ++ fillTo 16 (serviceFields pk.body)

/-- The tree extension (table "Tree extension"): the destinations this copy carries, from the first place on (log 132). -/
def treeExtension (pk : Packet) : List Byte :=
  let at_ (i : Nat) := pk.dsts.getD i (⟨0, 0⟩, 0)
  leBytes 2 (2 ^ pk.dsts.length - 1) ++ leBytes 2 0 ++ ((List.range 16).map (fun i => leBytes 2 (at_ i).1.coord)).flatten ++
    ((List.range 16).map (fun i => leBytes 2 (at_ i).2)).flatten ++
    leBytes 4 ((List.range 16).foldl (fun n i => n + (at_ i).1.aux % 4 * 4 ^ i) 0)

/-- Header, extension and data of a packet. -/
def packetBytes (pk : Packet) : List Byte :=
  packetHeader pk ++ (if pk.mode = 1 then treeExtension pk else []) ++ dataBytes (pk.mode == 1) pk.body

/-- The flits of a packet sent on a port, the credits returned one pair to a flit (R207, R208). -/
def NetOut.flits (o : NetOut) : List (List Byte) :=
  let n := packetFlits o.pk
  let b := packetBytes o.pk
  (List.range n).map (fun j =>
    flit (flitHeader (flitKind n j) o.pk.tag o.pk.tc o.pk.vc (o.credits.getD j (0, 0))) ((b.drop (248 * j)).take 248))

end Sys2Proof.Machine
end

