-- ==== Sys2Proof/Machine/Timing.lean ====
section
/-! DEFINITION. Time across modules (spec/15): the choice of time source and upstream, offsets and synchronisation states of
the Global Counter, host time pairs and the launch ramp. Rows UPSTREAM_LOST, GC_VALUE_READ, PTM_DIALOG,
RAMP_START and RAMP_END; BEACON stands in Port.lean, LAUNCH_TICK in Launch.lean. -/
namespace Sys2Proof.Machine

/-- Synchronisation states (R294). -/
abbrev gcFree : Nat := 0
abbrev gcAcquiring : Nat := 1
abbrev gcLocked : Nat := 2
abbrev gcHoldover : Nat := 3
abbrev gcSourceState : Nat := 4

/-- Ticks in 100 µs. -/
abbrev beaconWindow : Nat := 10000

/-! ### Source and upstream (R292, R294) -/

/-- A candidate carried by a beacon: priority and coordinate, stratum and port. -/
structure TimeCand where
  priority : Nat
  coord : Nat
  stratum : Nat
  port : Nat
  deriving DecidableEq, Repr

/-- Candidates of the beacons received in the last 100 µs on ports in UP. -/
def State.timeCands (s : State) : List TimeCand :=
  allPorts.filterMap (fun p =>
    match (s.port p).beacon with
    | none => none
    | some (b, t) =>
      if s.portUp p && decide (s.now ≤ t + beaconWindow) && decide (b.stratum ≤ 62) then some ⟨b.priority, b.coord, b.stratum, p⟩ else none)

/-- Own candidacy as time source. -/
def State.ownCand (s : State) : List (Nat × Nat) :=
  let p := s.force Key.gcSourcePriority
  if p = 255 then [] else [(p, s.coord)]

/-- Order of candidates: priority, then coordinate. -/
def candLess (a b : Nat × Nat) : Bool := decide (a.1 < b.1) || (a.1 == b.1 && decide (a.2 ≤ b.2))

/-- The best source. -/
def State.bestSource (s : State) : Option (Nat × Nat) :=
  (sortBy candLess (s.ownCand ++ s.timeCands.map (fun c => (c.priority, c.coord)))).head?

/-- The upstream for a source: its beacon of lowest stratum, the lower port winning a tie. -/
def State.upstreamFor (s : State) (src : Nat × Nat) : Option TimeCand :=
  (sortBy (fun (a b : TimeCand) => decide (a.stratum < b.stratum) || (a.stratum == b.stratum && decide (a.port ≤ b.port)))
    (s.timeCands.filter (fun c => c.priority == src.1 && c.coord == src.2))).head?

/-- Change `GC_STATE`; a departure from LOCKED is counted and logged (R294). -/
def State.setGcState (s : State) (st : Nat) : State :=
  let old := s.reg Key.gcState
  if old = st then s
  else
    let s := s.setReg Key.gcState st
    if old = gcLocked then
      (s.bump Key.gcLockLossCount 1).log sevWarning noCtx 0x0D none32 Key.gcLockLossCount st
    else s

/-- Report the source in use, the own stratum and the upstream port. -/
def State.noteSource (s : State) (src stratum port : Nat) : State :=
  ((s.setReg Key.gcSource src).setReg Key.gcStratum stratum).setReg Key.gcUpstreamPort port

/-- Choose time source and upstream (R292). A LOCKED counter with no upstream left stays LOCKED until none has been heard
for 100 µs (R294). -/
def State.chooseUpstream (s : State) : State :=
  if !s.time.gcRunning then s
  else
    match s.bestSource with
    | none =>
      let s := s.noteSource none32 0xFF 0xFF
      if s.reg Key.gcState = gcFree ∨ (s.reg Key.gcState = gcLocked ∧ s.now < s.time.upstreamSince + beaconWindow) then s
      else s.setGcState gcHoldover
    | some src =>
      let word := src.1 * 65536 + src.2
      if (s.ownCand.contains src) then
        ((s.setGcState gcSourceState).setRegI Key.gcRateTrim 0).noteSource word 0 0xFF
      else
        match s.upstreamFor src with
        | none => s
        | some u =>
          let fresh := s.reg Key.gcUpstreamPort ≠ u.port ∨ s.reg Key.gcState = gcFree ∨ s.reg Key.gcState = gcHoldover ∨
            s.reg Key.gcState = gcSourceState
          let s := s.noteSource word (u.stratum + 1) u.port
          if fresh then
            (s.setGcState gcAcquiring).modTime (fun t => { t with acquireFirst := true, offsets := [], lockRun := 0 })
          else s

/-! ### Offsets (R293, R294) -/

/-- Offset of a beacon in 1/65,536 ps: own stamp at arrival, less the sender's, less the latency of the port. -/
def State.beaconOffset (s : State) (p : Fin 16) (b : Beacon) : Int :=
  ((s.gc : Int) - ((b.ticks * 65536 + b.fraction : Nat) : Int)) * 10000 - ((s.reg (Key.portLatency p) * 65536 : Nat) : Int)

/-- Step the counter back by an offset in 1/65,536 ps. -/
def Time.step (t : Time) (off : Int) : Time :=
  let v := (((t.gcTicks * 65536 + t.gcFraction : Nat) : Int) - off / 10000) % ((2 ^ 80 : Nat) : Int)
  { t with gcTicks := v.toNat / 65536, gcFraction := v.toNat % 65536, stepped := true }

/-- A rate trim within ±100 ppm. -/
def limitTrim (x : Int) : Int := if x < -100000 then -100000 else if 100000 < x then 100000 else x

/-- What a beacon of the upstream does to the counter: a step at acquisition, else the loop (R293, R294). Whole ps are
taken downward (log 53). -/
def State.trackUpstream (s : State) (off : Int) : State :=
  let ps := off / 65536
  if s.time.acquireFirst ∧ ((s.force Key.gcStepThreshold * 1000 : Nat) : Int) ≤ (ps.natAbs : Int) then
    ((s.modTime (fun t => { t.step off with acquireFirst := false, offsets := [], lockRun := 0 })).bump Key.gcStepCount 1).log
      sevInfo noCtx 0x0D none32 Key.gcStepCount (ofSigned 32 ps)
  else
    let offs := ps :: s.time.offsets
    let f := Config.loopFilter offs
    let s := s.modTime (fun t => { t with acquireFirst := false, offsets := offs })
    let s := (s.setRegI Key.gcOffsetPs f).setRegI Key.gcRateTrim (limitTrim (Config.loopTrim offs))
    if s.reg Key.gcState = gcAcquiring then
      let n := if f.natAbs ≤ 1000 then s.time.lockRun + 1 else 0
      let s := s.modTime (fun t => { t with lockRun := n })
      if 16 ≤ n then s.setGcState gcLocked else s
    else if s.reg Key.gcState = gcLocked ∧ 2000 < f.natAbs then
      (s.setGcState gcAcquiring).modTime (fun t => { t with lockRun := 0 })
    else s

/-- A beacon has arrived on a port: it is kept, the source is chosen again, and one of the upstream moves the counter. -/
def State.beaconTime (s : State) (p : Fin 16) (b : Beacon) : State :=
  let off := s.beaconOffset p b
  let s := (s.modPort p (fun x => { x with beacon := some (b, s.now) })).chooseUpstream
  if s.portUp p ∧ s.reg Key.gcUpstreamPort = p.val ∧ (s.reg Key.gcState = gcAcquiring ∨ s.reg Key.gcState = gcLocked) then
    (s.modTime (fun t => { t with upstreamSince := t.now })).trackUpstream off
  else s

/-- UPSTREAM_LOST (R294): beacons older than 100 µs no longer count. -/
def execUpstreamLost (dt : Nat) (s : State) : Host.Outcome State Fault Refusal := .next (s.advance dt).chooseUpstream

/-! ### Reads of the counter and host time (R290, R296) -/

/-- A read of `GC_VALUE` latches the fraction of its instant. -/
def State.gcLatch (s : State) : State := s.setReg Key.gcFraction s.time.gcFraction

/-- GC_VALUE_READ (R290). -/
def execGcValueRead (s : State) : Host.Outcome State Fault Refusal := 
  .next (if s.hostLink then s.gcLatch.toHost (.word Key.gcValue s.tick) else s)

/-- Record a time pair (R296). Pairs are numbered from 0 (log 54). -/
def State.recordPair (s : State) (kind host : Nat) : State :=
  let st := s.reg Key.gcState
  let p : TimePair :=
    { ticks := s.time.gcTicks, fraction := s.time.gcFraction, kind := kind,
      flags := (if st = gcLocked ∨ st = gcSourceState then 1 else 0) + (if s.time.stepped then 2 else 0),
      seq := s.reg Key.timePairsHead, hostTime := host }
  (s.modTime (fun t => { t with pairs := (p :: t.pairs).take 16, stepped := false })).advanceCount Key.timePairsHead

/-- PTM_DIALOG (R296): a dialog completes, when enabled and due. -/
def execPtmDialog (t dt : Nat) (s : State) : Host.Outcome State Fault Refusal :=
  .next (
    let s := s.advance dt
    if s.hostLink ∧ s.force Key.ptmEnable = 1 ∧ s.time.lastPtm + s.force Key.ptmInterval * 100000 ≤ s.now then
      (s.modTime (fun x => { x with lastPtm := x.now })).recordPair 1 t
    else s)

/-! ### Launch ramps (R299) -/

/-- Number of a queue over the module. -/
def queueNo (c : Fin 4) (q : Fin 8) : Nat := 8 * c.val + q.val

/-- RAMP_START (R299, log 55): the entry with AT_TICK at the head of a queue starts its ramp when it is due. While another ramp runs,
the earlier launch tick is served, and the later one starts its own ramp when due (R305). -/
def execRampStart (c : Fin 4) (q : Fin 8) (dt : Nat) (s : State) : Host.Outcome State Fault Refusal :=
  .next (
    let s := s.advance dt
    match s.run c q with
    | none => s
    | some r =>
      let lead := s.force Key.rampLead
      let id := (queueNo c q, (s.queue c q).next)
      let earlier := match s.time.ramp with | some t => decide (r.entry.launch < t) | none => true
      if bit r.entry.flags 0 && r.phase == .waiting && decide (0 < lead) && decide (r.entry.launch ≤ s.tick + lead) &&
          decide (s.tick < r.entry.launch) && !s.time.ramped.contains id && !s.emergency && earlier then
        (s.modTime (fun t => { t with ramp := some r.entry.launch, ramped := (id :: (if t.ramp.isSome then t.ramped.drop 1 else t.ramped)).take 32 })).bump Key.rampCount 1
      else s)

/-- RAMP_END (R299): from the launch tick on the cells are switched out, when the draw of the work reaches the target or
1 ms after the launch. -/
def execRampEnd (dt : Nat) (s : State) : Host.Outcome State Fault Refusal :=
  .next (
    let s := s.advance dt
    match s.time.ramp with
    | none => s
    | some t => if t ≤ s.tick then s.modTime (fun x => { x with ramp := none }) else s)

end Sys2Proof.Machine
end

