-- ==== Sys2Proof/Machine/Port.lean ====
section
/-! DEFINITION. Llynca ports (spec/11) and what arrives on them (spec/12): training and link-up, link control messages, errors
on a hop, loss of a link, partition tags and boundary handshakes, and packets entering the Fabric Router. Rows
DETECT_COMPLETE to LINK_SILENCE_END, BOUNDARY_TIMEOUT, PACKET_ARRIVAL and LINK_STATE; the register writes PORT_ENABLE,
PORT_DISABLE, PARTITION_JOIN, PARTITION_TEARDOWN and TRANSIT_TAGS_WRITE stand in DictAccess.lean and call what is here. -/
namespace Sys2Proof.Machine

/-- Ticks in 1 ms, 2 µs, 200 µs. -/
abbrev ms1 : Nat := 100000
abbrev us2 : Nat := 200
abbrev us200 : Nat := 20000

/-- An entry written and not yet in force takes effect (R380). -/
def State.takeEffect (s : State) (k : Nat) : State := s.modAcc (fun a => { a with rwc := assocDrop a.rwc k })

/-! ### Roles and neighbours (R203, R204) -/

/-- Role codes. -/
abbrev roleMesh : Nat := 0
abbrev roleTorus : Nat := 1
abbrev roleSpare : Nat := 2
abbrev roleUnused : Nat := 5

/-- Role of a port; a torus port of a dimension of size 1 is UNUSED (R204). -/
def State.roleOf (s : State) (p : Nat) : Nat :=
  let r := s.force (Key.portRole p)
  if (r = 1 ∨ r = 3 ∨ r = 4) ∧ s.ringSize (portDim p).1 = 1 then roleUnused else r

/-- A port that may train: enabled, with a role, on a module whose ports may work (R9, R203). -/
def State.portUsable (s : State) (p : Nat) : Bool :=
  s.reg (Key.portEnable p) == 1 && s.roleOf p != roleUnused && s.mstate != stSafe &&
    (match s.start.stage with | some st => decide (6 ≤ st) | none => true)

/-- A coordinate from its parts. -/
def mkCoord (s x y z : Nat) : Nat := s % 8 + 8 * (x % 16) + 128 * (y % 32) + 4096 * (z % 16)

/-- The neighbour a port expects: coordinate, port and role; `none` for a SPARE port, which expects any (R204). -/
def State.expectedNeighbour (s : State) (p : Nat) : Option (Nat × Nat × Nat) :=
  let c := s.coord
  let plus (d : Nat) (minus : Bool) : Nat :=
    let n := s.ringSize d
    let v := (coordIn d c + (if minus then n - 1 else 1)) % n
    match d with
    | 1 => mkCoord (coordS c) v (coordY c) (coordZ c)
    | 2 => mkCoord (coordS c) (coordX c) v (coordZ c)
    | _ => mkCoord (coordS c) (coordX c) (coordY c) v
  if p ≤ 6 then some (mkCoord (coordS c + p + 1) (coordX c) (coordY c) (coordZ c), 6 - p, roleMesh)
  else if s.roleOf p = roleSpare then none
  else
    let d := portDim p
    if p ≤ 13 then some (plus d.1 d.2, oppositePort p, roleTorus)
    else if p = 14 then some (plus 1 false, 15, 4)
    else some (plus 1 true, 14, 3)

/-! ### Start log records (R423) -/

/-- Write a start log record: newest first in the ring of 64 (R423); the bundle field holds `FW_BUNDLE_VERSION` as it reads
then (log 91). -/
def State.startRecord (s : State) (kind stage item fallback reason elapsed detail : Nat) : State :=
  let r : StartRec := ⟨s.reg Key.startCount, kind, stage, item, fallback, reason, elapsed, detail, s.reg Key.fwBundleVersion⟩
  (s.modStart (fun x => { x with log := (r :: x.log).take 64 })).bump Key.startLogHead 1

/-- Milliseconds since auxiliary power came, restarts included. -/
def State.elapsed (s : State) : Nat := (s.now - s.start.began) / 100000

/-! ### Training (R206, R211) -/

/-- Set a port's state. -/
def State.setPortState (s : State) (p : Fin 16) (st : Nat) : State :=
  (s.setReg (Key.portState p) st).modPort p (fun x => { x with stateSince := s.now })

/-- The next lower serial lane rate. -/
def lowerRate : Nat → Nat
  | 256 => 128
  | _ => 64

/-- Rate of an attempt: the maximum stepped down once an attempt, never above the other end's maximum (log 56). -/
def attemptRate (max other attempt : Nat) : Nat :=
  let m := if other = 0 then max else min max other
  if attempt ≤ 1 then m
  else if 4 ≤ attempt then 64
  else if attempt = 2 then min m (lowerRate max)
  else min m (lowerRate (lowerRate max))

/-- Rates below the highest at which a port begins within ST6: those its fallback count selects for the ports the previous start's
records name (R418, R421). -/
def State.startLower (s : State) (p : Fin 16) : Nat :=
  if s.start.stage = some 6 ∧ s.start.named.contains p.val then min 2 (s.start.fallback.getD 2 0) else 0

/-- Begin an attempt in DETECT (R211). -/
def State.beginAttempt (s : State) (p : Fin 16) (n : Nat) : State :=
  let s := (s.setPortState p 1).bump (Key.portTrainAttempts p) 1
  s.modPort p (fun x => { x with
    attempt := n, rate := attemptRate (s.force (Key.portRateMax p)) x.otherMax (n + s.startLower p), started := s.now, capsSeen := none, await := [], probes := [],
    inPacket := none })

/-- Start training from the first attempt: the role and the highest rate written take effect (R203, R211). -/
def State.startTraining (s : State) (p : Fin 16) : State :=
  let s := ((s.takeEffect (Key.portRole p)).takeEffect (Key.portRateMax p)).modPort p (fun x => { x with
    otherMax := 0, silentSince := none, wanted := false })
  if s.portUsable p then (s.setReg (Key.portStatus p) 0).beginAttempt p 1
  else s.setPortState p 0

/-- A port that ends DOWN within ST6 is recorded and reported; one whose training or verification failed counts as skipped for the
fallback count (R421). A port without a neighbour is recorded as ABSENT (log 82). -/
def State.skipPort (s : State) (p : Fin 16) (status reason : Nat) : State :=
  let s := s.startRecord 2 6 p (s.start.fallback.getD 2 0) (if status = 1 then 5 else reason) s.elapsed status
  let s := s.setReg Key.startDegraded (s.reg Key.startDegraded ||| 2 ^ p.val)
  s.modPort p (fun x => { x with skipped := status == 2 || status == 5 })

/-- Hold a port DOWN with a status, logged (R211, R212). That the event is a WARNING, where the rules say only that one is logged, is
a DESIGN CHOICE (log 107). -/
def State.holdDown (s : State) (p : Fin 16) (status : Nat) : State :=
  let s := ((s.setPortState p 6).setReg (Key.portStatus p) status).setReg (Key.portRate p) 0
  let s := if s.start.stage = some 6 then s.skipPort p status 4 else s
  (s.modPort p (fun x => { x with await := [] })).log sevWarning noCtx 0x09 none32 (Key.portStatus p) (p.val * 256 + status)

/-- A training attempt has failed: idle before the next one, or held DOWN after the fourth (R211). -/
def State.failAttempt (s : State) (p : Fin 16) : State :=
  let st := s.reg (Key.portState p)
  if 4 ≤ (s.port p).attempt then s.holdDown p (if st = 4 then 5 else 2)
  else
    let s := (s.setPortState p 7).setReg (Key.portStatus p) (if st = 1 then 1 else if st = 4 then 5 else 2)
    s.modPort p (fun x => { x with await := [] })

/-- The CAPS this port sends (R210, R212). -/
def State.ownCaps (s : State) (p : Fin 16) : Caps :=
  { version := s.reg Key.llyncaVersion, features := 0xF, coord := s.coord, port := p, role := s.roleOf p, rateMax := s.force (Key.portRateMax p) }

/-- Credits returned by the headers of arriving flits (R207, R208). -/
def State.addCredits (s : State) (p : Fin 16) (cr : List (Nat × Nat)) : State :=
  s.modPort p (fun x => { x with credits := cr.foldl (fun l c => listSet l c.1 (l.getD c.1 0 + c.2)) x.credits })

/-- What every arriving flit brings: the credits in its header, and the symbols corrected in it (R207, R208). -/
def State.takeIn (s : State) (p : Fin 16) (fl : FlitIn) : State := (s.addCredits p fl.cr).bump (Key.portFecCorrected p) fl.fec

/-- A LINK flit arrives on a port that is training or UP (R208, R210, R223). -/
def State.rxLink (s : State) (p : Fin 16) (fl : FlitIn) : State :=
  if 2 ≤ s.reg (Key.portState p) ∧ s.reg (Key.portState p) ≤ 5 then ((s.takeIn p fl).bump (Key.portFlitsRx p) 1).pump else s

/-- A feature that both ends' CAPS set (R212): 0 DATELINE_VC, 1 X_DOUBLE, 2 SPARE_ATTACH, 3 LAT_MEASURE. -/
def State.feature (s : State) (p b : Nat) : Bool := bit (s.reg (Key.portFeatures p)) b

/-- Send a link control message that expects an answer; it is repeated until then (R210). -/
def State.sendAwait (s : State) (p : Fin 16) (m : LinkMsg) : State :=
  (s.sendLink p m).modPort p (fun x => { x with await := x.await.filter (fun a => a.msg != m) ++ [⟨m, s.now⟩] })

/-- A message has been answered. -/
def State.answeredMsg (s : State) (p : Fin 16) (f : LinkMsg → Bool) : State :=
  s.modPort p (fun x => { x with await := x.await.filter (fun a => !f a.msg) })

/-- DETECT_COMPLETE (R211): receivers found and electrical idle left on all four serial lanes. -/
def execDetectComplete (p : Fin 16) (s : State) : Host.Outcome State Fault Refusal :=
  .next (if s.reg (Key.portState p) = 1 then s.setPortState p 2 else s)

/-- Send 64 latency probes, where both ends measure latency (R212, R213). -/
def State.sendProbes (s : State) (p : Fin 16) : State :=
  let b := (s.port p).probeSeq
  let s := if s.feature p 3 then s.forEach (List.range 64) (fun s i => s.sendLink p (.latProbe ((b + i) % 2 ^ 32))) else s
  s.modPort p (fun x => { x with probes := [], probeSeq := (b + 64) % 2 ^ 32, lastProbe := s.now })

/-- The first check of the other end's CAPS that fails, as a port status; 0 when all pass (R212). -/
def State.capsStatus (s : State) (p : Fin 16) (o : Caps) : Nat :=
  let exp := s.expectedNeighbour p
  let doubled := p.val = 14 ∨ p.val = 15
  let mate := s.reg (Key.portNeighbour (if p.val = 14 then 8 else 9))
  let mateCoord := if mate = none32 then (match exp with | some e => e.1 | none => 0) else mate / 256
  if o.version / 256 ≠ s.reg Key.llyncaVersion / 256 then 3
  else if s.force (Key.portCheckWiring p) = 1 ∧ (match exp with | some e => decide (o.coord ≠ e.1 ∨ o.port ≠ e.2.1) | none => false) = true then 4
  else if (match exp with | some e => decide (o.role ≠ e.2.2) | none => decide (o.role ≠ roleSpare)) = true then 8
  else if doubled ∧ s.roleOf p ≠ roleSpare ∧ o.coord ≠ mateCoord then 8
  else 0

/-- The CAPS of the other end are checked; when they pass the link is verified (R212). -/
def State.checkCaps (s : State) (p : Fin 16) (o : Caps) : State :=
  let s := s.modPort p (fun x => { x with otherMax := o.rateMax, capsSeen := some o })
  let bad := s.capsStatus p o
  if bad ≠ 0 then s.holdDown p bad
  else
    let own := s.ownCaps p
    let s := ((s.setReg (Key.portVersion p) (min own.version o.version)).setReg (Key.portFeatures p) (own.features &&& o.features)).setReg
      (Key.portNeighbour p) (o.coord * 256 + o.port)
    ((s.answeredMsg p (fun m => match m with | .caps _ => true | _ => false)).setPortState p 4).sendProbes p

/-- What a receiver makes good of a lane bundle (R209, log 145): a polarity inversion on any of the lanes, a skew of up to 4 ns between them (in ps), and, by
IDLE flits that its elastic buffer inserts or removes, up to 100 ppm between the two REFCLKs; not a reversed lane order. -/
def receivable (ppm skew _inverted : Nat) (reversed : Bool) : Bool := !reversed && decide (skew ≤ 4000) && decide (ppm ≤ 100)

/-- TRAIN_COMPLETE (R209, R211): lock and deskew reached; CAPS is sent. Lanes beyond what the receiver makes good reach none. -/
def execTrainComplete (p : Fin 16) (ppm skew inverted : Nat) (reversed : Bool) (s : State) : Host.Outcome State Fault Refusal :=
  .next (
    if s.reg (Key.portState p) ≠ 2 ∨ !receivable ppm skew inverted reversed then s
    else
      let s := (s.setPortState p 3).sendAwait p (.caps (s.ownCaps p))
      match (s.port p).capsSeen with
      | some o => s.checkCaps p o
      | none => s)

/-- CAPS (R212): the other end's message arrives. -/
def execCaps (p : Fin 16) (fl : FlitIn) (other : Caps) (s : State) : Host.Outcome State Fault Refusal :=
  .next (
    let s := s.rxLink p fl
    let st := s.reg (Key.portState p)
    if st = 3 then s.checkCaps p other
    else if st = 2 then s.modPort p (fun x => { x with capsSeen := some other })
    else if st = 4 then s.sendLink p (.caps (s.ownCaps p))
    else s)

/-! ### Tags (R218 to R221) -/

/-- The tag entry of a port. -/
def State.tagOf (s : State) (p : Fin 16) (t : Nat) : Option TagState := (s.port p).tags.find? (fun x => x.tag == t)

/-- Change the tag entry of a port. -/
def State.modTag (s : State) (p : Fin 16) (t : Nat) (f : TagState → TagState) : State :=
  s.modPort p (fun x => { x with tags := x.tags.map (fun y => if y.tag = t then f y else y) })

/-- Handshakes asked for through `PARTITION_REQUEST` that are still in progress on ports in UP (R221). -/
def State.requestBusy (s : State) : Bool :=
  allPorts.any (fun p => s.portUp p && (s.port p).tags.any (fun t => t.byRequest && (t.handshake.isSome || (t.asked && !t.egress))))

/-- Addresses at the far ends of ports whose neighbours accept the own tag, at most 16 (R244). -/
def State.watchSet (s : State) : List Addr :=
  let own := s.reg Key.partitionTag
  ((allPorts.filter (fun (p : Fin 16) => s.portUp p && s.egressOk p own)).map (fun (p : Fin 16) =>
    if s.isSparePort p ∧ s.fab.attach = none then
      (⟨s.coord, if p.val = 7 then 1 else if p.val = 14 then 2 else 3⟩ : Addr)
    else ⟨s.reg (Key.portNeighbour p) / 256 % 65536, 0⟩)).take 16

/-- All handshakes asked for through `PARTITION_REQUEST` have finished: status 2 or 3, and a join fixes the watch set
(R221, R244). -/
def State.settleRequest (s : State) : State :=
  if !s.fab.requesting ∨ s.requestBusy then s
  else
    let s := s.modFab (fun f => { f with requesting := false })
    let s := s.setReg Key.partitionStatus (if s.fab.joinTimeouts then 3 else 2)
    let s := if s.reg Key.partitionTag = 0 then s else s.modFab (fun f => { f with watch := s.watchSet })
    s.forEach allPorts (fun s p => s.modPort p (fun x => { x with tags := x.tags.map (fun t => { t with byRequest := false }) }))

/-- Offer a tag the port has been asked to accept: accepted on ingress at once, TAG_SET repeated without limit (R219). -/
def State.offerTag (s : State) (p : Fin 16) (t : Nat) : State :=
  let s := s.modTag p t (fun x => { x with ingress := true })
  if s.portUp p then s.sendAwait p (.tagSet t) else s

/-- A port is asked to accept a tag (R219); during a boundary handshake of it the offer waits (R222). -/
def State.askTag (s : State) (p : Fin 16) (t : Nat) (byRequest : Bool) : State :=
  match s.tagOf p t with
  | some x =>
    if x.handshake.isSome then s.modTag p t (fun y => { y with again := true, byRequest := y.byRequest || byRequest })
    else if x.asked then s
    else (s.modTag p t (fun y => { y with asked := true, byRequest := byRequest })).offerTag p t
  | none =>
    (s.modPort p (fun x => { x with tags := x.tags ++ [⟨t, true, false, false, none, byRequest, false⟩] })).offerTag p t

/-- Packets in transit that wait here, from or for a port that no longer accepts their tag, are discarded; those of the own tag wait
(R247). -/
def State.dropTransit (s : State) (p : Fin 16) (t : Nat) (ingress own : Bool) : State :=
  if own ∨ t = s.reg Key.partitionTag then s
  else
    let gone (w : Waiting) : Bool := w.pk.tag == t && (w.outPort == p.val || (ingress && w.inPort == p.val))
    let l := s.fab.waiting.filter gone
    let s := s.modFab (fun f => { f with waiting := f.waiting.filter (fun w => !gone w) })
    s.forEach l (fun s w =>
      let s := s.bump (Key.portTagDrop p) 1
      if s.stillHeld w.inPort w.pk then s else s.freeBuffers w.inPort (vcIndex w.pk.tc w.inVc) w.flits)

/-- A boundary handshake has ended: the tag leaves the port, or is offered again when it was asked for meanwhile. -/
def State.endHandshake (s : State) (p : Fin 16) (t : Nat) : State :=
  match s.tagOf p t with
  | none => s
  | some x =>
    let s := (s.answeredMsg p (fun m => m == .boundary t)).dropTransit p t true x.byRequest
    let s := if x.again then
        (s.modTag p t (fun y => { y with ingress := false, egress := false, handshake := none, again := false, asked := true })).offerTag p t
      else s.modPort p (fun y => { y with tags := y.tags.filter (fun z => z.tag != t) })
    s.settleRequest.pump

/-- A port is asked to stop carrying a tag: the boundary handshake begins (R220). A port that is not UP has no tag in force
and is done at once; a handshake already in progress keeps its clock and whether it was asked for by request. -/
def State.dropTag (s : State) (p : Fin 16) (t : Nat) (byRequest : Bool) : State :=
  match s.tagOf p t with
  | none => s
  | some x =>
    let s := s.answeredMsg p (fun m => m == .tagSet t)
    if x.handshake.isSome then s.modTag p t (fun y => { y with asked := false, again := false, byRequest := y.byRequest || byRequest })
    else if s.portUp p then
      ((s.modTag p t (fun y => { y with
        asked := false, egress := false, handshake := some s.now, byRequest := byRequest, again := false })).sendAwait p
          (.boundary t)).dropTransit p t false byRequest
    else s.modPort p (fun y => { y with tags := y.tags.filter (fun z => z.tag != t) })

/-- BOUNDARY (R220): the other end stops carrying a tag, or answers this end's own BOUNDARY (R222). -/
def execBoundary (p : Fin 16) (fl : FlitIn) (tag : Nat) (s : State) : Host.Outcome State Fault Refusal :=
  .next (
    let s := s.rxLink p fl
    if !s.portUp p then s
    else match s.tagOf p tag with
      | none => s.sendLink p (.boundaryAck tag)
      | some x =>
        if x.handshake.isSome then (s.sendLink p (.boundaryAck tag)).endHandshake p tag
        else
          (((s.modTag p tag (fun y => { y with ingress := false, egress := false })).dropTransit p tag true false).sendLink p
            (.boundaryAck tag)).settleRequest)

/-- BOUNDARY_ACK (R220). -/
def execBoundaryAck (p : Fin 16) (fl : FlitIn) (tag : Nat) (s : State) : Host.Outcome State Fault Refusal :=
  .next (
    let s := s.rxLink p fl
    match s.tagOf p tag with
    | some x => if x.handshake.isSome then s.endHandshake p tag else s
    | none => s)

/-- BOUNDARY_TIMEOUT (R220): no answer 200 µs after the first BOUNDARY. -/
def execBoundaryTimeout (p : Fin 16) (tag dt : Nat) (s : State) : Host.Outcome State Fault Refusal :=
  .next (
    let s := s.advance dt
    match s.tagOf p tag with
    | some x =>
      match x.handshake with
      | some t0 =>
        if t0 + us200 ≤ s.now then
          let s := (s.bump (Key.portBoundaryTimeouts p) 1).log sevWarning noCtx 0x09 none32 (Key.portBoundaryTimeouts p) tag
          let s := if x.byRequest then s.modFab (fun f => { f with joinTimeouts := true }) else s
          s.endHandshake p tag
        else s
      | none => s
    | none => s)

/-- Enable a tag on egress. -/
def State.enableEgress (s : State) (p : Fin 16) (t : Nat) : State :=
  (s.modTag p t (fun y => { y with ingress := true, egress := true })).answeredMsg p (fun m => m == .tagSet t)

/-- TAG_SET (R219): answered when this end has been asked to accept the tag, else discarded. -/
def execTagSet (p : Fin 16) (fl : FlitIn) (tag : Nat) (s : State) : Host.Outcome State Fault Refusal :=
  .next (
    let s := s.rxLink p fl
    match s.tagOf p tag with
    | some x =>
      if s.portUp p && x.asked && x.handshake.isNone then
        (((s.enableEgress p tag).sendLink p (.tagSetAck tag)).settleRequest).pump
      else s
    | none => s)

/-- TAG_SET_ACK (R219). -/
def execTagSetAck (p : Fin 16) (fl : FlitIn) (tag : Nat) (s : State) : Host.Outcome State Fault Refusal :=
  .next (
    let s := s.rxLink p fl
    match s.tagOf p tag with
    | some x => if s.portUp p && x.asked && x.handshake.isNone then ((s.enableEgress p tag).settleRequest).pump else s
    | none => s)

/-! ### Link state (R230) -/

/-- Dimension and ring position of the link of a torus port: positions i and i + 1. -/
def State.linkPos (s : State) (p coord : Nat) : Nat × Nat :=
  let d := portDim p
  let n := s.ringSize d.1
  (d.1, if d.2 then (coordIn d.1 coord + n - 1) % n else coordIn d.1 coord)

/-- Set or clear a bit of the link state. -/
def State.setLink (s : State) (word b : Nat) (down : Bool) : State :=
  let v := s.fab.ringState.getD word 0
  let v := if bit v b = down then v else if down then v + 2 ^ b else v - 2 ^ b
  s.modFab (fun f => { f with ringState := listSet f.ringState word v })

/-- Note the state of the link at port `p` of the module at `coord`. -/
def State.noteLink (s : State) (p coord : Nat) (down : Bool) : State :=
  if p ≤ 6 then s.setLink 0 (meshBit (coordS coord) ((coordS coord + p + 1) % 8)) down
  else
    let l := s.linkPos p coord
    if l.1 = 0 then s else s.setLink l.1 l.2 down

/-- The other port of a doubled X link is UP, so that the link is not DOWN (R230). -/
def State.mateUp (s : State) (p : Nat) : Bool :=
  match p with
  | 8 => s.force (Key.portRole 14) == 3 && s.portUp 14 && s.feature 14 1
  | 14 => s.portUp 8
  | 9 => s.force (Key.portRole 15) == 4 && s.portUp 15 && s.feature 15 1
  | 15 => s.portUp 9
  | _ => false

/-- A link of this module went down or came up: its state is kept and sent along its line (R230). A spare port's link is on
no line. -/
def State.reportLink (s : State) (p : Fin 16) (up : Bool) : State :=
  let mesh := decide (p.val ≤ 6)
  if !mesh ∧ !s.isTorus p then s
  else if !up ∧ s.mateUp p then s
  else
    let s := s.noteLink p s.coord (!up)
    if s.reg Key.partitionTag = 0 then s
    else s.sendLine (if mesh then 0 else (portDim p).1) (.linkState p (if up then 1 else 0) s.coord)

/-! ### Link-up (R213, R217) -/

/-- CRC failures of a port, noted with their time (R214, R217, R223). -/
def State.noteCrc (s : State) (p : Fin 16) (n : Nat) : State :=
  (s.bump (Key.portCrcFail p) n).modPort p (fun x => { x with crcHistory := List.replicate n s.now ++ x.crcHistory })

/-- Mean of a list of latencies. -/
def meanOf (l : List Nat) : Nat := (l.foldl (· + ·) 0) / l.length

/-- A port enters UP: latency, buffers offered in credits, boundary state, tags asked for offered (R213, R217, R219,
R233). -/
def State.linkUp (s : State) (p : Fin 16) : State :=
  let lat := if (s.port p).probes.isEmpty then Config.latencyUnknown p else meanOf (s.port p).probes
  let s := (((s.setPortState p 5).setReg (Key.portLatency p) lat).setReg (Key.portRate p) (s.port p).rate).setReg (Key.portStatus p) 0
  let s := s.modPort p (fun x => { x with
    credits := List.replicate 16 0, freed := s.fab.alloc, used := List.replicate 16 0, resync := 0, inPacket := none, deficits := [], rr := [],
    sinceIdle := 0,
    tags := x.tags.map (fun t => { t with ingress := false, egress := false, handshake := none }) })
  let s := s.forEach ((s.port p).tags.filter (fun t => t.asked)) (fun s t => s.offerTag p t.tag)
  (s.reportLink p true).chooseUpstream

/-- VERIFY_END (R213): the test flits have been sent. -/
def execVerifyEnd (p : Fin 16) (crcFails corrected : Nat) (s : State) : Host.Outcome State Fault Refusal :=
  .next (
    if s.reg (Key.portState p) ≠ 4 then s
    else
      let s := (s.bump (Key.portFecCorrected p) corrected).noteCrc p crcFails
      if crcFails = 0 ∧ corrected < 10000 then s.linkUp p else s.failAttempt p)

/-- TRAIN_ATTEMPT_TIMEOUT (R211): an attempt has not reached UP within 60 ms, or a state has used its time. -/
def execTrainAttemptTimeout (p : Fin 16) (dt : Nat) (s : State) : Host.Outcome State Fault Refusal :=
  .next (
    let s := s.advance dt
    let st := s.reg (Key.portState p)
    let inState := s.now - (s.port p).stateSince
    let over_ := decide (60 * ms1 ≤ s.now - (s.port p).started) ||
      (st == 1 && decide (ms1 < inState)) || (st == 2 && decide (41 * ms1 < inState)) || (st == 3 && decide (ms1 / 10 < inState))
    if (st = 1 ∨ st = 2 ∨ st = 3 ∨ st = 4) ∧ over_ then s.failAttempt p else s)

/-- RETRY_WAIT_END (R211): 1 ms of electrical idle has passed. -/
def execRetryWaitEnd (p : Fin 16) (dt : Nat) (s : State) : Host.Outcome State Fault Refusal :=
  .next (
    let s := s.advance dt
    if s.reg (Key.portState p) = 7 ∧ (s.port p).stateSince + ms1 ≤ s.now then s.beginAttempt p ((s.port p).attempt + 1) else s)

/-- LINK_MSG_REPEAT (R210): messages unanswered for 2 µs are sent again. -/
def execLinkMsgRepeat (p : Fin 16) (dt : Nat) (s : State) : Host.Outcome State Fault Refusal :=
  .next (
    let s := s.advance dt
    let due := (s.port p).await.filter (fun a => decide (a.since + us2 ≤ s.now))
    let s := s.forEach due (fun s a => s.sendLink p a.msg)
    s.modPort p (fun x => { x with await := x.await.map (fun a => if a.since + us2 ≤ s.now then { a with since := s.now } else a) }))

/-! ### Latency (R213) -/

/-- LAT_PROBE (R213): echoed with its hold time, where both ends measure latency (R212). -/
def execLatProbe (p : Fin 16) (fl : FlitIn) (seq hold : Nat) (s : State) : Host.Outcome State Fault Refusal :=
  .next (
    let s := s.rxLink p fl
    if 4 ≤ s.reg (Key.portState p) ∧ s.reg (Key.portState p) ≤ 5 ∧ s.feature p 3 then s.sendLink p (.latEcho seq hold) else s)

/-- LAT_ECHO (R213): half the round trip less the hold time; in UP the mean of the measurement in progress is reported
(log 58). -/
def execLatEcho (p : Fin 16) (fl : FlitIn) (seq hold roundTrip : Nat) (s : State) : Host.Outcome State Fault Refusal :=
  .next (
    let s := s.rxLink p fl
    let st := s.reg (Key.portState p)
    let age := ((s.port p).probeSeq + 2 ^ 32 - seq % 2 ^ 32) % 2 ^ 32
    if (st = 4 ∨ st = 5) ∧ 1 ≤ age ∧ age ≤ 64 then
      let s := s.modPort p (fun x => { x with probes := x.probes ++ [(roundTrip - hold) / 2] })
      if st = 5 then s.setReg (Key.portLatency p) (meanOf (s.port p).probes) else s
    else s)

/-- LATENCY_REMEASURE (R213): every 100 ms in UP. -/
def execLatencyRemeasure (p : Fin 16) (dt : Nat) (s : State) : Host.Outcome State Fault Refusal :=
  .next (
    let s := s.advance dt
    if s.portUp p ∧ s.feature p 3 ∧ (s.port p).lastProbe + 100 * ms1 ≤ s.now then s.sendProbes p else s)

/-! ### Credits (R216) -/

/-- RESYNC (R216): the other end asks for a credit resync; packets stop until its counts arrive. -/
def execResync (p : Fin 16) (fl : FlitIn) (s : State) : Host.Outcome State Fault Refusal :=
  .next (
    let s := s.rxLink p fl
    if s.portUp p then
      (s.modPort p (fun x => { x with resync := x.resync % 2 + 2 })).sendAwait p .resyncMark
    else s)

/-- Free ingress buffers of a port by (class, VC). -/
def State.freeNow (s : State) (p : Fin 16) : List Nat :=
  (List.range 16).map (fun i => s.fab.alloc.getD i 0 - (s.port p).used.getD i 0)

/-- RESYNC_MARK (R216): every flit sent before it has arrived; the free buffers are sent, and none of them is returned in a header any
more. A repeat is answered the same way (R210). -/
def execResyncMark (p : Fin 16) (fl : FlitIn) (s : State) : Host.Outcome State Fault Refusal :=
  .next (
    let s := s.rxLink p fl
    if !s.portUp p then s
    else
      let free := s.freeNow p
      let s := s.modPort p (fun x => { x with resync := x.resync / 2 * 2, freed := List.replicate 16 0 })
      (s.sendLink p (.creditSet free)).answeredMsg p (fun m => m == .resync))

/-- CREDIT_SET (R216): credits are set and packets resume. -/
def execCreditSet (p : Fin 16) (fl : FlitIn) (free : List Nat) (s : State) : Host.Outcome State Fault Refusal :=
  .next (
    let s := s.rxLink p fl
    if s.portUp p ∧ bit (s.port p).resync 1 then
      ((s.modPort p (fun x => { x with credits := free, resync := x.resync - 2 })).answeredMsg p (fun m => m == .resyncMark)).pump
    else s)

/-! ### Errors on a hop (R214, R217, R230) -/

/-- A packet is in progress on a port's ingress, being discarded or not. -/
def State.inProgress (s : State) (p : Fin 16) : Bool :=
  match (s.port p).inPacket with
  | some x => decide (s.now < x.endsAt) && !x.ended
  | none => false

/-- The packet still arriving on a port. -/
def State.arriving (s : State) (p : Fin 16) : Option InPacket :=
  if s.inProgress p then (s.port p).inPacket.filter (fun x => !x.discarding) else none

/-- Flit time of a port in 1/16 ns: 2.0625 ns at 256 Gbit/s. -/
def State.flitTime (s : State) (p : Fin 16) : Nat := match s.reg (Key.portRate p) with | 64 => 132 | 128 => 66 | _ => 33

/-- Flits of the packet in progress that have still to arrive, at least its TAIL (log 59). -/
def State.flitsLeft (s : State) (p : Fin 16) (x : InPacket) : Nat :=
  max 1 (min (packetFlits x.pk) ((x.endsAt - s.now) * 160 / s.flitTime p))

/-- An ABORT flit follows a packet wherever its HEAD has been forwarded, in place of the `left` flits that will not come: their credits
were not used (R214). It is counted when this port originates it. -/
def State.abortCopies (s : State) (p : Fin 16) (x : InPacket) (left : Nat) (originates : Bool) : State :=
  s.forEach x.outs (fun s o => match portIndex? o with
    | none => s
    | some q =>
      let i := vcIndex x.pk.tc x.pk.vc
      let s := (s.sendAbortFlit q x.pk.tag x.pk.tc x.pk.vc).modPort q (fun y => { y with
        credits := listSet y.credits i (y.credits.getD i 0 + (left - 1)) })
      if originates then s.bump (Key.portAborts p) 1 else s)

/-- The rest of the packet arriving on a port is discarded: copies not started and its delivery are withdrawn, its credits are
returned, and an ABORT flit follows the copies that have started (R214). -/
def State.discardArriving (s : State) (p : Fin 16) (x : InPacket) (originates : Bool) : State :=
  let same (w : Waiting) : Bool := w.inPort == p.val && samePacket w.pk x.pk
  let held := s.stillHeld p x.pk
  let s := s.modFab (fun f => { f with
    waiting := f.waiting.filter (fun w => !same w), kept := f.kept.filter (fun k => !(k.1 == p.val && samePacket k.2 x.pk)),
    netIn := f.netIn.filter (fun k => !samePacket k x.pk) })
  let s := if held then s.freeBuffers p (vcIndex x.pk.tc x.pk.vc) (packetFlits x.pk) else s
  (s.abortCopies p x (s.flitsLeft p x) originates).modPort p (fun y => { y with inPacket := some { x with discarding := true } })

/-- A packet that waited for a lost port: the path is decided again where this module is a decision point, else the packet is
discarded (R230, R247). -/
def State.rerouteFrom (s : State) (p : Fin 16) : State :=
  let l := s.fab.waiting.filter (fun w => w.outPort == p.val)
  let s := s.modFab (fun f => { f with waiting := f.waiting.filter (fun w => w.outPort != p.val) })
  s.forEach l (fun s w =>
    let pk := { w.pk with hops := w.pk.hops - 1, vc := w.inVc }
    if pk.mode = 2 then
      let s := s.bump Key.frUnroutableDrop 1
      if s.stillHeld w.inPort pk then s else s.freeBuffers w.inPort (vcIndex pk.tc pk.vc) (packetFlits pk)
    else if pk.mode = 1 then s.forwardTree w.inPort pk
    else match pk.dsts.head? with
      | some d => s.forward1 w.inPort pk d
      | none => s)

/-- The link of a port in UP is lost (R217). -/
def State.linkLost (s : State) (p : Fin 16) (status : Nat) : State :=
  let s := match s.arriving p with
    | some x => s.discardArriving p x true
    | none => s
  let s := ((s.setPortState p 6).setReg (Key.portStatus p) status).setReg (Key.portRate p) 0
  let s := s.modPort p (fun x => { x with
    silentSince := some s.now, wanted := false, await := [], resync := 0, credits := [], freed := [], inPacket := none, beacon := none,
    tags := (x.tags.filter (fun t => t.asked || t.again)).map (fun t => { t with
      asked := true, again := false, ingress := false, egress := false, handshake := none }) })
  let s := (s.bump (Key.portDownCount p) 1).logModule 0x20 sevWarning 0x09 (Key.portStatus p) p
  ((((s.reportLink p false).rerouteFrom p).settleRequest).chooseUpstream).pump

/-- CRC failures of a port within the last 10 µs. -/
def State.recentCrc (s : State) (p : Fin 16) : Nat := ((s.port p).crcHistory.filter (fun t => decide (s.now ≤ t + 1000))).length

/-- What a port does about a failing flit of a packet: the packet in progress is discarded; with none in progress a credit resync
begins, and each is counted (R214, R216). -/
def State.packetFlitFails (s : State) (p : Fin 16) : State :=
  match s.arriving p with
  | some x => s.discardArriving p x true
  | none =>
    if s.inProgress p ∨ bit (s.port p).resync 0 then s
    else ((s.bump (Key.portCreditResync p) 1).modPort p (fun x => { x with resync := x.resync + 1 })).sendAwait p .resync

/-- `n` flits of a port in UP fail after correction: counted, and more than the threshold within 10 µs end the link (R217). A failing
IDLE or LINK flit is lost with no further action (R215). -/
def State.flitsFail (s : State) (p : Fin 16) (kind n : Nat) : State :=
  let s := s.noteCrc p n
  if s.reg (Key.portCrcDownThreshold p) < s.recentCrc p then s.linkLost p 7
  else if kind = flitIdle ∨ kind = flitLink then s
  else s.packetFlitFails p

/-- FLIT_CRC_FAIL (R214, R215): a flit of a kind fails after correction of `corrected` symbols. -/
def execFlitCrcFail (p : Fin 16) (kind corrected : Nat) (s : State) : Host.Outcome State Fault Refusal :=
  .next (if s.portUp p then (s.bump (Key.portFecCorrected p) corrected).flitsFail p kind 1 else s)

/-- CRC_BURST (R217, log 135): `fails` more flits of packets fail at once. -/
def execCrcBurst (p : Fin 16) (fails : Nat) (s : State) : Host.Outcome State Fault Refusal :=
  .next (if s.portUp p ∧ fails ≠ 0 then s.flitsFail p flitBody fails else s)

/-- ABORT_FLIT (R214): it ends the packet in progress in place of the flits that have not come, is forwarded wherever the HEAD was, and
takes a flit buffer and a credit like a TAIL. -/
def execAbortFlit (p : Fin 16) (fl : FlitIn) (s : State) : Host.Outcome State Fault Refusal :=
  .next (
    if !s.portUp p then s
    else
      let s := (s.takeIn p fl).bump (Key.portFlitsRx p) 1
      let s := match (if s.inProgress p then (s.port p).inPacket else none) with
        | none => s
        | some x =>
          let i := vcIndex x.pk.tc x.pk.vc
          let never := s.flitsLeft p x - 1
          let s := if x.discarding then s else s.discardArriving p x false
          s.modPort p (fun y => { y with
            freed := listSet y.freed i (y.freed.getD i 0 - never), inPacket := some { x with discarding := true, ended := true } })
      s.pump)

/-- ORPHAN_FLIT (R214): a BODY or TAIL. While no packet is in progress it is an orphan; one whose tag, class or virtual channel differs
from the HEAD's of the packet in progress is handled as a failing flit. -/
def execOrphanFlit (p : Fin 16) (fl : FlitIn) (tag tc vc : Nat) (s : State) : Host.Outcome State Fault Refusal :=
  .next (
    if !s.portUp p then s
    else
      let s := s.takeIn p fl
      if s.inProgress p then
        match s.arriving p with
        | some x => if x.pk.tag = tag ∧ x.pk.tc = tc ∧ x.pk.vc = vc then s.pump else (s.packetFlitFails p).pump
        | none => s.pump
      else
        (((s.bump (Key.portFlitsRx p) 1).bump (Key.portOrphanDrop p) 1).modPort p (fun x => { x with
          freed := listSet x.freed (vcIndex tc vc) (x.freed.getD (vcIndex tc vc) 0 + 1) })).pump)

/-- BEACON (R293): an IDLE flit arrives with credits and the sender's time. -/
def execBeacon (p : Fin 16) (fl : FlitIn) (b : Beacon) (s : State) : Host.Outcome State Fault Refusal :=
  .next (if s.portUp p then ((s.takeIn p fl).beaconTime p b).pump else s)

/-! ### Loss of a link (R217, R222) -/

/-- LOCK_LOST (R217): loss of code-word lock for 1 µs. -/
def execLockLost (p : Fin 16) (s : State) : Host.Outcome State Fault Refusal :=
  .next (if s.portUp p then s.linkLost p 6 else s)

/-- LINK_SILENCE_END (R217): 1 ms of silence has passed; the port trains again by itself, or because it has been enabled meanwhile. -/
def execLinkSilenceEnd (p : Fin 16) (dt : Nat) (s : State) : Host.Outcome State Fault Refusal :=
  .next (
    let s := s.advance dt
    match (s.port p).silentSince with
    | none => s
    | some t =>
      if t + ms1 ≤ s.now then
        let again := (s.port p).wanted || (s.reg (Key.portState p) == 6 && s.reg (Key.portAutoRetrain p) == 1)
        let s := s.modPort p (fun x => { x with silentSince := none, wanted := false })
        if again ∧ s.portUsable p then s.startTraining p else s
      else s)

/-- A port is enabled: it trains, unless it already does or is UP; during the silence of a loss it waits for its end (R203, R217). -/
def State.enablePort (s : State) (p : Fin 16) : State :=
  let st := s.reg (Key.portState p)
  if (s.port p).silentSince.isSome then s.modPort p (fun x => { x with wanted := true })
  else if (st = 0 ∨ st = 6) ∧ s.portUsable p then s.startTraining p
  else s

/-- A port is disabled: a link in UP is lost without retraining (R222); the silence of a loss runs to its end (R217). -/
def State.disablePort (s : State) (p : Fin 16) : State :=
  let s := if s.portUp p then s.linkLost p 0 else s
  (s.setPortState p 0).modPort p (fun x => { x with wanted := false, await := [] })

/-! ### Packets arriving (R218, R229 to R233, R237, R239) -/

/-- A transit packet to a destination would have to turn, be delivered, leave the rings or go against a detour (R232); going straight on
over a link that is DOWN is no such thing (R230). -/
def State.transitBreaks (s : State) (p : Fin 16) (pk : Packet) (d : Addr) : Bool :=
  match s.route p pk.vc pk.src d with
  | .out q _ enters detour =>
    !(!enters && !detour && s.isTorus q && (portDim q).1 == (portDim p).1 && (portDim q).2 != (portDim p).2 &&
      (match portIndex? q with | some q => (s.port q).tags.any (fun t => t.tag == pk.tag && (t.asked || t.ingress)) | none => false))
  | .here => true
  | .drop =>
    !(coordS s.coord == coordS d.coord &&
      [1, 2, 3].find? (fun k => coordIn k s.coord != coordIn k d.coord) == some (portDim p).1)

/-- A transit packet goes straight on along its dimension, once the tag is enabled there, or is discarded (R219, R232). -/
def State.forwardTransit (s : State) (p : Fin 16) (pk : Packet) : State :=
  if pk.mode = 2 ∨ !s.isTorus p ∨ pk.dsts.isEmpty ∨ pk.dsts.any (fun d => s.transitBreaks p pk d.1) then
    (s.dropHere p pk Key.frTransitDrop).log sevWarning noCtx 0x0A none32 Key.frTransitDrop pk.tag
  else if pk.mode = 1 then s.forwardTree p pk
  else match pk.dsts.head? with
    | some d => s.forward1 p pk d
    | none => s

/-- A LINE packet is delivered here and goes on while its span lasts, on the virtual channel of its ring (R234, R235, R239); a next hop that
is DOWN discards what would go on (R230). -/
def State.forwardLine (s : State) (p : Fin 16) (pk : Packet) : State :=
  let s := s.modFab (fun f => { f with netIn := f.netIn ++ [pk] })
  let free (s : State) : State := s.freeBuffers p (vcIndex pk.tc pk.vc) (packetFlits pk)
  if pk.span ≤ 1 ∨ pk.lineDim = 0 then free s
  else
    let out := s.ringPort pk.lineDim pk.minus pk.src.coord pk.src.coord
    if 64 < pk.hops + 1 then free (s.bump Key.frHopLimitDrop 1)
    else if !s.portUp out then free (s.bump Key.frUnroutableDrop 1)
    else s.queuePacket p pk.vc out { pk with
      span := pk.span - 1, hops := pk.hops + 1, vc := s.ringVc pk.lineDim pk.minus true pk.vc }

/-- PACKET_ARRIVAL (R233): a packet arrives on a port and is routed, forwarded, delivered or dropped. -/
def execPacketArrival (p : Fin 16) (fl : FlitIn) (pk : Packet) (s : State) : Host.Outcome State Fault Refusal :=
  .next (
    if !s.portUp p then s
    else
      let n := packetFlits pk
      let i := vcIndex pk.tc pk.vc
      let s := (s.takeIn p fl).bump (Key.portFlitsRx p) n
      let s := s.modPort p (fun x => { x with
        used := listSet x.used i (x.used.getD i 0 + n),
        inPacket := some ⟨pk, s.now + (n * s.flitTime p + 159) / 160, [], false, false⟩ })
      let s := if !s.ingressOk p pk.tag then s.dropHere p pk (Key.portTagDrop p)
        else if pk.tag ≠ s.reg Key.partitionTag then s.forwardTransit p pk
        else if pk.mode = 2 then s.forwardLine p pk
        else if pk.mode = 1 then s.forwardTree p pk
        else match pk.dsts.head? with
          | some d => s.forward1 p pk d
          | none => s
      s.pump)

/-- LINK_STATE (R230): the state of a link of the tray (dimension 0) or of a ring through this module. -/
def execLinkState (dim port : Nat) (up : Bool) (coord : Nat) (s : State) : Host.Outcome State Fault Refusal :=
  .next (if s.hubUp ∧ ((dim = 0 ∧ port ≤ 6) ∨ (1 ≤ dim ∧ (portDim port).1 = dim)) then s.noteLink port coord (!up) else s)

end Sys2Proof.Machine
end

