-- ==== Sys2Proof/Machine/Preempt.lean ====
section
/-! DEFINITION. Pre-emption (spec/02, R38 to R40, R285), the configuration CRC (spec/19, R388 to R391) and the hold of a
mismatch (R363); writes the module itself makes of covered entries. -/
namespace Sys2Proof.Machine

/-! ### Pre-emption -/

/-- Kill one unshielded command for a pre-emption; a `NO_RERUN` command tears its context down as a RELEASE does (R38). -/
def State.preemptKill (s : State) (c : Fin 4) (q : Fin 8) : State :=
  match s.run c q with
  | none => s
  | some r =>
    if !r.running || r.cmd.shielded || s.cstate c == cxTearing then s
    else if bit r.cmd.flags 1 then
      (s.log sevWarning c 0x01 r.entry.command Key.killCount r.entry.command).beginTeardown c 0xFF r.entry.command
    else s.killRun c q

/-- Pre-empt a RESIDENT context: issue stops, unshielded commands are killed, and it is PREEMPTED once none runs (R39,
R285). -/
def State.preemptCtx (s : State) (c : Fin 4) : State :=
  if s.cstate c ≠ cxResident then s
  else ((s.modCtx c (fun x => { x with preempting := true })).forEach allQueues (fun s q => s.preemptKill c q)).settlePreempt c

/-! ### The configuration CRC (R388) -/

/-- Keys of the entries of one row, with type, size. -/
def DictEntry.keys (e : DictEntry) : List (Nat × DictEntry) :=
  (List.range (e.indexHi + 1 - e.indexLo)).flatMap (fun i =>
    (List.range (e.subHi + 1 - e.subLo)).map (fun j => ((e.indexLo + i) * 256 + e.subLo + j, e)))

/-- An entry the configuration CRC covers: access RWC or CMT. -/
def DictEntry.covered (e : DictEntry) : Bool := e.access == .rwc || e.access == .cmt

/-- Whether a key names a covered entry. -/
def keyCovered (k : Nat) : Bool := match dictFind k with | some e => e.covered | none => false

/-- The covered entries in ascending order of index and sub-index. -/
def coveredKeys : List (Nat × DictEntry) :=
  sortBy (fun (a b : Nat × DictEntry) => decide (a.1 ≤ b.1)) ((dictAll.filter DictEntry.covered).flatMap DictEntry.keys)

/-- Value bytes of an entry as a read returns them. -/
def State.entryBytes (s : State) (k : Nat) (e : DictEntry) : List Byte :=
  if e.type.scalar then leBytes e.bytes (s.reg k) else s.bulkBytes k 0 e.bytes

/-- Result of a pass (R388). -/
def State.configCrcNow (s : State) : Nat :=
  crc32c (coveredKeys.flatMap (fun x =>
    leBytes 2 (x.1 / 256) ++ leBytes 1 (x.1 % 256) ++ leBytes 1 x.2.type.code ++ s.entryBytes x.1 x.2))

/-- The reference committed; at ST9 the CRC of the defaults (R389). -/
def State.crcReference (s : State) : Nat :=
  match s.acc.crcRef with
  | some v => v
  | none => ({ s with regs := [], bulk := [] }.setReg Key.moduleCoord (s.power.straps % 8)).configCrcNow

abbrev crcMatch : Nat := 1
abbrev crcStale : Nat := 2
abbrev crcMismatch : Nat := 3

/-- CONFIG_CRC_MISMATCH (R363, R390): once an excursion it is raised and every RESIDENT context is pre-empted. -/
def State.raiseMismatch (s : State) : State :=
  let s := (s.setReg Key.configCrcState crcMismatch).modAcc (fun a => { a with staleSince := none })
  if s.acc.excursion then s
  else
    let s := (s.modAcc (fun a => { a with excursion := true })).logModule 0x60 sevModule 0x13 Key.configCrcState crcMismatch
    s.forEach allCtx State.preemptCtx

/-- Contexts are held by a mismatch until the CRC matches again (R363). -/
def State.configHeld (s : State) : Bool := s.acc.excursion

/-- An accepted write of a covered entry sets STALE and disarms a comparison not yet decided (R389). -/
def State.noteCovered (s : State) : State :=
  (s.setReg Key.configCrcState crcStale).modAcc (fun a => { a with
    crcArmed := false, crcPassArmed := false, staleSince := some (a.staleSince.getD s.now) })

/-- The module itself writes a covered entry (R391). -/
def State.selfWrite (s : State) (k v : Nat) : State :=
  let s := (s.setReg k v).takeEffect k
  if s.reg Key.configCrcState = crcMatch then
    let ref := s.configCrcNow
    ((s.modAcc (fun a => { a with crcRef := some ref })).log sevInfo noCtx 0x13 none32 k v)
  else s.raiseMismatch

end Sys2Proof.Machine
end

