-- ==== Sys2Proof/Machine/Coded.lean ====
section
/-! DEFINITION. Coded state at work (spec/16): group checks, the group commit from its deltas to its record, decode chains,
losses and the decision of the coordinator, takeover, rebuild on a spare, and the revert. Rows PARITY_DELTA, GROUP_DONE,
GROUP_RECORD, GROUP_STATE, CODED_REPORT_WAIT, TAKEOVER, REBUILD_START, DECODE_READ, DECODE_TERM, DECODE_DATA and
TAKEOVER_WAIT; CODED_REVERT stands in DictAccess.lean and calls what is here. -/
namespace Sys2Proof.Machine

/-- `CODED_STATE` codes (R337). -/
abbrev cdNone : Nat := 0
abbrev cdEncoding : Nat := 1
abbrev cdProtected : Nat := 2
abbrev cdDegraded : Nat := 3
abbrev cdRollback : Nat := 4
abbrev cdFlash : Nat := 5
abbrev cdStandby : Nat := 6
abbrev cdRebuilding : Nat := 7
abbrev cdConfigError : Nat := 8

/-- A target is missed (R343). -/
def State.ckptMiss (s : State) (t : Nat) : State :=
  (s.bump Key.ckptMissedCount 1).log sevWarning noCtx 0x0F none32 Key.ckptMissedCount t

/-- Set `CODED_STATE`; a checkpoint that waits for its record misses its target when a rollback is needed (R353). -/
def State.setCoded (s : State) (v : Nat) : State :=
  let s := s.setReg Key.codedState v
  match s.ckpt.run with
  | some k =>
    if v = cdRollback ∧ s.reg Key.ckptState = 1 then
      ((s.modCkpt (fun x => { x with run := none })).setReg Key.ckptState 0).ckptMiss k.target
    else s
  | none => s

/-- PROTECTED or DEGRADED by the deficit (R332, R335). -/
def State.settledState (s : State) : Nat := if s.reg Key.codedDeficit = 0 then cdProtected else cdDegraded

/-! ### Unit counts and the parity area (R309, R310, R312) -/

/-- Give the parity area the units the group's stripes ask for: zero-filled frames in a row on one stack (log 60). -/
def State.ensureParity (s : State) : State :=
  let n := s.stripes / 4
  let old := s.reg Key.codedParityUnits
  let s := (s.setReg Key.codedStripes s.stripes).setReg Key.codedDataUnits s.dataUnits
  if n ≤ old then s
  else
    let m := s.mem.extents.filter (fun e => e.holder != .coded 0)
    let probe : Mem := { s.mem with extents := m }
    match (List.range 8).findSome? (fun st => probe.stretch st n) with
    | none => s
    | some f =>
      let keep := (List.range old).map (fun u => s.mem.frameCells (s.parityFrame u))
      let s := s.forEach (List.range old) (fun s u => s.modMem (fun m => m.releaseFrames [s.parityFrame u]))
      let s := s.modMem (fun m => { m with
        extents := extentInsert m.extents ⟨f, n, 0, .coded 0⟩, cells := cellClear m.cells (f * frameBytes) (n * frameBytes),
        poison := m.poison.filter (fun a => !(decide (f ≤ a / frameBytes) && decide (a / frameBytes < f + n))) })
      let s := (s.modCoded (fun c => { c with parityBase := f * frameBytes })).setReg Key.codedParityUnits n
      s.forEach ((List.range old).zip keep) (fun s x => s.modMem (fun m => m.setFrame (f + x.1) x.2))

/-- A unit record as a spare that takes over an index begins it (R330). -/
def lostUnit (gen : Nat) (parity : Bool) (u : Nat) : UnitRec := ⟨u, parity, gen, none32, 0, true, false, []⟩

/-- Units still LOST. -/
def State.lostUnits (s : State) : List UnitRec := s.coded.units.filter (fun r => r.lost)

/-- Report `REBUILD_REMAINING`. -/
def State.noteLost (s : State) : State := s.setReg Key.rebuildRemaining s.lostUnits.length

/-- A member's data unit count becomes known; a spare that rebuilds marks the parity units this adds as LOST (log 60). -/
def State.noteCount (s : State) (index units : Nat) : State :=
  let before := s.reg Key.codedParityUnits
  let s := (s.modCoded (fun c => { c with counts := assocPut c.counts index units })).ensureParity
  if s.reg Key.codedState = cdRebuilding ∧ s.reg Key.codedResumeGen ≠ none32 then
    (s.forEach ((List.range (s.reg Key.codedParityUnits)).drop before) (fun s u =>
      s.setUnit (lostUnit (s.reg Key.codedResumeGen) true u))).noteLost
  else s

/-- Tell the other members of the group this member's generations and data units (R309, R323). -/
def State.tellGroup (s : State) (flags : Nat) : State :=
  s.forEach (List.range 8) (fun s i =>
    if i = s.groupIndex then s
    else match s.groupAddr i with
      | some a => s.sendTo .coding 0 3 a none32
          (.groupState (s.reg Key.codedRecordedGen) (s.reg Key.codedOpenGen) s.dataUnits s.groupIndex flags)
      | none => s)

/-! ### The join (R309, R326, R337) -/

/-- Group index the layout gives a coordinate. -/
def layoutIndex (layout c : Nat) : Nat := if layout = 0 then coordS c else coordX c % 8

/-- The coordinates of a list of ranks fit a layout: the eight slots of one tray, or one slot of trays 8k to 8k + 7 of a
rack. -/
def layoutFits (layout : Nat) (l : List Nat) : Bool :=
  match l with
  | [] => false
  | c0 :: _ =>
    ((List.range 8).zip l).all (fun x => layoutIndex layout x.2 == x.1 && coordY x.2 == coordY c0 && coordZ x.2 == coordZ c0 &&
      (if layout = 0 then coordX x.2 == coordX c0 else coordS x.2 == coordS c0 && coordX x.2 / 8 == coordX c0 / 8))

/-- Check the group at a join (R309). -/
def State.groupCheck (s : State) : Bool :=
  let addrs := s.coded.groupRanks.map s.rankAddr
  addrs.all (fun a => match a with | some a => a.aux == 0 | none => false) &&
  layoutFits s.coded.layout (addrs.filterMap (fun a => a.map Addr.coord)) &&
  s.groupRank (layoutIndex s.coded.layout s.coord) == s.force Key.crewSelfRank

/-- RWC entries of coded state take effect at a join. -/
def codedJoinKeys : List Nat :=
  [Key.codedLayout, Key.codedRole, Key.codedContext, Key.codedRetainDepth, Key.takeoverWait, Key.takeoverGrace, Key.codedReportWait]

/-- The spares a table of four entries lists; all ones is empty. -/
def sparesOf (l : List Nat) : List Addr := (l.filter (· != none32)).map addrOfWord

/-- Coded state at a join. -/
def State.codedJoin (s : State) : State :=
  let s := s.forEach codedJoinKeys State.takeEffect
  let s := s.modAcc (fun a => { a with rwcBulk := a.rwcBulk.filter (fun x => x.1 != Key.codedGroupRanks && x.1 != Key.codedSpares) })
  let ranks := (List.range 8).map (fun i => s.bulkNat Key.codedGroupRanks (2 * i) 2)
  let s := s.modCoded (fun c => { c with
    groupRanks := ranks, spares := sparesOf ((List.range 4).map (fun i => s.bulkNat Key.codedSpares (4 * i) 4)),
    layout := s.force Key.codedLayout, counts := [], lossSince := [], reports := [], reportAt := [], takeovers := [], rebuilt := [],
    supplies := [], early := [], relay := [], decodes := [], staging := [], owed := [] })
  let s := (s.setReg Key.codedGroupIndex 0xFF).setReg Key.codedCoordinator 0xFF
  if s.force Key.codedRole = 1 then (s.setReg Key.codedResumeGen none32).setCoded cdStandby
  else if ranks.all (· == 0xFFFF) then s.setCoded cdNone
  else if !s.groupCheck then
    (s.setCoded cdConfigError).log sevWarning noCtx 0x0E none32 Key.codedState cdConfigError
  else
    let s := s.setReg Key.codedGroupIndex (layoutIndex s.coded.layout s.coord)
    let s := s.setCoded (if s.reg Key.codedRecordedGen = none32 then cdNone else cdProtected)
    (s.noteGroup.noteCount s.groupIndex s.dataUnits).tellGroup 0

/-! ### Deltas (R313) -/

/-- Content of a granule of 1 KiB. -/
def granule (cs : List Host.Cell) (i : Nat) : List Byte := (List.range 1024).map (fun j => cellGet cs (1024 * i + j))

/-- Granules that are not all zero, in order. -/
def granulesOf (cs : List Host.Cell) : List Nat := dedup (sortBy (fun (a b : Nat) => decide (a ≤ b)) (cs.map (fun c => c.1 / 1024)))

/-- Runs of at most four consecutive granules. -/
def granuleRuns : List Nat → List (Nat × Nat)
  | [] => []
  | g :: t =>
    match granuleRuns t with
    | (f, n) :: r => if g + 1 = f ∧ n < 4 then (g, n + 1) :: r else (g, 1) :: (f, n) :: r
    | [] => [(g, 1)]

/-- Send the delta of a data unit to the holder of one parity row; without a holder it is owed (R313, R324). -/
def State.sendDelta (s : State) (gen stripe row : Nat) (delta : List Host.Cell) : State :=
  let piece := 2 * stripe + row
  let slot := (slotOf stripe s.groupIndex).getD 0
  match s.groupAddr (parityIndex stripe row) with
  | none => s.codingFail piece
  | some a =>
    let gs := granulesOf delta
    let s := (s.bump Key.deltaBytesSent (1024 * gs.length)).bump Key.deltaGranulesSkipped (64 - gs.length)
    if gs.isEmpty then s.sendTo .coding 0 3 a piece (.parityDelta stripe gen slot row 0 0 [])
    else s.forEach (granuleRuns gs) (fun s r =>
      s.sendTo .coding 0 3 a piece (.parityDelta stripe gen slot row r.1 gs.length
        ((List.range r.2).map (fun i => granule delta (r.1 + i)))))

/-- Every delta of generation `g` sent has been acknowledged and none is owed. -/
def State.deltasDone (s : State) (g : Nat) : Bool :=
  let mine (t : Txn) := match t.body with | .parityDelta _ x _ _ _ _ _ => x == g | _ => false
  s.coded.owed.isEmpty && !s.fab.txns.any mine && !s.fab.queued.any mine

/-! ### The record (R316, R317) -/

/-- Apply one complete delta to its parity unit in one action (R314). -/
def State.applyDelta (s : State) (d : Delta) : State :=
  let u := parityUnitOf s.groupIndex d.stripe
  let r := s.unitRec true u
  let old := s.unitCells true u
  let r := if r.preDelta then r
    else { r with preDelta := true, retained := r.generation, kept := r.kept ++ [(d.gen, r.generation, old)] }
  let delta := d.granules.foldl (fun m g => cellWrite m (1024 * g.1) g.2) []
  let new := cellsXor old (cellsScale (parityCoeff d.row d.slot) delta)
  let s := s.modMem (fun m => m.setFrame (s.parityFrame u) new)
  (s.setUnit { r with mask := r.mask ||| 2 ^ d.slot }).bump Key.deltaUnitsApplied 1

/-- All the granules of a delta are held. -/
def Delta.complete (d : Delta) : Bool := d.granules.length == d.total

/-- A delta's slot bit is already set for the open generation, or its generation has been recorded (R314). -/
def State.deltaStale (s : State) (d : Delta) : Bool :=
  let rec_ := s.reg Key.codedRecordedGen
  (rec_ != none32 && decide (d.gen ≤ rec_)) ||
    ((s.unitRec true (parityUnitOf s.groupIndex d.stripe)).mask / 2 ^ d.slot % 2 == 1 &&
      (s.reg Key.codedOpenGen == none32 || s.reg Key.codedOpenGen == d.gen))

/-- A staged delta may be applied now: complete, of the open generation or of the next one when none is open, its unit not
LOST (R314, R330). -/
def State.deltaReady (s : State) (d : Delta) : Bool :=
  d.complete && (s.reg Key.codedOpenGen == none32 || s.reg Key.codedOpenGen == d.gen) &&
    !s.unitLost true (parityUnitOf s.groupIndex d.stripe)

/-- Apply every staged delta that may be applied, and drop those that no longer count. -/
def State.pumpDeltas (s : State) : State :=
  s.forEach s.coded.staging (fun s d =>
    if s.deltaStale d then s.modCoded (fun c => { c with staging := c.staging.erase d })
    else if s.deltaReady d then (s.modCoded (fun c => { c with staging := c.staging.erase d })).applyDelta d
    else s)

/-- The checkpoint writer has still to read the version of generation `t` of a unit, and a retained one is it (R339). -/
def State.ckptWants (s : State) (r : UnitRec) (x : Nat × Nat × List Host.Cell) : Bool :=
  match s.ckpt.run with
  | none => false
  | some k =>
    let mine := k.toRead.any (fun y => y.2 == r.unit && (y.1 == parityHandle) == r.parity)
    let fits (g : Nat) := decide (g ≤ k.target) || g == none32
    let newest := ((r.kept.reverse.find? (fun y => fits y.2.1)).map (fun y => y.2.1))
    s.reg Key.ckptState == 2 && mine && !(fits r.generation && !r.preDelta) && newest == some x.2.1

/-- Retained versions after the record of generation `g`: those of the last `CODED_RETAIN_DEPTH` boundaries, and those the
checkpoint writer has still to read (R317, R339, log 65). -/
def State.keepKept (s : State) (g : Nat) (r : UnitRec) : UnitRec :=
  let k := r.kept.filter (fun x => decide (g + 1 < x.1 + s.force Key.codedRetainDepth) || s.ckptWants r x)
  { r with kept := k, retained := (match k.getLast? with | some x => x.2.1 | none => none32) }

/-- Write the record of generation `g` (R316, R317, R319, R339). -/
def State.recordGen (s : State) (g : Nat) : State :=
  let s := s.pumpDeltas
  let s := ((s.setReg Key.codedRecordedGen g).setReg Key.codedOpenGen none32).setReg Key.groupCommitTicks (s.now - s.coded.openSince)
  let s := s.modCoded (fun c => { c with
    units := c.units.map (fun r => s.keepKept g { r with
      mask := 0, preDelta := false, generation := if r.parity then g else r.generation }),
    ownDone := false, owed := [], doneFrom := c.doneFrom.filter (fun d => decide (g < d.1)),
    staging := c.staging.filter (fun d => decide (g < d.gen)) })
  let s := if s.reg Key.codedState = cdEncoding then s.setCoded s.settledState else s
  let s := match s.ckpt.run with
    | some k => if k.target = g ∧ s.reg Key.ckptState = 1 then s.setReg Key.ckptState 2 else s
    | none => s
  s.pumpDeltas

/-- The coordinator holds every GROUP_DONE of the open generation: it sends GROUP_RECORD and records it (R316). -/
def State.checkRecord (s : State) : State :=
  let g := s.reg Key.codedOpenGen
  if g = none32 ∨ s.coordinator ≠ s.groupIndex ∨ !(List.range 8).all (fun i => s.coded.doneFrom.contains (g, i)) then s
  else
    let s := s.forEach (List.range 8) (fun s i =>
      if i = s.groupIndex then s
      else match s.groupAddr i with
        | some a => s.sendTo .coding 0 3 a none32 (.groupRecord g)
        | none => s)
    s.recordGen g

/-- Send GROUP_DONE once every delta of the open generation has been acknowledged (R316). -/
def State.checkGroupDone (s : State) : State :=
  let g := s.reg Key.codedOpenGen
  if g = none32 ∨ s.coded.ownDone ∨ s.groupIndex = 0xFF ∨ s.reg Key.codedState = cdRollback ∨ !s.deltasDone g then s
  else ((s.modCoded (fun c => { c with ownDone := true })).sendGroupDone).checkRecord

/-- A commit of step `g` made a new version of a coded object: its units are of generation `g` (R307). -/
def State.codedCommitted (s : State) (h g : Nat) : State :=
  match s.objRec h with
  | none => s
  | some o =>
    if !o.coded then s
    else s.forEach (List.range o.tileCount) (fun s j =>
      match tileUnit s.codedObjects h j with
      | some u => s.setUnit { s.unitRec false u with generation := g }
      | none => s)

/-- Retain the displaced version of a data unit at the boundary of generation `g` (R313). -/
def State.retainUnit (s : State) (g u : Nat) : State :=
  match s.prevCells u with
  | none => s
  | some p =>
    let r := s.unitRec false u
    s.setUnit { r with retained := p.1, kept := r.kept ++ [(g, p.1, p.2)] }

/-- Release the displaced versions of coded objects. -/
def State.dropPrev (s : State) : State :=
  s.forEach s.mem.objects (fun s i => match i.prev with
    | none => s
    | some v => (s.modInst i.handle i.owner (fun x => { x with prev := none })).dropFrames v.frames)

/-- Start the group commit of generation `g` at a step boundary of `CODED_CONTEXT` (R313, R319). -/
def State.groupCommitStart (s : State) (g : Nat) : State :=
  let st := s.reg Key.codedState
  if s.groupIndex = 0xFF ∨ st = cdConfigError ∨ st = cdStandby ∨ !s.hasCoded then s.dropPrev
  else
    let first := !s.coded.started
    let s := (s.setReg Key.codedOpenGen g).modCoded (fun c => { c with started := true, openSince := s.now, ownDone := false })
    let s := if first then s.setCoded cdEncoding else s
    let units := (List.range s.dataUnits).filter (fun u => first || (s.unitRec false u).generation == g)
    let byStripe := sortBy (fun (a b : Nat × Nat) => decide (a.1 ≤ b.1)) (units.map (fun u => ((stripeOf s.groupIndex u).1, u)))
    let s := s.forEach byStripe (fun s x =>
      let old := if first then [] else match s.prevCells x.2 with | some p => p.2 | none => []
      let delta := cellsXor (s.unitCells false x.2) old
      let s := (s.sendDelta g x.1 0 delta).sendDelta g x.1 1 delta
      if first then s else s.retainUnit g x.2)
    (s.dropPrev.drainFails.pumpDeltas).checkGroupDone

/-! ### Rows of the group commit -/

/-- PARITY_DELTA (R314): granules of a delta reach the holder of a parity row; a spare that waits for its REBUILD_START keeps
them in staging (R330). -/
def execParityDelta (src : Addr) (stripe gen slot row first total : Nat) (granules : List (List Byte)) (s : State) :
    Host.Outcome State Fault Refusal :=
  .next (
    let waits : Bool := s.groupIndex == 0xFF && s.reg Key.codedState == cdRebuilding
    if !waits ∧ (s.groupIndex = 0xFF ∨ rowOf stripe s.groupIndex ≠ some row ∨ 6 ≤ slot ∨ s.indexOfAddr src ≠ dataIndex stripe slot) then s
    else
      let same (d : Delta) := d.stripe == stripe && d.row == row && d.slot == slot && d.gen == gen
      let fresh : Delta := ⟨stripe, row, slot, gen, total, []⟩
      let d := (s.coded.staging.find? same).getD fresh
      if !waits ∧ s.deltaStale d then s.modCoded (fun c => { c with staging := c.staging.filter (fun x => !same x) })
      else
        let got := ((List.range granules.length).zip granules).map (fun x => (first + x.1, x.2))
        let d := { d with granules := d.granules ++ got.filter (fun x => !d.granules.any (fun y => y.1 == x.1)) }
        let s := s.modCoded (fun c => { c with staging := c.staging.filter (fun x => !same x) ++ [d] })
        if waits then s
        else (if s.unitLost true (parityUnitOf s.groupIndex stripe) then s.startRebuild stripe else s).pumpDeltas)

/-- GROUP_DONE (R316). -/
def execGroupDone (gen index : Nat) (s : State) : Host.Outcome State Fault Refusal :=
  .next (
    if (s.groupIndex = 0xFF ∧ s.reg Key.codedState ≠ cdRebuilding) ∨ 8 ≤ index then s
    else
      let t := s.modCoded (fun c => { c with
        doneFrom := if c.doneFrom.contains (gen, index) then c.doneFrom else c.doneFrom ++ [(gen, index)] })
      if s.groupIndex = 0xFF then t else t.checkRecord)

/-- GROUP_RECORD (R316, R336): complete deltas are applied first. -/
def execGroupRecord (gen : Nat) (s : State) : Host.Outcome State Fault Refusal :=
  .next (if s.groupIndex ≠ 0xFF ∧ s.reg Key.codedOpenGen = gen ∧ gen ≠ none32 then s.recordGen gen else s)

/-! ### Decodes (R320, R321, R330) -/

/-- Frame of this member's unit of a stripe. -/
def State.unitFrame (s : State) (stripe : Nat) : Option Nat :=
  match rowOf stripe s.groupIndex with
  | some _ => some (s.parityFrame (parityUnitOf s.groupIndex stripe))
  | none => s.dataFrame (dataUnitOf s.groupIndex stripe)

/-- This member's unit of a stripe is LOST. -/
def State.stripeLost (s : State) (stripe : Nat) : Bool :=
  match rowOf stripe s.groupIndex with
  | some _ => s.unitLost true (parityUnitOf s.groupIndex stripe)
  | none => s.unitLost false (dataUnitOf s.groupIndex stripe)

/-- This member's unit of a stripe holds an uncorrectable code word (R336). -/
def State.stripePoisoned (s : State) (stripe : Nat) : Bool :=
  match s.unitFrame stripe with
  | some f => s.mem.poison.any (fun a => a / frameBytes == f)
  | none => false

/-- Bytes of piece `k` of 4 KiB. -/
def pieceOf (cs : List Host.Cell) (k : Nat) : List Byte := (List.range 4096).map (fun i => cellGet cs (4096 * k + i))

/-- Bytewise XOR. -/
def xorBytes (a b : List Byte) : List Byte := (a.zip b).map (fun x => x.1 ^^^ x.2)

/-- Let one supply go on: the first of the chain sends its whole unit, a later one adds what has arrived. -/
def State.pumpSupply (s : State) (x : Supply) : State :=
  let unit := match x.unit with
    | some u => some u
    | none => if s.stripeLost x.stripe || s.stripePoisoned x.stripe then none
        else some (cellsScale x.coeff (s.viewCells x.view x.stripe))
  match unit with
  | none => s
  | some u =>
    let mine (e : Nat × Nat × Nat × List Byte) := e.1 == x.req && e.2.1 == x.stripe && e.2.2.1 + 1 == x.pos
    let terms : List (List Byte) :=
      if x.pos = 0 then (List.range (16 - x.sent)).map (fun k => pieceOf u (x.sent + k))
      else let e := (s.coded.early.filter mine).map (fun e => e.2.2.2)
        ((List.range e.length).zip e).map (fun t => xorBytes t.2 (pieceOf u (x.sent + t.1)))
    let s := if x.pos = 0 then s else s.modCoded (fun c => { c with early := c.early.filter (fun e => !mine e) })
    let s := s.forEach terms (fun s t => s.sendTo .coding 0 4 x.next none32 (.decodeTerm x.req x.stripe x.pos t))
    let y := { x with unit := some u, sent := x.sent + terms.length }
    let others (c : Coded) := c.supplies.filter (fun z => !(z.req == x.req && z.stripe == x.stripe && z.pos == x.pos))
    let s := s.modCoded (fun c => { c with supplies := if 16 ≤ y.sent then others c else others c ++ [y] })
    if 16 ≤ y.sent then s.bump Key.decodeTerms 1 else s

/-- Let every supply go on. -/
def State.pumpSupplies (s : State) : State := s.forEach s.coded.supplies State.pumpSupply

/-- DECODE_READ (R321): this member supplies its unit of a stripe; a poisoned or LOST unit is decoded first. -/
def execDecodeRead (stripe view index coeff req : Nat) (next : Addr) (pos : Nat) (s : State) :
    Host.Outcome State Fault Refusal :=
  .next (
    if s.groupIndex = 0xFF ∨ index ≠ s.groupIndex then s
    else
      let s := if s.stripeLost stripe then s.startRebuild stripe
        else if s.stripePoisoned stripe then (s.startLocalDecode stripe).2 else s
      (s.modCoded (fun c => { c with supplies := c.supplies ++ [⟨req, stripe, pos, coeff, next, view, index, none, 0⟩] })).pumpSupplies)

/-- What waited for a unit of this member goes on: remote requests, chains, deltas, commands (R160, R330). -/
def State.unitAvailable (s : State) : State :=
  let s := s.pumpDeltas.pumpSupplies.serveHeld
  s.forEach allCtx (fun s c => (s.exchangePump c).collRetry c)

/-- The lowest stripe with a unit still LOST for which no decode is under way (R330, fifth place). -/
def State.nextLost (s : State) : Option Nat :=
  let q := s.groupIndex
  (List.range s.stripes).find? (fun st => s.stripeLost st && !s.coded.decodes.any (fun d => d.stripe == st && d.index == q) &&
    s.decodable st)

/-- One decode of the background rebuild is under way at a time (log 61). -/
def State.rebuildNext (s : State) : State :=
  if s.reg Key.codedState ≠ cdRebuilding ∨ s.coded.decodes.any (fun d => d.purpose == 1) then s
  else match s.nextLost with
    | some st => s.startRebuild st
    | none => s

/-- The spare's last LOST flag has cleared: it is a member (R332). It tells the group (log 62). -/
def State.rebuildDone (s : State) : State :=
  if s.reg Key.codedState ≠ cdRebuilding ∨ s.reg Key.codedResumeGen = none32 ∨ !s.lostUnits.isEmpty then s
  else
    let s := (s.selfWrite Key.codedRole 0).modCoded (fun c => { c with
      rebuilt := c.rebuilt ++ [(s.groupRank s.groupIndex, 0)] })
    let s := s.noteGroup
    let s := (s.setCoded s.settledState).log sevInfo noCtx 0x0E none32 Key.codedState s.settledState
    s.tellGroup 4

/-- `REBUILD_RATE`: bytes rebuilt in the last second, in MB/s (R331). -/
def State.rebuildRateNow (s : State) : Nat :=
  (s.coded.rebuiltAt.filter (fun t => decide (s.now < t + 100000000))).length * frameBytes / 1000000

/-- A unit of this member has been decoded whole. -/
def State.finishUnit (s : State) (stripe : Nat) (cs : List Host.Cell) : State :=
  let wasLost := s.stripeLost stripe
  let s := s.unitDecoded stripe cs
  let s := s.modCoded (fun c => { c with decodes := c.decodes.filter (fun d => !(d.stripe == stripe && d.index == s.groupIndex)) })
  let s := if !wasLost then s
    else
      let parity := (rowOf stripe s.groupIndex).isSome
      let u := if parity then parityUnitOf s.groupIndex stripe else dataUnitOf s.groupIndex stripe
      let s := (s.setUnit { s.unitRec parity u with lost := false }).bump Key.rebuildBytes frameBytes
      let s := s.modCoded (fun c => { c with
        rebuiltAt := s.now :: c.rebuiltAt.filter (fun t => decide (s.now < t + 100000000)) })
      (s.setReg Key.rebuildRate s.rebuildRateNow).noteLost
  s.unitAvailable.rebuildDone.rebuildNext

/-- The spare that hangs from this module and was named last by a TAKEOVER. -/
def State.attachedSpare (s : State) : Option (Nat × Addr) :=
  (s.coded.takeovers.reverse.find? (fun t => t.2.1.coord == s.coord && t.2.1.aux != 0)).map (fun t => (t.1, t.2.1))

/-- Group index of a rank. -/
def State.indexOfRank (s : State) (r : Nat) : Nat := ((List.range 8).find? (fun i => s.groupRank i == r)).getD 0xFF

/-- What the Tile Codec of an attach host makes of a decoded unit of group index `q`: the compressed tile, coded by the method of the
object that holds the unit, a parity unit RAW; counted when the method cannot store it (R182, R321, log 134). -/
def State.codeUnit (s : State) (q stripe : Nat) (data : List Byte) : List Byte × State :=
  let g := s.reg Key.codedRecordedGen
  match (slotOf stripe q).bind (fun _ => unitTile s.codedObjects (dataUnitOf q stripe)) with
  | some t => match s.objRec t.1 with
    | some o =>
      let content := data.take (o.tileSpan t.2).2
      (compressedTile o.codec t.1 (o.tileField t.2) g content,
       s.bump Key.tcRawTiles (if (codecStored o.codec content).2 = o.codec then 0 else 1))
    | none => (compressedTile 0 t.1 t.2 g data, s)
  | none => (compressedTile 0 none32 (parityUnitOf q stripe) g data, s)

/-- A combined term of a spare's decode reaches its attach host, which passes the whole unit through its Tile Codec and sends it on in
packets of at most 4 KiB (R228, R321, R331). -/
def State.relayTerm (s : State) (req stripe : Nat) (data : List Byte) : State :=
  match s.attachedSpare with
  | none => s
  | some sp =>
    let same (x : Nat × Nat × List Byte) := x.1 == req && x.2.1 == stripe
    let got := (match s.coded.relay.find? same with | some x => x.2.2 | none => []) ++ data
    let s := s.modCoded (fun c => { c with relay := c.relay.filter (fun x => !same x) ++ (if frameBytes ≤ got.length then [] else [(req, stripe, got)]) })
    if frameBytes ≤ got.length then
      let q := s.indexOfRank sp.1
      let x := s.codeUnit q stripe got
      x.2.forEach (List.range ((x.1.length + 4095) / 4096)) (fun s i =>
        s.sendTo .coding 0 4 sp.2 none32 (.decodeData req stripe q ((x.1.drop (4096 * i)).take 4096)))
    else s

/-- DECODE_TERM (R321): the term of the last of six suppliers reaches the combine point, another the next supplier. -/
def execDecodeTerm (req stripe pos : Nat) (data : List Byte) (s : State) : Host.Outcome State Fault Refusal :=
  .next (
    if pos < 5 then (s.modCoded (fun c => { c with early := c.early ++ [(req, stripe, pos, data)] })).pumpSupplies
    else match s.coded.decodes.find? (fun d => d.req == req && d.stripe == stripe && d.purpose == 0) with
      | none => s.relayTerm req stripe data
      | some d =>
        let got := d.data ++ data
        if frameBytes ≤ got.length then s.finishUnit stripe (cellsOf got)
        else s.modCoded (fun c => { c with decodes := c.decodes.map (fun x => if x = d then { d with data := got } else x) }))

/-- DECODE_DATA (R331): a decoded unit reaches the spare; `data` is what its Tile Codec decompresses it to. -/
def execDecodeData (req stripe index : Nat) (data : List Byte) (s : State) : Host.Outcome State Fault Refusal :=
  .next (
    if s.coded.decodes.any (fun d => d.req == req && d.stripe == stripe && d.purpose == 1) ∧ (index = s.groupIndex ∨ index = 0xFF) then
      s.finishUnit stripe (cellsOf data)
    else s)

/-! ### Losses (R244, R323, R327, R335) -/

/-- This member originates MEMBER_LOST for an address: copy 0 now, copy 1 after 2 µs (R244). -/
def State.memberLost (s : State) (a : Addr) : State :=
  let s := s.modFab (fun f => { f with declared := f.declared ++ [(a, s.now, s.tick)] })
  let s := (s.sendLine 0 (.memberLost a 0 s.tick)).sendLine 1 (.memberLost a 0 s.tick)
  s.failAddr a 0x25

/-- Reruns held for a remap issue when no member of their crew maps to a failed address (R328). -/
def State.releaseReruns (s : State) : State :=
  s.forEach allCtx (fun s c => s.forEach allQueues (fun s q =>
    match s.run c q with
    | none => s
    | some r =>
      match r.abort with
      | none => s
      | some ab =>
        if ab.decided && !s.crewFailed r.cmd.target then
          (s.bump Key.rerunHoldTicks (s.now - ab.since)).modRun c q (fun x => { x with abort := none })
        else s))

/-- Write one rank table entry as valid; of an image whose destinations are ranks, the transactions not yet injected take the new
address (R225). -/
def State.setRank (s : State) (rank : Nat) (a : Addr) : State :=
  let s := match s.rankAddr rank with
    | some old => if s.rankAddressed then s.requeueRank old a else s
    | none => s
  (s.setBulk Key.rankTable (4 * (rank % 65536)) (leBytes 4 (2 ^ 31 + wordOfAddr a))).regroup.releaseReruns

/-- Objects whose home this module has become are placed on it as the initial placement would, PINNED ones HOT and first, and the
replicas granted to the member index it has taken over are copied to it (R173, R175, R181). -/
def State.placeTaken (s : State) : State :=
  let taken := s.mem.objects.filterMap (fun i => match s.objRec i.handle with
    | some o => if i.tier = .remote ∧ s.homed o then some (i.handle, o) else none
    | none => none)
  let s := s.modMem (fun m => { m with objects := m.objects.filter (fun x => !taken.any (fun t => t.1 == x.handle)) })
  let s := s.createAll 4 ((taken.filter (fun t => t.2.placement == 0)).map (fun t => (t.1, Tier.hot)))
  let s := s.createAll 4 (s.tiersFor 4 taken)
  let s := s.startReplicas s.mem.grants (s.reg Key.planStep) true
  (s.setReg Key.pinnedBytes s.pinnedHot).noteTiers

/-- Recompute every `CREW_SELF_INDEX` (R268). -/
def State.findSelves (s : State) : State :=
  match s.image with
  | none => s
  | some im => s.forEach ((List.range im.crews.length).zip im.crews) (fun s x => s.setReg (Key.crewSelfIndex x.1) (s.findSelf x.2))

/-- Apply a TAKEOVER: only where the rank maps to a failed address (R327, R329). -/
def State.applyTakeover (s : State) (rank : Nat) (spare : Addr) : State :=
  match s.rankAddr rank with
  | none => s
  | some old =>
    if !s.isFailed old then s
    else
      let s := s.modCoded (fun c => { c with 
        takeovers := c.takeovers.filter (fun t => t.1 != rank) ++ [(rank, spare, s.now)],
        rebuilt := c.rebuilt.filter (fun t => t.1 != rank), used := c.used ++ [spare] })
      let grace := s.force Key.takeoverGrace
      let s := s.forEach allCtx (fun s c => s.forEach allQueues (fun s q => s.modRun c q (fun r =>
        if r.running || r.abort.isSome then { r with grace := r.grace + grace } else r)))
      let s := ((s.setRank rank spare).log sevInfo noCtx 0x0E none32 Key.takeoverCount rank).bump Key.takeoverCount 1
      if spare ≠ s.ownAddr ∨ s.fab.attach = none then s
      else ((s.selfWrite Key.crewSelfRank rank).findSelves.placeTaken).setCoded cdRebuilding

/-- TAKEOVER (R327): applied and forwarded at its first arrival, in dimension order. -/
def execTakeover (line rank : Nat) (spare : Addr) (copy tick : Nat) (s : State) : Host.Outcome State Fault Refusal :=
  .next (
    if !s.hubUp ∨ s.fab.seen.contains (2 + rank, spare, copy) then s
    else
      let s := s.modFab (fun f => { f with seen := f.seen ++ [(2 + rank, spare, copy)] })
      let s := if line < 3 then s.sendLine (line + 1) (.takeover rank spare copy tick) else s
      s.applyTakeover rank spare)

/-- The first spare of the list that qualifies (R327). -/
def State.chooseSpare (s : State) : Option Addr :=
  s.coded.spares.find? (fun a => !s.coded.used.contains a && !s.isFailed a && !s.isFailed (attachHost a))

/-- The deltas of the open generation for the rows a lost member held are sent again (R324). -/
def State.resendDeltas (s : State) (index : Nat) : State :=
  let g := s.reg Key.codedOpenGen
  if g = none32 then s
  else
    let s := s.modCoded (fun c => { c with
      ownDone := false, owed := c.owed.filter (fun x => parityIndex (x / 2) (x % 2) != index) })
    let units := (List.range s.dataUnits).filter (fun u => (s.unitRec false u).generation == g || s.reg Key.codedRecordedGen == none32)
    let s := s.forEach units (fun s u =>
      let stripe := (stripeOf s.groupIndex u).1
      match rowOf stripe index with
      | none => s
      | some row =>
        let old := match (s.unitRec false u).kept.find? (fun k => k.1 == g) with
          | some k => k.2.2
          | none => []
        s.sendDelta g stripe row (cellsXor (s.unitCells false u) old))
    s.drainFails.checkGroupDone

/-- What the decision on a lost index does on a survivor: the state it leaves, and the resends of the third case. The survivor
learns it from the coordinator's REBUILD_START, and tells the spare its generations and units (log 62). -/
def State.survivorDecision (s : State) (view gen index : Nat) : State :=
  let s := s.modCoded (fun c => { c with lossSince := c.lossSince.filter (fun x => x.1 != index) })
  let s := if s.reg Key.codedState = cdFlash ∨ (s.reg Key.codedState = cdEncoding ∧ view ≠ 1) then s
    else s.setCoded (if view = 1 then cdRollback else cdDegraded)
  let s := match s.groupAddr index with
    | some a => if s.isFailed a then s
        else s.sendTo .coding 0 3 a none32 (.groupState (s.reg Key.codedRecordedGen) (s.reg Key.codedOpenGen) s.dataUnits s.groupIndex 0)
    | none => s
  if view = 1 then s.modCoded (fun c => { c with owed := [] })
  else if s.reg Key.codedOpenGen = gen then s.resendDeltas index
  else s

/-- The coordinator decides the loss of one group index (R323, R327). -/
def State.decideIndex (s : State) (index : Nat) : State :=
  let others := s.coded.reports
  let openG := if s.reg Key.codedOpenGen ≠ none32 then s.reg Key.codedOpenGen
    else match others.find? (fun r => r.2.2.1 != none32) with | some r => r.2.2.1 | none => none32
  let recorded := s.reg Key.codedRecordedGen
  let someRecord := others.any (fun r => r.2.1 == openG || r.2.2.2.2 % 2 == 1) || recorded == openG
  let lostDone := s.coded.doneFrom.contains (openG, index) || others.any (fun r => r.2.2.2.2 / 2 % 2 == 1)
  let tell (s : State) (b : Body) : State := s.forEach (List.range 8) (fun s i =>
    if i = s.groupIndex ∨ i = index then s
    else match s.groupAddr i with
      | some a => if s.isFailed a then s else s.sendTo .coding 0 3 a none32 b
      | none => s)
  let x : State × Nat × Nat :=
    if openG = none32 then (s, 0, recorded)
    else if someRecord then
      let s := tell s (.groupRecord openG)
      (if s.reg Key.codedOpenGen = openG then s.recordGen openG else s, 0, openG)
    else if lostDone then
      (s.modCoded (fun c => { c with
        doneFrom := c.doneFrom.filter (fun d => d.1 != openG) ++ [(openG, index)] }), 0, openG)
    else (s, 1, recorded)
  let s := x.1
  let rank := s.groupRank index
  let sp := s.chooseSpare
  let s := match sp with
    | some a =>
      let s := [0, 1].foldl (fun s copy =>
        (s.sendLine 0 (.takeover rank a copy s.tick)).sendLine 1 (.takeover rank a copy s.tick)) s
      s.applyTakeover rank a
    | none => s.log sevWarning noCtx 0x0E none32 Key.codedSpares rank
  let start : Body := .rebuildStart x.2.2 x.2.1 index s.coded.layout s.coded.groupRanks s.coded.spares
  let s := match sp with
    | some a => s.sendTo .coding 0 3 a none32 start
    | none => s
  (tell s start).survivorDecision x.2.1 x.2.2 index

/-- The coordinator holds a report from every index that is not lost: it decides the losses in ascending group index (R323,
R336). -/
def State.decideLosses (s : State) : State :=
  let live := (List.range 8).filter (fun i => !s.groupLost i)
  if s.coded.lossSince.isEmpty ∨ s.coordinator ≠ s.groupIndex ∨ s.groupIndex = 0xFF ∨
     !live.all (fun i => i == s.groupIndex || s.coded.reports.any (fun r => r.1 == i)) then s
  else
    let s := s.forEach (sortBy (fun (a b : Nat) => decide (a ≤ b)) (s.coded.lossSince.map Prod.fst)) State.decideIndex
    s.modCoded (fun c => { c with reports := [] })

/-- An address is marked failed, and the coordinator decides when it can. -/
def State.loseAddr (s : State) (a : Addr) (code : Nat) : State := (s.failAddr a code).decideLosses

/-- GROUP_STATE (R309, R323): a member's unit count at a join, its report after a loss, or the end of a spare's rebuild (flag
bit 2, log 62). -/
def execGroupState (recorded opened units index flags : Nat) (s : State) : Host.Outcome State Fault Refusal :=
  .next (
    if (s.groupIndex = 0xFF ∧ s.reg Key.codedState ≠ cdRebuilding) ∨ 8 ≤ index ∨ index = s.groupIndex then s
    else
      let known := s.coded.counts.any (fun x => x.1 == index)
      let s := s.noteCount index units
      let s := if bit flags 2 then
          let s := (s.modCoded (fun c => { c with rebuilt := c.rebuilt ++ [(s.groupRank index, 0)] })).noteGroup
          if s.reg Key.codedState = cdDegraded then s.setCoded s.settledState else s
        else s
      let s := if s.reg Key.codedState = cdRebuilding ∧ s.reg Key.codedOpenGen = none32 ∧ opened ≠ none32 then
          ((s.setReg Key.codedRecordedGen recorded).setReg Key.codedOpenGen opened).modCoded (fun c => { c with ownDone := true })
        else s
      let s := s.modCoded (fun c => { c with
        reports := c.reports.filter (fun r => r.1 != index) ++ (if bit flags 2 then [] else [(index, recorded, opened, units, flags % 4)]) })
      if !s.coded.lossSince.isEmpty then s.decideLosses
      else if known then s.modCoded (fun c => { c with reportAt := assocPut c.reportAt index s.now })
      else s.modCoded (fun c => { c with reports := c.reports.filter (fun r => r.1 != index) }))

/-- CODED_REPORT_WAIT (R323): a survivor has not reported in time, and counts as lost too. -/
def execCodedReportWait (index dt : Nat) (s : State) : Host.Outcome State Fault Refusal :=
  .next (
    let s := s.advance dt
    if s.groupIndex = 0xFF ∨ s.coordinator ≠ s.groupIndex ∨ 8 ≤ index ∨ index = s.groupIndex ∨ s.groupLost index ∨
       s.coded.reports.any (fun r => r.1 == index) ∨
       !s.coded.lossSince.any (fun x => decide (x.2 + s.force Key.codedReportWait ≤ s.now)) then s
    else match s.groupAddr index with
      | some a => (s.memberLost a).decideLosses
      | none => s)

/-- TAKEOVER_WAIT (R328): the rerun held in a queue issues when the remap is complete; after the longest wait its code is
raised. -/
def execTakeoverWait (c : Fin 4) (q : Fin 8) (dt : Nat) (s : State) : Host.Outcome State Fault Refusal :=
  .next (
    let s := (s.advance dt).releaseReruns
    match s.run c q with
    | none => s
    | some r =>
      match r.abort with
      | none => s
      | some ab =>
        if ab.decided && decide (ab.since + s.force Key.takeoverWait ≤ s.now) then
          (s.bump Key.rerunHoldTicks (s.now - ab.since)).ctxFault c ab.code r.entry.command 0x0C (Key.collAborts c) ab.origin
        else s)

/-! ### Rebuild (R330) -/

/-- This spare begins the rebuild of the index it has taken over. -/
def State.spareStart (s : State) (gen view index layout : Nat) (ranks : List Nat) (spares : List Addr) : State :=
  let s := s.modCoded (fun c => { c with groupRanks := ranks, spares := spares, layout := layout, rebuildView := view, started := true })
  let s := (s.setReg Key.codedGroupIndex index).setReg Key.codedResumeGen gen
  let s := if s.reg Key.codedRecordedGen = none32 ∧ s.reg Key.codedOpenGen = none32 then s.setReg Key.codedRecordedGen gen else s
  let s := (s.setCoded cdRebuilding).modCoded (fun c => { c with counts := assocPut c.counts index s.dataUnits })
  let s := s.ensureParity
  let s := s.modCoded (fun c => { c with
    units := (List.range s.dataUnits).map (lostUnit gen false) ++ (List.range (s.reg Key.codedParityUnits)).map (lostUnit gen true) })
  let s := s.forEach s.coded.staging (fun s d =>
    if s.unitLost true (parityUnitOf index d.stripe) ∧ rowOf d.stripe index = some d.row then s.startRebuild d.stripe else s)
  ((s.noteGroup.noteLost.rebuildDone).rebuildNext).pumpDeltas

/-- REBUILD_START (R324, R330): it starts the rebuild on the spare that has taken over, and tells a survivor the decision. -/
def execRebuildStart (gen view index layout : Nat) (ranks : List Nat) (spares : List Addr) (s : State) :
    Host.Outcome State Fault Refusal :=
  .next (
    if s.reg Key.codedState = cdRebuilding ∧ s.reg Key.codedResumeGen = none32 ∧ 8 > index then
      s.spareStart gen view index layout ranks spares
    else if s.groupIndex ≠ 0xFF ∧ index ≠ s.groupIndex ∧ index < 8 then s.survivorDecision view gen index
    else s)

/-! ### Revert (R325) -/

/-- Newest content of a parity unit consistent with a generation at most `g`: the current one, or a retained one. -/
def State.parityAtMost (s : State) (u g : Nat) : Option (Nat × List Host.Cell) :=
  let r := s.unitRec true u
  let ok (n : Nat) := decide (n ≤ g) || n == none32
  if !r.preDelta ∧ ok r.generation then some (r.generation, s.unitCells true u)
  else ((r.kept.reverse.find? (fun k => ok k.2.1))).map (fun k => (k.2.1, k.2.2))

/-- Generation and content of the newest version of a data unit of generation at most `g`. -/
def State.dataAtMost (s : State) (u g : Nat) : Option (Nat × List Host.Cell) :=
  let r := s.unitRec false u
  let prev := match s.prevCells u with | some p => [p] | none => []
  let all := [(r.generation, s.unitCells false u)] ++ prev ++ r.kept.reverse.map (fun k => (k.2.1, k.2.2))
  all.find? (fun x => decide (x.1 ≤ g) || x.1 == none32)

/-- Revert coded state to a generation: only while `CODED_CONTEXT` is pre-empted, and only when no version is missing. -/
def State.codedRevert (s : State) (g : Nat) : State :=
  let pre := match ctxIndex? (s.force Key.codedContext) with | some c => s.cstate c == cxPreempted | none => false
  if !pre then s.setReg Key.codedRevertStatus 3
  else
    let datas := (List.range s.dataUnits).map (fun u => (u, s.dataAtMost u g))
    let parities := (List.range (s.reg Key.codedParityUnits)).map (fun u => (u, s.parityAtMost u g))
    if datas.any (fun x => x.2.isNone) || parities.any (fun x => x.2.isNone) then s.setReg Key.codedRevertStatus 2
    else
      let put (parity : Bool) (f : State → Nat → Option Nat) (s : State) (x : Nat × Option (Nat × List Host.Cell)) : State :=
        match x.2 with
        | none => s
        | some v =>
          let r := s.unitRec parity x.1
          let s := if r.lost then s else match f s x.1 with
            | some fr => s.modMem (fun m => m.setFrame fr v.2)
            | none => s
          let k := r.kept.filter (fun y => decide (y.2.1 < v.1) && v.1 != none32)
          s.setUnit { r with
            generation := v.1, kept := k, retained := (match k.getLast? with | some y => y.2.1 | none => none32), mask := 0,
            preDelta := false }
      let s := s.forEach datas (put false (fun s u => s.dataFrame u))
      let s := s.forEach parities (put true (fun s u => some (s.parityFrame u)))
      let s := s.forEach s.codedObjects (fun s h => s.modInst h.1 4 (fun i => { i with
        hot := i.hot.map (fun v => { v with
          gen := match tileUnit s.codedObjects h.1 0 with | some u => (s.unitRec false u).generation | none => v.gen }) }))
      let s := s.dropPrev
      let s := s.modCoded (fun c => { c with staging := [], doneFrom := [], ownDone := false, owed := [] })
      let s := s.setReg Key.codedOpenGen none32
      let s := if s.reg Key.codedRecordedGen ≠ none32 ∧ g < s.reg Key.codedRecordedGen then s.setReg Key.codedRecordedGen g else s
      let s := if s.reg Key.codedState = cdRollback then s.setCoded s.noteGroup.settledState else s
      s.setReg Key.codedRevertStatus 1

end Sys2Proof.Machine
end

