-- ==== Sys2Proof/Machine/NI.lean ====
section
/-! DEFINITION. The Network Interface (spec/12): acceptance and acknowledgement of streams, retries, exhaustion and SKIP, failed
addresses, heartbeats and lost members; what joining and leaving a partition does (spec/11, spec/12). Rows PACKET_ACCEPT to
MEMBER_LOST and MEMBER_LOST_COPY; the register writes PARTITION_JOIN, PARTITION_TEARDOWN, TRANSIT_TAGS_WRITE, RANK_REMAP and
NI_FAILED_CLEAR stand in DictAccess.lean and call what is here. -/
namespace Sys2Proof.Machine

/-! ### Acceptance (R240, R241) -/

/-- The number is from 1 to 32,768 below the next expected one. -/
def seqBelow (next seq : Nat) : Bool := decide (1 ≤ (next + 65536 - seq % 65536) % 65536) && decide ((next + 65536 - seq % 65536) % 65536 ≤ 32768)

/-- The next expected number and its bitmap once `b` marks numbers from `n` on, bit 0 for `n` itself: marked numbers are passed. -/
def slideOver (n b : Nat) : Nat → Nat × Nat
  | 0 => (n, b / 2)
  | fuel + 1 => if b % 2 = 1 then slideOver ((n + 1) % 65536) (b / 2) fuel else (n, b / 2)

/-- Accept the next expected number, and pass the numbers above it that are marked; bit i of the bitmap is number next + 1 + i. -/
def Stream.step (x : Stream) : Stream :=
  let y := slideOver ((x.next + 1) % 65536) x.bitmap 32
  { x with next := y.1, bitmap := y.2 }

/-- Outcome of a number in a stream: accepted, duplicate (0) or out of order (1). A number marked above the next expected one
has been accepted already and is a duplicate too (log 63). -/
def Stream.take (x : Stream) (seq : Nat) : Option Stream × Nat :=
  let d := (seq % 65536 + 65536 - x.next) % 65536
  if seqBelow x.next seq then (none, 0)
  else if d = 0 then (some x.step, 0)
  else if x.tc = 3 ∨ 31 < d then (none, 1)
  else if bit x.bitmap (d - 1) then (none, 0)
  else (some { x with bitmap := x.bitmap + 2 ^ (d - 1) }, 0)

/-- The receive stream of a source and class. -/
def State.recvStream (s : State) (a : Addr) (tc : Nat) : Stream :=
  (s.fab.recvStreams.find? (fun x => x.addr == a && x.tc == tc)).getD ⟨a, tc, 0, 0⟩

/-- Take a number of a source's stream: accepted, or counted as discarded. -/
def State.takeSeq (s : State) (a : Addr) (tc seq : Nat) : State :=
  let r := (s.recvStream a tc).take seq
  match r.1 with
  | some y => s.modFab (fun f => { f with
      recvStreams := f.recvStreams.filter (fun (z : Stream) => !(z.addr == a && z.tc == tc)) ++ [y] })
  | none => s.bump (if r.2 = 0 then Key.niDupDropped else Key.niOrderDrop) 1

/-- A number of a source's stream is taken and the stream acknowledged. -/
def State.acceptSeq (s : State) (a : Addr) (tc seq : Nat) : State := (s.takeSeq a tc seq).sendAck a tc

/-- A packet of a source's stream: one the target applies before it acknowledges is noted until then (R256). -/
def State.acceptPacket (s : State) (pk : Packet) (seq : Nat) : State :=
  if ((s.recvStream pk.src pk.tc).take seq).1.isSome then
    if isRequest pk.body then
      (s.takeSeq pk.src pk.tc seq).modFab (fun f => { f with unapplied := f.unapplied ++ [(pk.src, seq)] })
    else s.acceptSeq pk.src pk.tc seq
  else (s.freeRefused pk).acceptSeq pk.src pk.tc seq

/-- PACKET_ACCEPT (R240): the NI accepts a packet delivered to it; TC0 has no streams. What the packet asks for is the row of
its own service. -/
def execPacketAccept (pk : Packet) (s : State) : Host.Outcome State Fault Refusal :=
  .next (
    let s := s.modFab (fun f => { f with netIn := f.netIn.erase pk })
    if !s.hubUp ∨ pk.tc = 0 ∨ 5 ≤ pk.tc then s
    else match pk.dsts.find? (fun d => d.1 == s.ownAddr) with
      | some d => s.acceptPacket pk d.2
      | none => s.freeRefused pk)

/-- SKIP (R242): its number is marked as if the packet had been applied. -/
def execSkip (src : Addr) (tc seq : Nat) (s : State) : Host.Outcome State Fault Refusal :=
  .next (if s.hubUp ∧ 1 ≤ tc ∧ tc ≤ 4 then s.acceptSeq src tc seq else s)

/-! ### Acknowledgement (R241) -/

/-- An ACK covers a number. -/
def ackCovers (next bitmap seq : Nat) : Bool :=
  let d := (seq + 65536 - next) % 65536
  seqBelow next seq || (decide (1 ≤ d) && decide (d ≤ 32) && bit bitmap (d - 1))

/-- One destination of a transaction has acknowledged. -/
def State.txnAcked (s : State) (t : Txn) (a : Addr) : State :=
  let s := s.modFab (fun f => { f with txns := f.txns.map (fun x =>
    if x.id = t.id then { x.without a with acked := if awaitsResponse x.body then some (s.now, a) else x.acked } else x) })
  if t.abandoned then s else s.deliveryAcked t a

/-- What the end of transactions lets go on: exchanges, copies, mirrors, group commits, failures to tell. -/
def State.afterTxns (s : State) : State :=
  let s := s.reapTxns.drainFails
  let s := s.forEach allCtx (fun s c => (s.mirrorAcked c).exchangePump c)
  (s.copyPumpAll.checkGroupDone).drainFails

/-- ACK (R241): every number it covers is acknowledged. -/
def execAck (src : Addr) (streams : List (Nat × Nat × Nat)) (s : State) : Host.Outcome State Fault Refusal :=
  .next (
    let s := s.forEach streams (fun s x =>
      let hit := s.fab.txns.filter (fun t => t.tc == x.1 && t.left.any (fun d => d.1 == src && ackCovers x.2.1 x.2.2 d.2))
      s.forEach hit (fun s t => s.txnAcked t src))
    s.afterTxns)

/-! ### Retries (R242) -/

/-- Order of two numbers of a stream: `a` is at or before `b`. -/
def seqAtOrBefore (a b : Nat) : Bool := decide ((b + 65536 - a) % 65536 < 32768)

/-- The stream number of a transaction of one destination. -/
def Txn.seq (t : Txn) : Nat := match t.left.head? with | some d => d.2 | none => 0

/-- Address of a transaction's first destination not yet acknowledged. -/
def Txn.dst (t : Txn) : Addr := match t.left.head? with | some d => d.1 | none => ⟨0, 0⟩

/-- Unacknowledged TC3 packets of the stream of a transaction, it and the later ones, oldest first. -/
def State.laterOf (s : State) (t : Txn) : List Txn :=
  sortBy (fun (a b : Txn) => seqAtOrBefore a.seq b.seq)
    (s.fab.txns.filter (fun x => x.tc == 3 && !x.left.isEmpty && x.dst == t.dst && seqAtOrBefore t.seq x.seq))

/-- The oldest unacknowledged packet of its TC3 stream. -/
def State.isOldest (s : State) (t : Txn) : Bool :=
  s.fab.txns.all (fun x => !(x.tc == 3 && !x.left.isEmpty && x.dst == t.dst) || seqAtOrBefore t.seq x.seq)

/-- Send a packet again, its attempt one higher and at most 2. -/
def State.resend (s : State) (t : Txn) : State :=
  let t := { t with attempt := min 2 (t.attempt + 1), sentAt := s.now }
  let s := s.modFab (fun f => { f with txns := f.txns.map (fun x => if x.id = t.id then t else x) })
  (s.bump Key.niRetries 1).inject (s.txnPacket t)

/-- Send a SKIP with a number in a stream. -/
def State.sendSkip (s : State) (tc ctx : Nat) (d : Addr × Nat) : State :=
  let t : Txn := { mkTxn (.skipFor d.1) ctx tc [d.1] 0 .skip with id := s.freeTag, left := [d], sentAt := s.now }
  let s := s.modFab (fun f => { f with txns := f.txns ++ [t], nextTxn := (t.id + 1) % 4096 })
  s.inject (s.txnPacket t)

/-- A packet is exhausted: SKIP, failure, count and event; an exhausted SKIP marks its address failed (R243). -/
def State.exhausted (s : State) (t : Txn) : State :=
  let s := s.modFab (fun f => { f with txns := f.txns.filter (fun x => x.id != t.id) })
  match t.owner with
  | .skipFor a => s.loseAddr a 0x21
  | _ =>
    let s := s.forEach t.left (fun s d => s.sendSkip t.tc t.ctx d)
    let ctx := match t.owner with
      | .response => noCtx
      | _ => if t.ctx < 4 then t.ctx else noCtx
    let s := (s.bump Key.niRetryExhausted 1).log sevWarning ctx 0x0A none32 Key.niRetryExhausted (wordOfAddr t.dst)
    let s := if t.abandoned then s else s.txnFailed t.owner 0x21 t.dst t.piece
    s.niResume.drainFails

/-- RETRY_TIMER_EXPIRY (R242). -/
def execRetryTimerExpiry (txn dt : Nat) (s : State) : Host.Outcome State Fault Refusal :=
  .next (
    let s := s.advance dt
    match s.fab.txns.find? (fun t => t.id == txn) with
    | none => s
    | some t =>
      if t.left.isEmpty ∨ s.now < t.sentAt + s.reg Key.niRetryTimer ∨ (t.tc = 3 ∧ !s.isOldest t) then s
      else if s.reg Key.niRetryLimit ≤ t.attempt then (s.exhausted t).afterTxns
      else if t.tc = 3 then s.forEach (s.laterOf t) State.resend
      else s.resend t)

/-! ### Heartbeats and lost members (R244, R245) -/

/-- HEARTBEAT_SEND (R244): the Global Counter comes to a multiple of the interval. -/
def execHeartbeatSend (dt : Nat) (s : State) : Host.Outcome State Fault Refusal :=
  .next (
    let before := s.tick
    let s := s.advance dt
    let n := s.reg Key.hbInterval
    let at_ := s.tick / n * n
    let due := if dt = 0 then decide (s.tick % n = 0) else decide (before < at_)
    if due && s.reg Key.partitionTag != 0 && s.time.gcRunning then
      s.forEach s.fab.watch (fun s a => s.sendControl a 0 (.heartbeat at_))
    else s)

/-- HEARTBEAT (R244): the newest send tick held from an address. -/
def execHeartbeat (src : Addr) (tick : Nat) (s : State) : Host.Outcome State Fault Refusal :=
  .next (
    if !s.fab.watch.contains src then s
    else
      let old := (s.fab.heard.find? (fun h => h.1 == src)).map Prod.snd
      let new := match old with | some t => max t tick | none => tick
      s.modFab (fun f => { f with heard := (src, new) :: f.heard.filter (fun h => h.1 != src) }))

/-- HEARTBEAT_DECLARE (R244, log 59): a watched address is silent past the limit and declared lost. -/
def execHeartbeatDeclare (a : Addr) (dt : Nat) (s : State) : Host.Outcome State Fault Refusal :=
  .next (
    let s := s.advance dt
    match s.fab.heard.find? (fun h => h.1 == a) with
    | none => s
    | some h =>
      if !s.fab.watch.contains a ∨ s.tick < h.2 + s.reg Key.hbInterval * s.reg Key.hbMissLimit then s
      else
        let s := s.forEach allCtx (fun s c =>
          if s.holds c then s.logCtx c 0x25 sevWarning 0x0A none32 Key.hbLostCount (wordOfAddr a) else s)
        let s := (s.bump Key.hbLostCount 1).modFab (fun f => { f with heard := f.heard.filter (fun x => x.1 != a) })
        ((s.memberLost a).decideLosses).afterTxns)

/-- MEMBER_LOST_COPY (R244): the second copy, 2 µs after the first. -/
def execMemberLostCopy (a : Addr) (dt : Nat) (s : State) : Host.Outcome State Fault Refusal :=
  .next (
    let s := s.advance dt
    match s.fab.declared.find? (fun d => d.1 == a) with
    | none => s
    | some d =>
      if s.now < d.2.1 + us2 then s
      else
        let s := s.modFab (fun f => { f with declared := f.declared.filter (fun x => x.1 != a) })
        (s.sendLine 0 (.memberLost a 1 d.2.2)).sendLine 1 (.memberLost a 1 d.2.2))

/-- MEMBER_LOST (R245): acted on and forwarded, in dimension order, at its first arrival. -/
def execMemberLost (line : Nat) (a : Addr) (copy tick : Nat) (s : State) : Host.Outcome State Fault Refusal :=
  .next (
    if !s.hubUp ∨ s.fab.seen.contains (0, a, copy) then s
    else
      let s := s.modFab (fun f => { f with seen := f.seen ++ [(0, a, copy)] })
      let s := if line < 3 then s.sendLine (line + 1) (.memberLost a copy tick) else s
      if s.fab.noticed.contains a then s
      else ((s.log sevWarning noCtx 0x0A none32 Key.niFailedAddresses (wordOfAddr a)).loseAddr a 0x25).afterTxns)

/-! ### Joining and leaving a partition (R219 to R221, R226, R233, R235, R240, R243) -/

/-- Coordinates whose bits are set in `PARTITION_MEMBERS`. -/
def State.memberMap (s : State) : List Nat :=
  (s.bulk.filter (fun c => c.1 / 2 ^ 20 == Key.partitionMembers)).flatMap (fun c =>
    ((List.range 8).filter (fun i => bit c.2.toNat i)).map (fun i => 8 * (c.1 % 2 ^ 20) + i))

/-- The port a joining spare hangs from and the address it sends as: the far end its own SPARE port has found, where both ends attach
spares (R212, R224). -/
def State.attachOf (s : State) : Option (Nat × Addr) :=
  if s.reg Key.codedRole ≠ 1 then none
  else
    ([7, 14, 15].find? (fun p => bit (s.reg Key.partitionPortMask) p && s.isSparePort p && s.reg (Key.portNeighbour p) != none32 &&
      s.feature p 2)).map
      (fun p =>
        let n := s.reg (Key.portNeighbour p)
        (p, ⟨n / 256 % 65536, if n % 256 = 7 then 1 else if n % 256 = 14 then 2 else 3⟩))

/-- A torus port of the own tag whose link has been found without `DATELINE_VC` (R235). -/
def State.lacksDateline (s : State) : Bool :=
  allPorts.any (fun (p : Fin 16) => bit (s.reg Key.partitionPortMask) p && s.isTorus p && s.portUp p && !bit (s.reg (Key.portFeatures p)) 0)

/-- The buffer division written takes effect: ports in UP offer it by a credit resync (R216, R233; log 64). -/
def State.takeAlloc (s : State) : State :=
  let new := (s.bulkBytes Key.frBufferAlloc 0 16).map BitVec.toNat
  if new = s.fab.alloc then s
  else
    let s := s.modFab (fun f => { f with alloc := new })
    s.forEach allPorts (fun s p =>
      if s.portUp p ∧ !bit (s.port p).resync 0 then
        ((s.bump (Key.portCreditResync p) 1).modPort p (fun x => { x with resync := x.resync + 1 })).sendAwait p .resync
      else s)

/-- A nonzero tag is written to `PARTITION_REQUEST`. -/
def State.joinPartition (s : State) (t : Nat) : State :=
  if s.reg Key.partitionTag ≠ 0 ∨ (s.reg Key.frFlowMode = 1 ∧ s.lacksDateline) then s.setReg Key.partitionStatus 4
  else
    let s := (s.setReg Key.partitionTag t).setReg Key.partitionStatus 1
    let s := s.modFab (fun f => { f with
      sendStreams := [], recvStreams := [], failed := [], noticed := [], heard := [], declared := [], seen := [], watch := [],
      unapplied := [], flowMode := s.reg Key.frFlowMode, members := s.memberMap, attach := s.attachOf, joinTimeouts := false, requesting := true })
    let s := s.takeAlloc.codedJoin
    let s := s.forEach (allPorts.filter (fun (p : Fin 16) => bit (s.reg Key.partitionPortMask) p)) (fun s p => s.askTag p t true)
    s.settleRequest

/-- 0x000 is written to `PARTITION_REQUEST`: the own tag is torn down. -/
def State.leavePartition (s : State) : State :=
  let t := s.reg Key.partitionTag
  if t = 0 then s
  else
    let s := ((s.setReg Key.partitionTag 0).setReg Key.partitionStatus 1).modFab (fun f => { f with joinTimeouts := false, requesting := true })
    (s.forEach allPorts (fun s p => s.dropTag p t true)).settleRequest

/-- The transit tags of a port change from one list to another (R219, R220). -/
def State.setTransit (s : State) (p : Fin 16) (old new : List Nat) : State :=
  let own := if bit (s.reg Key.partitionPortMask) p then s.reg Key.partitionTag else 0
  let s := s.forEach ((dedup old).filter (fun t => t != 0 && !new.contains t && t != own)) (fun s t => s.dropTag p t false)
  s.forEach ((dedup new).filter (fun t => t != 0 && t != 0xFFF && !old.contains t)) (fun s t => s.askTag p t false)

/-- A write of `RANK_REMAP` (R225): the table's entry names the new address. -/
def State.rankRemap (s : State) (v : Nat) : State := s.setRank (v % 65536) ⟨v / 2 ^ 32 % 65536, v / 2 ^ 48 % 4⟩

/-- A write of `NI_FAILED_CLEAR` (R243). -/
def State.clearFailed (s : State) (v : Nat) : State :=
  (s.modFab (fun f => { f with
    failed := f.failed.filter (fun a => a != addrOfWord v), noticed := f.noticed.filter (fun a => a != addrOfWord v) })).regroup.releaseReruns

end Sys2Proof.Machine
end

