-- ==== Sys2Proof/Machine/Ckpt.lean ====
section
/-! DEFINITION. Flash checkpoints at work (spec/17): triggers and requests, pending targets, writing a shard into its slot,
transfers to and from the host, and the restore of a shard. CKPT_PREEMPT_NOTICE, CKPT_SOFTWARE_REQUEST, CKPT_XFER_DESC and
CKPT_RESTORE are register writes: their rows stand with the dictionary and call what is here. -/
namespace Sys2Proof.Machine

/-! ### Pending targets (R342, R343) -/

/-- Report `CKPT_PENDING`. -/
def State.notePending (s : State) : State :=
  s.setBulk Key.ckptPending 0 ((List.range 8).flatMap (fun i => leBytes 4 ((s.ckpt.pendingTargets.map Prod.fst).getD i none32)))

/-- Add the target of a request: already pending, passed, one of more than eight, or kept (R342, R343). -/
def State.addTarget (s : State) (t reason : Nat) : State :=
  if s.ckpt.pendingTargets.any (fun p => p.1 == t) then s
  else if t < s.stepOf s.ckptCtx ∨ 8 ≤ s.ckpt.pendingTargets.length then s.ckptMiss t
  else (s.modCkpt (fun k => { k with
    pendingTargets := sortBy (fun (a b : Nat × Nat) => decide (a.1 ≤ b.1)) ((t, reason) :: k.pendingTargets) })).notePending

/-- A trigger acts: the request is sent to every member in two copies, and taken here (R342). -/
def State.ckptRequestNow (s : State) (reason : Nat) : State :=
  let t := (s.stepOf s.ckptCtx + s.force Key.ckptLead) % 2 ^ 32
  let s := s.addTarget t reason
  if s.reg Key.partitionTag = 0 then s
  else s.forEach [0, 1] (fun s copy =>
    let s := s.modCkpt (fun k => { k with seen := k.seen ++ [(s.coord, t, copy)] })
    (s.sendLine 0 (.ckptRequest t s.coord reason copy s.tick)).sendLine 1 (.ckptRequest t s.coord reason copy s.tick))

/-- A trigger that does not act in the current phase is ignored and logged (R340). -/
def State.ckptIgnored (s : State) (reason : Nat) : State := s.log sevWarning noCtx 0x0F none32 Key.ckptPhase reason

/-- The pre-emption notice acts in MAINTENANCE (R340). -/
def State.ckptNotice (s : State) : State := if s.reg Key.ckptPhase = 1 then s.ckptRequestNow 2 else s.ckptIgnored 2

/-- The software request acts in both phases (R340). -/
def State.ckptSoftware (s : State) : State := s.ckptRequestNow 3

/-- CKPT_REQUEST (R342): acted on and forwarded, in dimension order, at the first arrival of (origin, target, copy). -/
def execCkptRequest (line target origin reason copy tick : Nat) (s : State) : Host.Outcome State Fault Refusal :=
  .next (
    if !s.hubUp ∨ s.ckpt.seen.contains (origin, target, copy) then s
    else
      let s := s.modCkpt (fun k => { k with seen := k.seen ++ [(origin, target, copy)] })
      let s := if line < 3 then s.sendLine (line + 1) (.ckptRequest target origin reason copy tick) else s
      s.addTarget target 4)

/-! ### Early warning (R340, R341) -/

/-- Temperature of a sensor in m°C. -/
def State.temperature (s : State) (i : Nat) : Int := toSigned 32 (s.bulkNat Key.tempSensors (4 * i) 4)

/-- Emergency threshold of a sensor. -/
def State.emergencyLimit (s : State) (i : Nat) : Int := toSigned 32 (s.bulkNat Key.thermalLimits (8 * i) 4)

/-- Shutdown threshold of a sensor. -/
def State.shutdownLimit (s : State) (i : Nat) : Int := toSigned 32 (s.bulkNat Key.thermalLimits (8 * i + 4) 4)

/-- The thermal margin over sensors 0 to 12 (R340, R408). -/
def State.margin (s : State) : Int :=
  (List.range 13).foldl (fun m i => min m (s.emergencyLimit i - s.temperature i)) (s.emergencyLimit 0 - s.temperature 0)

/-- The early-warning conditions that hold, each with the entry that crossed: bit 0 corrected errors, 1 flit CRC, 2 thermal
(R340, R341). -/
def State.warnings (s : State) : List (Nat × Nat) :=
  let over_ (k limit : Nat) := decide (limit ≤ s.reg k)
  let ce := ((List.range 8).map Key.hbmCeRate ++ [Key.reserveCeRate]).find? (fun k => over_ k (s.reg Key.ckptEwCeLimit))
  let crc := ((List.range 16).map Key.portCrcRate).find? (fun k => over_ k (s.reg Key.ckptEwCrcLimit))
  (ce.toList.map (fun k => (0, k))) ++ (crc.toList.map (fun k => (1, k))) ++
    (if s.margin < 1000 * (s.reg Key.ckptEwThermalMargin : Nat) then [(2, Key.thermalMargin)] else [])

/-- Own ticks of one second. -/
abbrev secondTicks : Nat := 100000000

/-- The bits of the warning status clear once no condition has held for 60 s (R341). -/
def State.ewSettle (s : State) (none_ : Bool) : State :=
  if !none_ then s.modCkpt (fun k => { k with ewClearSince := none })
  else match s.ckpt.ewClearSince with
    | none => s.modCkpt (fun k => { k with ewClearSince := some s.now })
    | some t => if t + 60 * secondTicks ≤ s.now then s.setReg Key.ckptEwStatus 0 else s

/-- EARLY_WARNING_CHECK (R341): once per second; it acts in SERVICE, and not within the holdoff of the last one. -/
def execEarlyWarningCheck (dt : Nat) (s : State) : Host.Outcome State Fault Refusal :=
  .next (
    let s := s.advance dt
    if !s.hubUp ∨ s.now < s.ckpt.ewChecked + secondTicks then s
    else
      let s := s.modCkpt (fun k => { k with ewChecked := s.now })
      let w := s.warnings
      let s := s.ewSettle w.isEmpty
      if w.isEmpty ∨ s.reg Key.ckptEwEnable ≠ 1 then s
      else if s.reg Key.ckptPhase ≠ 0 then s.ckptIgnored 1
      else if (match s.ckpt.ewLast with | some t => decide (s.now < t + s.reg Key.ckptEwHoldoff * secondTicks) | none => false) = true then s
      else
        let s := s.modCkpt (fun k => { k with ewLast := some s.now })
        let s := s.forEach w (fun s x =>
          (s.setReg Key.ckptEwStatus (s.reg Key.ckptEwStatus ||| 2 ^ x.1)).log sevWarning noCtx 0x0F none32 x.2 (s.reg x.2))
        s.ckptRequestNow 1)

/-! ### Taking a checkpoint (R338, R339, R343, R346, R349) -/

/-- Objects of the shard: role WEIGHT or STATE, not coded, with a copy here, in handle order. -/
def State.shardObjects (s : State) : List (Nat × ObjInst) :=
  match s.image with
  | none => []
  | some im => ((List.range im.objects.length).zip im.objects).filterMap (fun x =>
      if 1 < x.2.role ∨ x.2.coded then none
      else
        let owner := if x.2.perContext then s.ckptCtx else 4
        match s.mem.objects.find? (fun i => i.handle == x.1 && i.owner == owner) with
        | some i => if i.hot.isSome ∨ i.low.isSome then some (x.1, i) else none
        | none => none)

/-- Coded objects of the shard: role WEIGHT or STATE, with their tile counts, in handle order (R338). -/
def State.shardCoded (s : State) : List (Nat × Nat) :=
  s.codedObjects.filter (fun x => match s.objRec x.1 with | some o => decide (o.role ≤ 1) | none => false)

/-- The slot a checkpoint writes into (R346). -/
def State.ckptSlot (s : State) : Nat :=
  if !s.slotValid 0 then 0 else if !s.slotValid 1 then 1
  else if s.slotNat 1 8 4 < s.slotNat 0 8 4 then 1 else 0

/-- A transfer of a direction runs: 1 upload, 2 download. -/
def State.xferDir (s : State) (d : Nat) : Bool := match s.ckpt.xfer with | some x => x.1 == d | none => false

/-- End the upload of a slot; how much it has moved is not stated (R349, log 68). -/
def State.abortUpload (s : State) (slot : Nat) : State :=
  match s.ckpt.xfer with
  | some (d, sl, _, len, _) =>
    if d = 1 ∧ sl = slot then
      let f := s.free 65
      ((f.2.modCkpt (fun k => { k with xfer := none })).setReg Key.ckptXferStatus 3).setReg Key.ckptXferBytes (f.1 % (len + 1))
    else s
  | none => s

/-- The parity units go into the shard (R338). -/
def State.ckptParity (s : State) : Bool := s.hasCoded && s.force Key.ckptIncludeParity == 1

/-- Start the checkpoint of step `t`. -/
def State.ckptStart (s : State) (t reason : Nat) : State :=
  let slot := s.ckptSlot
  let s := (s.abortUpload slot).voidSlot slot
  let s := s.modCkpt (fun k => { k with downloads := k.downloads.filter (· != slot) })
  let objs := s.shardObjects
  let coded := s.shardCoded.flatMap (fun x => (List.range x.2).filterMap (fun j => (tileUnit s.codedObjects x.1 j).map (fun u => (x.1, u))))
  let parity := if s.ckptParity then (List.range (s.reg Key.codedParityUnits)).map (fun u => (parityHandle, u)) else []
  let run : CkptRun := {
    target := t, reason := reason, slot := slot, startTick := s.tick, startNow := s.now,
    items := objs.filterMap (fun x => x.2.hot.map (fun v => (x.1, x.2.owner, v))),
    content := objs.map (fun x => (x.1, s.instCells x.2)),
    toRead := objs.map (fun x => (x.1, 0)) ++ coded ++ parity, units := [], parity := s.ckptParity,
    rng := match ctxIndex? s.ckptCtx with | some c => s.bulkBytes (Key.rngState c) 0 32 | none => [],
    position := match s.acc.cmtBlob with | some b => b.2 | none => s.bulkBytes Key.ckptDataPosition 0 64 }
  let wait := s.hasCoded && s.reg Key.codedRecordedGen != t
  (s.modCkpt (fun k => { k with run := some run })).setReg Key.ckptState (if wait then 1 else 2)

/-- What a step boundary of the checkpoint context does to the pending targets: `t` is the step that ends. A pending target
too close above `t` is discarded whether or not its checkpoint could start, so the targets depend on their values alone
(R343, R349; log 141). -/
def State.ckptBoundary (s : State) (t : Nat) : State :=
  let late := s.ckpt.pendingTargets.filter (fun p => decide (p.1 < t))
  let s := s.forEach late (fun s p => s.ckptMiss p.1)
  let s := s.modCkpt (fun k => { k with pendingTargets := k.pendingTargets.filter (fun p => decide (t ≤ p.1)) })
  let s := match assoc s.ckpt.pendingTargets t with
    | none => s
    | some reason =>
      let s :=
        if !s.flashAttached then (s.setReg Key.ckptLastStatus 3).log sevWarning noCtx 0x0F none32 Key.ckptLastStatus 3
        else if s.ckpt.run.isSome ∨ s.xferDir 2 then s.ckptMiss t
        else s.ckptStart t reason
      s.modCkpt (fun k => { k with
        pendingTargets := k.pendingTargets.filter (fun p => decide (t + s.force Key.ckptMinSpacing ≤ p.1)) })
  s.notePending

/-! ### Writing (R339, R344 to R347, R353) -/

/-- What the writer alone held is released (R339). -/
def State.ckptRelease (s : State) (items : List (Nat × Nat × Version)) : State :=
  let s := s.forEach items (fun s i => s.releaseHeld i.2.2.frames)
  let g := s.reg Key.codedRecordedGen
  if g = none32 ∨ !s.hasCoded then s
  else s.modCoded (fun c => { c with units := c.units.map (fun r => if r.preDelta then r else s.keepKept g r) })

/-- A checkpoint in progress ends without its commit record: 2 ABANDONED, 3 FLASH_FAILED. -/
def State.ckptDrop (s : State) (status : Nat) : State :=
  match s.ckpt.run with
  | none => s
  | some k =>
    (((s.modCkpt (fun x => { x with run := none })).setReg Key.ckptState 0).setReg Key.ckptLastStatus status).ckptRelease k.items

/-- The writer reads one unit of coded state: the data unit of generation `t`, or the parity consistent with its record
(R339). -/
def State.ckptUnit (s : State) (t handle u : Nat) : List Host.Cell :=
  if handle = parityHandle then ((s.parityAtMost u t).map Prod.snd).getD (s.unitCells true u)
  else (s.versionAtMost u t).getD (s.unitCells false u)

/-- The writer reads one version: an object that is not coded, or a unit of coded state. -/
def State.ckptRead (s : State) (handle u : Nat) : State :=
  match s.ckpt.run with
  | none => s
  | some k =>
    if s.reg Key.ckptState ≠ 2 ∨ !k.toRead.contains (handle, u) then s
    else
      let plain := k.content.any (fun c => c.1 == handle)
      let k' : CkptRun := { k with
        toRead := k.toRead.filter (· != (handle, u)), items := k.items.filter (fun i => i.1 != handle),
        units := if plain then k.units else k.units ++ [(handle, u, s.ckptUnit k.target handle u)] }
      (s.modCkpt (fun x => { x with run := some k' })).ckptRelease (k.items.filter (fun i => i.1 == handle))

/-- CKPT_VERSION_READ (R339). -/
def execCkptVersionRead (handle unit : Nat) (s : State) : Host.Outcome State Fault Refusal := .next (s.ckptRead handle unit)

/-- Tiles of a non-coded object's content. -/
def ObjRec.cutTiles (o : ObjRec) (cs : List Host.Cell) : List (List Host.Cell) :=
  (List.range o.tileCount).map (fun j =>
    let sp := o.tileSpan j
    (cs.filter (fun c => decide (sp.1 ≤ c.1 ∧ c.1 < sp.1 + sp.2))).map (fun c => (c.1 - sp.1, c.2)))

/-- The shard in write order: handle and tiles of each object, then parity (R345). -/
def State.shard (s : State) (k : CkptRun) : List (Nat × List (List Host.Cell)) :=
  let mine (h : Nat) := (k.units.filter (fun u => u.1 == h)).map (fun u => u.2.2)
  let plain := k.content.map (fun x => (x.1, match s.objRec x.1 with | some o => o.cutTiles x.2 | none => []))
  let coded := s.shardCoded.map (fun x => (x.1, mine x.1))
  sortBy (fun (a b : Nat × List (List Host.Cell)) => decide (a.1 ≤ b.1)) (plain ++ coded) ++
    (if k.parity then [(parityHandle, mine parityHandle)] else [])

/-- Directory entries from tile `first` on (R345); role and `CODED` bit of the parity entry are not stated (log 68). -/
def State.directory (s : State) (first : Nat) : List (Nat × List (List Host.Cell)) → List Byte × State
  | [] => ([], s)
  | x :: rest =>
    let n := x.2.length
    let f : Nat × Nat × Nat × State := match s.objRec x.1 with
      | some o => (o.role, (if o.coded then 1 else 0), o.size, s)
      | none => let a := s.free 66; let b := a.2.free 66; (a.1 % 256, b.1 % 2, n * frameBytes, b.2)
    let e := leBytes 4 x.1 ++ leBytes 1 f.1 ++ leBytes 1 f.2.1 ++ leBytes 2 0 ++ leBytes 8 f.2.2.1 ++ leBytes 8 (first * frameBytes) ++
      leBytes 4 n ++ leBytes 4 0
    let r := f.2.2.2.directory (first + n) rest
    (e ++ r.1, r.2)

/-- Bytes of a tile: content padded with zeros. -/
def tileBytes (cs : List Host.Cell) : List Byte := cellBytes cs 0 frameBytes

/-- Put a tile into a slot; nothing of a shard larger than its slot reaches the commit record (log 67). -/
def State.slotPutTile (s : State) (slot off : Nat) (cs : List Host.Cell) : State :=
  if s.recordOff < off + frameBytes then s
  else
    let a := s.slotBase slot + off
    (s.bump Key.flashBytesWritten frameBytes).modMem (fun m => { m with flash := cs.foldl (fun f c => cellSet f (a + c.1) c.2) (cellClear m.flash a frameBytes) })

/-- Manifest of a shard (R345). -/
def State.manifest (s : State) (k : CkptRun) (full : Bool) (digest dirLen crcOff tiles dataOff : Nat) : List Byte :=
  leBytes 4 manifestMagic ++ leBytes 2 0x0100 ++ leBytes 1 (if full then 1 else 2) ++ leBytes 1 k.reason ++ leBytes 4 k.target ++
  leBytes 4 (s.force Key.ckptShardId) ++ leBytes 4 (s.force Key.ckptShardCount) ++ leBytes 2 (s.force Key.ckptReplicaIndex) ++
  leBytes 2 (s.force Key.ckptWriterRank) ++ leBytes 2 s.coord ++
  leBytes 2 ((if k.parity then 1 else 0) + (if s.hasCoded then 2 else 0)) ++ leBytes 1 (s.reg Key.numericsLevelInUse) ++
  leBytes 1 (s.reg Key.codedGroupIndex) ++ leBytes 2 0 ++ leBytes 8 s.imageDigest8 ++ leBytes 8 digest ++ k.rng ++ k.position ++
  leBytes 8 0x100000 ++ leBytes 8 dirLen ++ leBytes 8 crcOff ++ leBytes 8 tiles ++ leBytes 8 (if full then dataOff else 0) ++
  leBytes 8 k.startTick ++ leBytes 8 s.tick ++ List.replicate (4096 - 0xC8) 0

/-- Write a shard whole: tiles, tile CRC list, directory and manifest, and last the commit record (R344, R346). -/
def State.writeShard (s : State) (k : CkptRun) : State :=
  let full := s.force Key.ckptReplicaIndex == 0
  let sh := s.shard k
  let tiles := sh.flatMap Prod.snd
  let crcs := tiles.flatMap (fun t => leBytes 4 (crc32c (tileBytes t)))
  let digest := leNat ((sha384 crcs).take 8)
  let d := s.directory 0 sh
  let s := d.2
  let crcOff := mibUp (0x100000 + d.1.length)
  let dataOff := mibUp (crcOff + crcs.length)
  let s := if full then
      s.forEach ((List.range tiles.length).zip tiles) (fun s t => s.slotPutTile k.slot (dataOff + t.1 * frameBytes) t.2)
    else s
  let man := s.manifest k full digest d.1.length crcOff tiles.length dataOff
  let s := ((s.slotWrite k.slot crcOff crcs).slotWrite k.slot 0x100000 d.1).slotWrite k.slot 0 man
  let seq := s.ckpt.sequence + 1
  let s := s.modCkpt (fun x => { x with sequence := seq })
  s.slotWrite k.slot s.recordOff (leBytes 4 recordMagic ++ leBytes 4 k.target ++ leBytes 1 k.slot ++ leBytes 3 0 ++
    leBytes 4 (crc32c (man ++ d.1 ++ crcs)) ++ leBytes 8 seq ++ leBytes 8 digest ++ List.replicate (4096 - 0x20) 0)

/-- CKPT_WRITE_DONE (R346): what is still to read is read, the shard is written and its commit record makes the slot valid. -/
def execCkptWriteDone (s : State) : Host.Outcome State Fault Refusal :=
  .next (
    match s.ckpt.run with
    | none => s
    | some k0 =>
      if s.reg Key.ckptState ≠ 2 then s
      else
        let s := s.forEach k0.toRead (fun s x => s.ckptRead x.1 x.2)
        match s.ckpt.run with
        | none => s
        | some k =>
          let s := (s.writeShard k).modCkpt (fun x => { x with run := none })
          let s := ((s.setReg Key.ckptState 0).setReg Key.ckptLastStatus 1).setReg Key.ckptLastTicks (s.now - k.startNow)
          (s.bump Key.ckptCount 1).noteSlots)

/-- FLASH_PROGRAM_FAIL (R347): a failure is counted and takes a spare block; one that finds none ends the checkpoint. -/
def execFlashProgramFail (remapped : Bool) (s : State) : Host.Outcome State Fault Refusal :=
  .next (
    if !s.hubUp then s else
    let s := s.bump Key.flashProgramFails 1
    let spare := remapped && decide (0 < s.reg Key.flashSpareBlocks)
    let s := if spare then s.setReg Key.flashSpareBlocks (s.reg Key.flashSpareBlocks - 1) else s
    if spare ∨ s.ckpt.run.isNone then s
    else (s.ckptDrop 3).log sevWarning noCtx 0x0F none32 Key.ckptLastStatus 3)

/-! ### Transfers (R348, R349) -/

/-- A transfer descriptor as the spec lays it out (R348). -/
def xferWellFormed (slotBytes : Nat) (desc : List Byte) : Bool :=
  let f (a n : Nat) := leNat ((desc.drop a).take n)
  decide (desc.length = 32) && decide (1 ≤ f 0 1 ∧ f 0 1 ≤ 2) && decide (f 1 1 ≤ 1) && f 2 6 == 0 && decide (f 8 8 % 4096 = 0) &&
    decide (f 16 8 % 4096 = 0) && decide (f 8 8 + f 16 8 ≤ slotBytes)

/-- A descriptor is written: a transfer starts unless one runs. -/
def State.startXfer (s : State) (desc : List Byte) : State :=
  let f (a n : Nat) := leNat ((desc.drop a).take n)
  if !s.flashAttached then s.setReg Key.ckptXferStatus 3
  else if s.ckpt.xfer.isSome then s.setReg Key.ckptXferStatus 4
  else
    let s := ((s.modCkpt (fun k => { k with xfer := some (f 0 1, f 1 1, f 8 8, f 16 8, f 24 8) })).setReg Key.ckptXferStatus 1).setReg
      Key.ckptXferBytes 0
    if f 0 1 = 2 ∧ !s.ckpt.downloads.contains (f 1 1) then
      (s.modCkpt (fun k => { k with downloads := k.downloads ++ [f 1 1] })).voidSlot (f 1 1)
    else s

/-- XFER_COMPLETE (R348): an upload answers the slot's bytes, a download brings `data`. A download that makes its slot valid
ends the series. -/
def execXferComplete (data : List Byte) (s : State) : Host.Outcome State Fault Refusal :=
  .next (
    match s.ckpt.xfer with
    | none => s
    | some (d, slot, off, len, host) =>
      let s := ((s.modCkpt (fun k => { k with xfer := none })).setReg Key.ckptXferStatus 2).setReg Key.ckptXferBytes len
      if d = 1 then s.toHost (.uploaded host (s.slotRead slot off len))
      else
        let s := (s.slotWrite slot off (data.take len)).noteSlots
        if s.slotValid slot then s.modCkpt (fun k => { k with downloads := k.downloads.filter (· != slot) }) else s)

/-! ### Restore (R350 to R353) -/

/-- A restore may start (R350). -/
def State.restoreAllowed (s : State) : Bool :=
  s.image.isSome && !s.anyResident && s.ckpt.run.isNone && s.ckpt.xfer.isNone && s.ckpt.restore.isNone

/-- A step ceiling is written. -/
def State.restoreRequest (s : State) (ceiling : Nat) : State :=
  if !s.restoreAllowed then s.setReg Key.ckptRestoreStatus 5 else (s.setReg Key.ckptState 4).restoreEnterCrew ceiling

/-- A tile's CRC fails, or its flash read: the tile is logged and the restore ends on every member (R352). -/
def State.restoreBad (s : State) (tile : Nat) : State :=
  (s.log sevWarning noCtx 0x0F none32 Key.ckptRestoreStatus tile).restoreFail 0x22 (s.selfIndex (s.force Key.ckptCrew))

/-- Pieces of a tile that is already in place. -/
abbrev tileDone : Nat := 16

/-- Tiles of which every piece has arrived and that are not yet in place. -/
def RestoreRun.whole (r : RestoreRun) : List Nat :=
  (dedup (r.got.map Prod.fst)).filter (fun t => !r.got.any (fun g => g.1 == t && g.2.1 == tileDone) &&
    (List.range 16).all (fun p => r.got.any (fun g => g.1 == t && g.2.1 == p)))

/-- Check and put in place the tiles that are whole, slot `i` holding the reference shard (R351, R352). -/
def State.restoreTiles (s : State) (i : Nat) : List Nat → State
  | [] => s
  | t :: ts =>
    match s.ckpt.restore with
    | none => s
    | some r =>
      let bs := (List.range 16).flatMap (fun p => ((r.got.find? (fun g => g.1 == t && g.2.1 == p)).map (fun g => g.2.2)).getD [])
      if crc32c bs ≠ s.slotTileCrc i t then s.restoreBad t
      else
        let s := s.putShardTile i t bs
        let s := s.modCkpt (fun k => { k with restore := some { r with got := (t, tileDone, []) :: r.got.filter (fun g => g.1 != t) } })
        State.restoreTiles s i ts

/-- Take the whole tiles of a restore whose step is chosen. -/
def State.restoreTake (s : State) : State :=
  match s.ckpt.restore with
  | none => s
  | some r =>
    match r.step with
    | none => s
    | some step => match s.restoreSlot step with
      | some i => s.restoreTiles i r.whole
      | none => s

/-- CKPT_TILE (R351): a piece of a tile reaches a replica of its shard. -/
def execCkptTile (shard step tile piece : Nat) (data : List Byte) (s : State) : Host.Outcome State Fault Refusal :=
  .next (
    match s.ckpt.restore with
    | none => s
    | some r =>
      if shard ≠ s.force Key.ckptShardId ∨ s.force Key.ckptReplicaIndex = 0 ∨ 16 ≤ piece ∨
        (match r.step with | some t => t != step | none => false) = true ∨
        r.got.any (fun g => g.1 == tile && (g.2.1 == piece || g.2.1 == tileDone)) then s
      else
        (s.modCkpt (fun k => { k with restore := some { r with got := (tile, piece, data) :: r.got } })).restoreTake)

/-- RESTORE_COMPLETE (R351, R352): a FULL shard is read from the own slot, the tiles of a REFERENCE shard have all come; then
step, random state, position and coded state are set. -/
def execRestoreComplete (flashOk : Bool) (s : State) : Host.Outcome State Fault Refusal :=
  .next (
    let s := s.restoreTake
    match s.ckpt.restore with
    | none => s
    | some r =>
      match r.step with
      | none => s
      | some step =>
        match s.restoreSlot step with
        | none => s
        | some i =>
          let n := s.slotNat i 0xA8 8
          if !flashOk then
            -- which tile the controller could not correct is open (log 142): those before it are in place (R352)
            let f := s.free 142
            let t := f.1 % n
            if s.slotNat i 6 1 = 1 then
              let p := f.2.putShard i t 0
              p.1.restoreBad (p.2.getD t)
            else f.2.restoreBad t
          else if s.slotNat i 6 1 = 1 then
            let p := s.putShard i n 0
            match p.2 with
            | some t => p.1.restoreBad t
            | none => p.1.restoreDone i step r.refused
          else if !(List.range n).all (fun t => r.got.any (fun g => g.1 == t && g.2.1 == tileDone)) then s
          else s.restoreDone i step r.refused)

end Sys2Proof.Machine
end

