-- ==== Sys2Proof/Machine/Commit.lean ====
section
/-! DEFINITION. Commit points and step boundaries (spec/02, R31 to R33, R36), and the meanings of COMMIT, COMMIT_POINT,
STEP_BOUNDARY and COMMAND_BUDGET_EXPIRY; what a doorbell, an acknowledgement of completion records and a resume do. -/
namespace Sys2Proof.Machine

/-! ### Reaching the commit point -/

/-- The work of an issued command is done (R31, R134, R185, R261, R271). -/
def State.workDone (s : State) (c : Fin 4) (q : Fin 8) (r : Run) : Bool :=
  match r.cmd.kind with
  | 1 => r.blockDone
  | 2 => s.exchangeReady c q r
  | 3 => s.collReady c q r
  | 4 => s.copyDone c q r
  | 5 => match r.cmd.fetchRec with
    | some f => s.fetchDone c q f
    | none => false
  | _ => false

/-- Results formed at the commit point: the rows of a COMBINE, the result of a COLLECTIVE (R140, R277). -/
def State.formResult (s : State) (c : Fin 4) (q : Fin 8) (r : Run) : State :=
  if r.cmd.kind = 3 then s.collStage c q
  else match r.cmd.exchRec with
    | some e => if r.cmd.kind = 2 ∧ e.role = 3 then s.combineStage c q e else s
    | none => s

/-- Objects that are read when results are formed at the commit point: the rows of a COMBINE (R140). -/
def Run.formReads (r : Run) : List Nat :=
  match r.cmd.exchRec with
  | some e => if r.cmd.kind = 2 ∧ e.role = 3 then [e.hs, e.residual, e.shared].filter (· != none32) else []
  | none => []

/-- What forming a command's results reads can be read now: objects, and the outputs returned to a COMBINE (R140, R160). -/
def State.formAccess (s : State) (c : Fin 4) (q : Fin 8) (r : Run) : State × Bool :=
  if r.formReads.isEmpty then (s, true)
  else
    let x := s.hubAccess c q (r.formReads.map s.wholeOf)
    match x.2, r.cmd.exchRec with
    | true, some e => x.1.returnsReadable c e.layer
    | b, _ => (x.1, b)

/-- A command enters its commit point: its results are formed once, as soon as what they are formed from can be read. -/
def State.reachCommit (s : State) (c : Fin 4) (q : Fin 8) : State :=
  match s.run c q with
  | none => s
  | some r =>
    if r.phase ≠ .atCommit ∧ r.running ∧ r.abort.isNone ∧ s.workDone c q r then
      let x := s.formAccess c q r
      if x.2 then (x.1.formResult c q r).modRun c q (fun r => { r with phase := .atCommit }) else x.1
    else s

/-- Ticks the command timer of a run counts: from its issue, or from where its issue was held (R36, R300). -/
def State.timerOf (s : State) (r : Run) : Nat :=
  if r.running then r.timer + (s.now - r.issuedAt)
  else match r.budgetFrom with
    | some t => s.now - t
    | none => 0

/-- The command timer has passed its budget, with what a takeover has added (R36, R328). -/
def State.overCommandBudget (s : State) (r : Run) : Bool := decide ((s.budgets r.cmd).2 + r.grace < s.timerOf r)

/-- The budget that a commit point finds passed before this HCLK: one that meets the expiry itself still commits, so a timer one
unit past its budget is no miss (R43, log 133). -/
def State.missedBudget (s : State) (r : Run) : Option Nat :=
  let b := s.budgets r.cmd
  if r.cmd.kind = 1 ∧ r.tiles.any (fun t => decide (b.1 + 1 < t.cycles)) then some b.1
  else if b.2 + r.grace + 1 < s.timerOf r then some b.2
  else none

/-- Effective mode a saturation record names (R52, R53): of the modes that the command's accumulations ran in, STRICT if one did
(DESIGN CHOICE, log 114). -/
def State.recordMode (s : State) (r : Run) : Nat :=
  if r.strict then 2 else if r.cmd.kind = 3 then s.effMode r.cmd (r.cmd.outputs.headD none32) else 1

/-! ### What holds a commit (R29, R318, R330, R339) -/

/-- Coded objects among the outputs of a run. -/
def State.codedOutputs (s : State) (r : Run) : List Nat :=
  r.cmd.usedOutputs.filter (fun h => match s.objRec h with | some o => o.coded | none => false)

/-- Data units of a coded object. -/
def State.unitsOf (s : State) (h : Nat) : List Nat :=
  match s.objRec h with
  | some o => (List.range o.tileCount).filterMap (fun j => tileUnit s.codedObjects h j)
  | none => []

/-- A generation is open: new versions of coded units wait (R318). -/
def State.generationHolds (s : State) (r : Run) : Bool :=
  s.reg Key.codedOpenGen != none32 && !(s.codedOutputs r).isEmpty

/-- The commit needs retention space that the checkpoint writer holds (R339). -/
def State.pinHolds (s : State) (r : Run) : Bool :=
  s.coded.started && (s.codedOutputs r).any (fun h => (s.unitsOf h).any (fun u =>
    decide (s.force Key.codedRetainDepth ≤ (s.unitRec false u).kept.length)))

/-- Stripes of outputs whose units are still LOST on this spare: they are rebuilt first (R330). -/
def State.lostOutputs (s : State) (r : Run) : List Nat :=
  dedup ((s.codedOutputs r).flatMap (fun h => match s.objRec h with
    | some o => (List.range o.tileCount).filterMap (s.lostStripe h)
    | none => []))

/-! ### The commit (R24, R31, R38, R41) -/

/-- Make a staged version the committed one; the displaced version is released, or kept for the group commit (R31, R313). A
repair keeps the producer tag (R41). -/
def State.installVersion (s : State) (c : Fin 4) (r : Run) (x : Nat × Version) : State :=
  match s.inst x.1 c, s.objRec x.1 with
  | some i, some o =>
    let g := (s.ctx c).step % 2 ^ 32
    let prod := if r.repairOf.isSome then i.producer else some (r.entry.command, g)
    let gen := if o.coded then (match ctxIndex? (s.force Key.codedContext) with
      | some k => (s.ctx k).step % 2 ^ 32
      | none => g) else g
    let keep := o.coded && s.coded.started && i.prev.isNone
    let s := s.modMem (fun m => m.rehold x.2.frames (.object x.1 i.owner))
    let s := match i.hot with
      | none => s
      | some old => if keep then s.modInst x.1 i.owner (fun y => { y with prev := some old }) else s.dropFrames old.frames
    let s := s.modInst x.1 i.owner (fun y => { y with hot := some { x.2 with prod := prod, gen := gen }, low := none })
    (s.restartMoves x.1 i.owner).codedCommitted x.1 gen
  | _, _ => s.dropStaged x.2

/-- Apply the local signals and send the remote ones (R31, R32). A signal to a destination outside the partition is refused,
or to a rank without a valid entry completes as failed on the context (R225, R226, R362); one to a failed address is lost (R243,
R369). -/
def State.sendSignals (s : State) (c : Fin 4) (l : List SignalRef) : State :=
  s.forEach (l.filter (fun g => g.counter != 0xFFFF)) (fun s g =>
    if g.rank = 0xFFFF then s.addCounter c g.counter g.increment
    else match s.destAddr g.rank with
      | none => s.sendTo (.signal c) c 3 noAddr 0 (.signal g.counter g.increment)
      | some a =>
        if a = s.ownAddr then s.addCounter c g.counter g.increment
        else s.sendTo (.signal c) c 3 a 0 (.signal g.counter g.increment))

/-- Each object a committed command of the placement context read counts once: its inputs, and what its schedules and layer records
made it read (R176). -/
def State.countReads (s : State) (c : Fin 4) (r : Run) : State :=
  if s.placeCtx ≠ c.val then s
  else s.forEach (dedup ((r.objs ++ r.cmd.inputs ++ (match r.cmd.exchRec with
    | some e => [e.hs, e.residual, e.shared]
    | none => [])).filter (· != none32))) (fun s h =>
    s.modInst h (s.ownerOf h c) (fun i => { i with reads := i.reads + 1 }))

/-- The queue moves past the entry at its head with a completion record (R29). -/
def State.finishEntry (s : State) (c : Fin 4) (q : Fin 8) (r : Run) : State :=
  let s := (s.postRecord c ⟨q, r.entry.hostTag, r.entry.command, 0, r.reruns⟩).endStreams c q
  s.modQueue c q (fun x => { x with run := none, next := (x.next + 1) % 2 ^ 32 })

/-- A repair commit: only the damaged version is replaced, nothing is signalled, and the killed command runs again (R41). -/
def State.commitRepair (s : State) (c : Fin 4) (q : Fin 8) (r : Run) (h : Nat) : State :=
  let mine := r.staged.filter (fun v => v.1 == h)
  let rest := r.staged.filter (fun v => v.1 != h)
  let s := s.forEach mine (fun s v => s.installVersion c r v)
  let s := s.forEach rest (fun s v => s.dropStaged v.2)
  let r' := { r with staged := [], repairOf := none, cmd := s.originalCommand r }
  (s.setRun c q (some (r'.afterKill s.now s.tick))).noteHbm c

/-- What the commit of a command of one kind does beyond versions, signals and record: the rules of exchanges and experts.
Answers whether a double free was found (R199). -/
def State.commitKind (s : State) (c : Fin 4) (r : Run) : State × Bool :=
  if r.cmd.kind = 2 then s.exchangeCommitted c r
  else if r.cmd.kind = 1 ∧ !r.served.isEmpty then s.expertCommitted c (s.layerOf r.cmd) r.entry.command r.served
  else (s, false)

/-- The commit as one indivisible action (R31). -/
def State.commitNow (s : State) (c : Fin 4) (q : Fin 8) (r : Run) : State :=
  let s := match r.commitSince with
    | some t => s.bump Key.ckptPinWaitTicks (s.now - t)
    | none => s
  let s := s.writeSat c r (s.recordMode r)
  let s := s.forEach r.counts (fun s x => s.bump x.1 x.2)
  match r.repairOf with
  | some d => s.commitRepair c q r d.1
  | none =>
    let s := if r.cmd.isCrew then s.crewCommitted c r else s
    let s := if r.gateKeys.isEmpty then s else s.checkSequences c r
    let s := s.forEach r.staged (fun s v => s.installVersion c r v)
    let k := s.commitKind c r
    let s := (k.1.countReads c r).sendSignals c r.cmd.signals
    let s := (((s.finishEntry c q r).noteHbm c).noteTiers).noteCrews
    let s := s.drainFails
    if k.2 then s.ctxFault c 0x40 r.entry.command 0x08 (Key.ctxFaultCode c) r.entry.command else s

/-- STRICT saturation found at the commit point (R54): counts and record are written, and the command does not commit. -/
def State.strictFails (s : State) (c : Fin 4) (q : Fin 8) (r : Run) : State :=
  let s := s.writeSat c r 2
  let s := s.forEach r.counts (fun s x => s.bump x.1 x.2)
  if r.cmd.isCrew then s.originateAbort c q 0x70
  else s.ctxFault c 0x70 r.entry.command 0x02 (Key.satRecordHead c) r.entry.command

/-- The commit point of the command at the head of a queue: it is formed, refused, held, or committed. -/
def State.commitPoint (s : State) (c : Fin 4) (q : Fin 8) : State :=
  let s := s.reachCommit c q
  match s.run c q with
  | none => s
  | some r =>
    if r.phase ≠ .atCommit then s
    else if r.hard then s.strictFails c q r
    else if let some b := s.missedBudget r then s.deadlineMiss c r b
    else if (r.repairOf.isNone && !s.ringRoom c) || s.generationHolds r then s
    else if !(s.lostOutputs r).isEmpty then s.forEach (s.lostOutputs r) State.startRebuild
    else if s.pinHolds r then s.modRun c q (fun r => { r with commitSince := some (r.commitSince.getD s.now) })
    else (((s.commitNow c q r).settlePreempt c).exchangePump c).copyPumpAll.settle

/-! ### Step boundaries (R33, R381, R409) -/

/-- Every other command of the context that issued before the COMMIT has committed (R33). -/
def State.stepDone (s : State) (c : Fin 4) (q : Fin 8) : Bool :=
  allQueues.all (fun x => x == q || (match s.run c x with | some r => r.phase == .waiting | none => true))

/-- CMT entries a context governs come into force at its step boundary (R381). -/
def State.applyCmt (s : State) (c : Fin 4) : State :=
  s.modAcc (fun a => { a with
    cmt := a.cmt.filter (fun x => x.2.2 != c.val),
    cmtBlob := match a.cmtBlob with | some b => if b.1 = c.val then none else some b | none => none })

/-- The COMMIT of a context may perform its step boundary now (R33, R178, R318). -/
def State.boundaryReady (s : State) (c : Fin 4) (q : Fin 8) : Bool :=
  s.stepDone c q && s.ringRoom c &&
    !(s.placeCtx == c.val && s.planHolds (s.ctx c).step) &&
    !(s.hasCoded && s.force Key.codedContext == c.val && s.reg Key.codedOpenGen != none32)

/-- The step boundary (R33). -/
def State.boundary (s : State) (c : Fin 4) : State :=
  let b := (s.ctx c).step
  let s := s.applyCmt c
  let s := ((s.placeBoundary c b).dropStagings c).takeCap
  let s := s.modCtx c (fun x => { x with
    step := b + 1, ran := x.ran + 1, counters := [],
    landed := x.landed.filter (fun l => l.1.step != b % 2 ^ 32), admitted := [], begun := [], launchWarned := false })
  let s := if s.hasCoded ∧ s.force Key.codedContext = c.val then s.groupCommitStart (b % 2 ^ 32) else s
  if s.ckptCtx = c.val then s.ckptBoundary (b % 2 ^ 32) else s

/-- The COMMIT at the head of a queue performs the step boundary and completes; then issue resumes (R33). -/
def State.stepBoundary (s : State) (c : Fin 4) (q : Fin 8) : State :=
  match s.run c q with
  | none => s
  | some r =>
    if r.cmd.kind ≠ 6 ∨ !r.running then s
    else if let some b := s.missedBudget r then s.deadlineMiss c r b
    else if !s.boundaryReady c q then s
    else
      let s := s.boundary c
      let s := (s.sendSignals c r.cmd.signals).modCtx c (fun x => { x with committing := none })
      ((s.finishEntry c q r).drainFails.settlePreempt c).settle

/-- COMMIT (R33). -/
def execCommit (c : Fin 4) (q : Fin 8) (s : State) : Host.Outcome State Fault Refusal :=
  .next (s.issue c q (fun r => r.cmd.kind == 6 && r.plainIssue)).1

/-- COMMIT_POINT (R31): a COMMIT command reaches it with its step boundary. -/
def execCommitPoint (c : Fin 4) (q : Fin 8) (found : List (Nat × Finding)) (s : State) : Host.Outcome State Fault Refusal :=
  .next (
    let s := s.tellFound c 3 found
    match s.run c q with
    | some r => if r.cmd.kind = 6 then s.stepBoundary c q else s.commitPoint c q
    | none => s)

/-- STEP_BOUNDARY (R33). -/
def execStepBoundary (c : Fin 4) (s : State) : Host.Outcome State Fault Refusal :=
  .next (
    match (s.ctx c).committing with
    | some n => if h : n < 8 then s.stepBoundary c ⟨n, h⟩ else s
    | none => s)

/-- COMMAND_BUDGET_EXPIRY (R36): a command timer has passed its budget. -/
def execCommandBudgetExpiry (c : Fin 4) (q : Fin 8) (dt : Nat) (s : State) : Host.Outcome State Fault Refusal :=
  .next (
    let s := s.advance dt
    match s.run c q with
    | none => s
    | some r => if (r.running ∨ r.budgetFrom.isSome) ∧ s.overCommandBudget r then s.deadlineMiss c r (s.budgets r.cmd).2 else s)

/-! ### Doorbell, acknowledgement, resume (R29, R30, R40) -/

/-- A doorbell write that R30 ignores is counted and logged. -/
def State.doorbellRefused (s : State) (c : Fin 4) (q : Fin 8) (tail : Nat) : State :=
  (s.bump (Key.queueRefused c) 1).log sevWarning c 0x01 none32 (Key.queueHead c q) tail

/-- A tail is written to a doorbell (R30). -/
def State.ringDoorbell (s : State) (c : Fin 4) (q : Fin 8) (tail : Nat) : State :=
  let queues := match s.image with | some im => im.header.queues | none => 0
  let x := s.queue c q
  if queues ≤ q.val ∨ !s.holds c then s.doorbellRefused c q tail
  else if 2 ^ 31 ≤ (tail + 2 ^ 32 - x.tail) % 2 ^ 32 ∨
      s.force (Key.queueDepth c) < (tail + 2 ^ 32 - s.reg (Key.queueHead c q)) % 2 ^ 32 then s.doorbellRefused c q tail
  else (s.modQueue c q (fun x => { x with tail := tail % 2 ^ 32 })).settle

/-- The host has consumed completion records up to count `n` (R29). -/
def State.ackRecords (s : State) (c : Fin 4) (n : Nat) : State :=
  ((s.setReg (Key.completionAck c) n).flushRecords c (s.ctx c).records.length).settle

/-- Issue restarts at the queue heads of a pre-empted context (R40); refused while the configuration CRC holds contexts
(R363). -/
def State.resumeCtx (s : State) (c : Fin 4) : State :=
  if s.cstate c ≠ cxPreempted ∨ s.configHeld then s else (s.setReg (Key.ctxState c) cxResident).settle

end Sys2Proof.Machine
end

