-- ==== Sys2Proof/Machine/Launch.lean ====
section
/-! DEFINITION. Stake-boat launch (spec/15, R297; spec/02, R28): LAUNCH_TICK issues the `AT_TICK` entry at the head of a
queue, whatever its kind. -/
namespace Sys2Proof.Machine

/-- What a command of each kind does as soon as it has issued. -/
def State.startKind (s : State) (c : Fin 4) (q : Fin 8) : State :=
  match s.run c q with
  | none => s
  | some r =>
    match r.cmd.kind with
    | 1 => s.blockStart c q
    | 2 => match r.cmd.exchRec with
      | some e =>
        let s := s.exchangeInit c q
        if e.role = 1 then (s.broadcastStart c q).drainFails
        else if e.role = 2 then ((s.dispatchBegins c q).dispatchStart c q).drainFails
        else s
      | none => s
    | 3 => s.collStart c q
    | 4 => s.copyStart c q
    | 5 => s.fetchStart c q
    | _ => s

/-- What reads the inputs of a command at its issue: a tile for a BLOCK, the hub block for every other kind (R165). -/
def State.issueReader (s : State) (c : Fin 4) (q : Fin 8) : Nat :=
  match s.run c q with
  | some r => if r.cmd.kind = 1 then 0 else 3
  | none => 0

/-- The rise of draw at the launch of an entry is limited: it reached the head of its queue `RAMP_LEAD` before its tick (R17, R299). -/
def State.rampCovers (s : State) (r : Run) : Bool :=
  decide (0 < s.force Key.rampLead) && decide (r.waitSince + s.force Key.rampLead ≤ r.entry.launch)

/-- A launch without a ramp ends what is known of the draw (R17, log 85). -/
def State.freeDraw (s : State) : State := s.modPower (fun p => { p with drawn := (s.now, 1800) })

/-- LAUNCH_TICK (R28, R297): at or after its `launch_tick` an entry with `AT_TICK` issues. -/
def execLaunchTick (c : Fin 4) (q : Fin 8) (dt : Nat) (found : List (Nat × Finding)) (s : State) :
    Host.Outcome State Fault Refusal :=
  .next (
    let u := s.advance dt
    let x := (u.tellFound c (u.issueReader c q) found).issue c q (fun r => bit r.entry.flags 0 && r.phase == .waiting)
    if !x.2 then x.1
    else
      let free := match x.1.run c q with | some r => !x.1.rampCovers r | none => false
      (if free then x.1.freeDraw else x.1).startKind c q)

end Sys2Proof.Machine
end

