-- ==== Sys2Proof/Machine/Context.lean ====
section
/-! DEFINITION. Contexts (spec/18, R355 to R361, R369): requests and their refusals, quotas, making a context resident, its
clearing, and the meaning of TEARDOWN_COMPLETE. The requests themselves are register writes: their rows stand with the
dictionary and call what is here. -/
namespace Sys2Proof.Machine

/-! ### Ring areas (R357) -/

/-- Bytes of a ring area. -/
abbrev ringAreaBytes : Nat := 0x4000000

/-- Rings of a context as the values written give them: base and bytes. -/
def State.rings (s : State) (c : Fin 4) : List (Nat × Nat) :=
  (List.range 8).map (fun i => (s.reg (Key.queueBase c i), 32 * s.reg (Key.queueDepth c))) ++
    [(s.reg (Key.completionBase c), 65536), (s.reg (Key.satRecordBase c), 4096),
     (s.reg (Key.waitTraceBase c), 32 * s.reg (Key.waitTraceRecords c)), (s.reg (Key.mirrorBase c), 2 * s.reg (Key.mirrorSlotSize c))]

/-- Every ring base is 0 or lies, with its whole ring, inside the context's ring area. -/
def State.ringsFit (s : State) (c : Fin 4) : Bool :=
  let b := s.reg (Key.ctxRingBase c)
  (s.rings c).all (fun r => r.1 == 0 || (b != 0 && decide (b ≤ r.1 ∧ r.1 + r.2 ≤ b + ringAreaBytes)))

/-- Entries that take effect for a context at its RESIDENT request. -/
def residentKeys (c : Fin 4) : List Nat :=
  (List.range 8).map (Key.queueBase c) ++ [Key.queueDepth c, Key.completionBase c, Key.satRecordBase c, Key.waitTraceBase c,
    Key.waitTraceRecords c, Key.mirrorBase c, Key.mirrorSlotSize c]

/-! ### Quotas (R358) -/

/-- HOT room left after PINNED bytes, pools, ring areas, coded areas and the HOT copies of shared objects. -/
def State.sharedRoom (s : State) : Nat :=
  let used : Nat := s.mem.objects.foldl (fun n i => match s.objRec i.handle with
    | some o => if i.owner = 4 ∧ i.hot.isSome then n + o.hotSize else n
    | none => n) 0
  s.reg Key.hotCapacity - s.areaBytes - used

/-- Contexts the image allows. -/
def State.contextsMax (s : State) : Nat := match s.image with | some im => im.header.contextsMax | none => 0

/-- Quota a context asks for; 0 means an equal share. -/
def State.quotaAsked (s : State) (c : Fin 4) : Nat :=
  let q := s.force (Key.ctxHbmQuota c)
  if q = 0 then s.sharedRoom / s.contextsMax else q

/-- Bytes of the `PER_CONTEXT` objects whose ceiling is HOT. -/
def State.hotOnly (s : State) (c : Fin 4) : Nat :=
  ((s.objectsFor c).filter (fun x => s.homed x.2 && x.2.ceiling == 0)).foldl (fun n x => n + x.2.hotSize) 0

/-- The quota can be granted (R358, log 70). -/
def State.quotaFits (s : State) (c : Fin 4) : Bool :=
  let others := (allCtx.filter (fun x => x != c && s.holds x)).foldl (fun n x => n + (s.ctx x).quota) 0
  decide (s.hotOnly c ≤ s.quotaAsked c ∧ s.quotaAsked c + others ≤ s.sharedRoom)

/-! ### Export segments (R251) -/

/-- Status of one valid export entry, and the segment where it comes into force. -/
def State.exportCheck (s : State) (taken : List (Nat × Nat)) (base h flags : Nat) : Nat :=
  match s.image, s.objRec h with
  | some im, some o =>
    let span := tilesOf o.size * frameBytes
    if o.placement ≠ 0 then 3
    else if bit flags 1 ∧ im.commands.any (fun cmd => cmd.outputs.contains h) then 4
    else if bit flags 1 ∧ o.protection = 1 then 5
    else if 2 ^ 35 < base + span ∨ taken.any (fun t => decide (base < t.1 + t.2 ∧ t.1 < base + span)) then 6
    else 1
  | _, _ => 2

/-- Segments in force of all contexts: base and span. -/
def State.segmentsTaken (s : State) : List (Nat × Nat) :=
  allCtx.flatMap (fun c => (s.ctx c).exports.map (fun e =>
    (e.2.1, match s.objRec e.2.2 with | some o => tilesOf o.size * frameBytes | none => 0)))

/-- The export table of a context comes into force, entry by entry. -/
def State.takeExports (s : State) (c : Fin 4) : State :=
  s.forEach (List.range 32) (fun s i =>
    let base := s.bulkNat (Key.exportTable c) (16 * i) 8
    let h := s.bulkNat (Key.exportTable c) (16 * i + 8) 4
    let f := s.bulkNat (Key.exportTable c) (16 * i + 12) 1
    let st := if bit f 0 then s.exportCheck s.segmentsTaken base h f else 0
    let s := s.setBulkByte (Key.exportStatus c) i (BitVec.ofNat 8 st)
    if st = 1 then s.modCtx c (fun x => { x with exports := x.exports ++ [(i, base, h)] }) else s)

/-! ### RESIDENT, RELEASE and CLEAR (R356, R357, R360, R361, R366, R371) -/

/-- Counters and heads of a context that are set to zero when it becomes resident. -/
def residentZero (c : Fin 4) : List Nat :=
  (List.range 8).map (Key.queueHead c) ++
  [Key.completionHead c, Key.completionAck c, Key.queueRefused c,
   Key.satRecordHead c, Key.satEntryCount c, Key.satExitCount c, Key.satWireCount c, Key.vanishedCount c, Key.specialCount c,
   Key.predUnitsPredicted c, Key.predUnitsNeeded c, Key.predUnitsRepaired c, Key.predUnitsLost c, Key.predUnitsWasted c,
   Key.routeTokens c, Key.routeChoicesAdmitted c, Key.routeChoicesRepechaged c, Key.routeChoicesDropped c,
   Key.routeTokensSkipped c, Key.routeSlotsStranded c, Key.routeDeadHeats c, Key.ledgerRounds c, Key.ledgerOrderCount c,
   Key.routeDupKeyCount c, Key.lookaheadPredicted c, Key.lookaheadHits c,
   Key.xchPairsDispatched c, Key.xchPairsLocal c, Key.xchBytesSent c, Key.xchReplicaServed c, Key.xchDeferred c,
   Key.xchFetchWaits c, Key.xchFetchWaitTicks c, Key.xchDupDropped c, Key.xchPoolStallTicks c, Key.mirrorSent c,
   Key.collCommitted c, Key.collBytesSent c, Key.collAborts c, Key.collHelperRuns c, Key.collStaleDropped c,
   Key.collEntryWaitTicks c, Key.waitTraceHead c,
   Key.ctxHbmUsed c, Key.ctxHbmPeak c, Key.ctxQuotaStallTicks c, Key.ctxFaultPending c, Key.ctxGenSequences c, Key.ctxSeqExcess c]

/-- Coded state starts over when its context becomes resident: the next group commit is the first, into a parity area of
zeros, and no generation is recorded or open (R319). -/
def State.codedResident (s : State) (c : Fin 4) : State :=
  if !s.hasCoded ∨ s.force Key.codedContext ≠ c.val then s
  else
    let s := s.forEach (List.range (s.reg Key.codedParityUnits)) (fun s u => s.modMem (fun m => m.setFrame (s.parityFrame u) []))
    let s := s.modCoded (fun x => { x with started := false, units := [], doneFrom := [], ownDone := false, owed := [] })
    let s := (s.setReg Key.codedRecordedGen none32).setReg Key.codedOpenGen none32
    if [1, 2, 3, 4, 5].contains (s.reg Key.codedState) then s.setReg Key.codedState 0 else s

/-- A context becomes resident: quota, placement, zeroing, state (R357). -/
def State.makeResident (s : State) (c : Fin 4) : State :=
  let q := s.quotaAsked c
  let s := s.forEach (residentKeys c) State.takeEffect
  let s := s.modAcc (fun a => { a with rwcBulk := a.rwcBulk.filter (fun x => x.1 != Key.exportTable c) })
  let s := s.modCtx c (fun x => { Ctx.reset with
    quota := q, helped := x.helped, mirrors := x.mirrors, mirrorNext := x.mirrorNext })
  let s := s.placeInitial c
  let s := s.forEach (residentZero c) (fun s k => s.setReg k 0)
  let s := { s with faultSeq := s.faultSeq.filter (fun x => x.1 != c.val) }
  let base := s.force (Key.completionBase c)
  let s := if base = 0 then s else s.modMem (fun m => { m with cells := cellClear m.cells base 65536 })
  let s := (s.codedResident c).takeExports c
  (s.setReg (Key.ctxState c) cxResident).noteHbm c

/-- The lowest refusal that applies to a request, 0 for none. -/
def State.requestStatus (s : State) (op : Nat) (c : Fin 4) : Nat :=
  let index := s.image.isSome && decide (s.contextsMax ≤ c.val)
  match op with
  | 1 =>
    if s.image.isNone ∨ s.mem.imageUnusable then 1
    else if index then 2
    else if s.cstate c ≠ cxAbsent then 3
    else if !s.ringsFit c then 4
    else if !s.quotaFits c then 5
    else if s.configHeld then 6 else 0
  | 2 =>
    if index then 2 else if s.mstate ≠ stRun ∨ !s.holds c then 3 else if s.configHeld then 6 else 0
  | _ => if index then 2 else if s.cstate c ≠ cxFaulted then 3 else 0

/-- CLEAR: the context is ABSENT and its fault record is gone (R361). -/
def State.clearCtx (s : State) (c : Fin 4) : State :=
  (((s.setReg (Key.ctxState c) cxAbsent).setReg (Key.ctxFaultCode c) 0).setReg (Key.ctxFaultCommand c) none32).setReg (Key.ctxFaultStep c)
    none32

/-- A context request is written: 1 RESIDENT, 2 RELEASE, 3 CLEAR (R356). -/
def State.ctxRequest (s : State) (op : Nat) (c : Fin 4) : State :=
  let st := s.requestStatus op c
  let s := s.setReg Key.ctxRequestStatus st
  if st ≠ 0 then s
  else match op with
    | 1 => s.makeResident c
    | 2 => s.beginTeardown c 0xFF none32
    | _ => s.clearCtx c

/-- A step number is written for a context that has issued nothing since it became resident (R369). -/
def State.setStep (s : State) (c : Fin 4) (v : Nat) : State :=
  if s.holds c ∧ (s.ctx c).issued = 0 then s.modCtx c (fun x => { x with step := v }) else s.setReg Key.ctxRequestStatus 3

/-- TEARDOWN_COMPLETE (R360, R353, R381): the records are written as space allows, what the context governed comes into force,
its checkpoint is abandoned, and it is FAULTED or ABSENT. -/
def execTeardownComplete (c : Fin 4) (s : State) : Host.Outcome State Fault Refusal :=
  .next (
    match (s.ctx c).teardown with
    | none => s
    | some code =>
      if s.cstate c ≠ cxTearing then s
      else
        let s := (s.flushRecords c (s.ctx c).records.length).applyCmt c
        let s := if s.ckptCtx = c.val then s.ckptDrop 2 else s
        let s := s.setReg (Key.ctxState c) (if code = 0xFF then cxAbsent else cxFaulted)
        s.modCtx c (fun x => { x with teardown := none }))

end Sys2Proof.Machine
end

