-- ==== Sys2Proof/Machine/Image.lean ====
section
/-! DEFINITION. Program images (spec/02, R18 to R22, and the load checks of every chapter): reading an image from its buffer, the
refusal that applies, putting it in force with its placement (R181, R190, R312, R357), unloading, and the meaning of
IMAGE_LOAD_END. The writes of IMAGE_LOAD are register writes: their rows stand with the dictionary and call what is here. -/
namespace Sys2Proof.Machine

/-! ### Reading an image -/

/-- A directory entry (R18). -/
structure Sect where
  type : Nat
  required : Bool
  off : Nat
  len : Nat
  crc : Nat
  deriving DecidableEq, Repr

/-- A little-endian field of the image in the buffer. -/
def State.img (s : State) (off n : Nat) : Nat := s.memNat (s.reg Key.imageBufferBase + off) n

/-- The header (R18). -/
def State.imgHeader (s : State) : Header :=
  { format := s.img 0x04 2, level := s.img 0x06 1, flags := s.img 0x07 1, length := s.img 0x08 8, contextsMax := s.img 0x12 1,
    partitionModules := s.img 0x14 4, unitMapDigest := s.img 0x18 8, arrivalCounters := s.img 0x28 2, copyDescs := s.img 0x2A 2,
    crewsDefined := s.img 0x2C 2, queues := s.img 0x2E 1, build := s.img 0x30 8 }

/-- The section directory. -/
def State.imgSections (s : State) : List Sect :=
  (List.range (s.img 0x10 2)).map (fun i =>
    let d := s.img 0x20 8 + 24 * i
    ⟨s.img d 2, bit (s.img (d + 2) 2) 0, s.img (d + 8) 8, s.img (d + 0x10) 4, s.img (d + 0x14) 4⟩)

/-- The first section of a type. -/
def sectOf (l : List Sect) (t : Nat) : Option Sect := l.find? (fun x => x.type == t)

/-- Records of `size` bytes of a section. -/
def sectRecords (x : Option Sect) (size : Nat) : List Nat :=
  match x with
  | none => []
  | some x => (List.range (x.len / size)).map (fun i => x.off + size * i)

/-- The parameter record of a command at offset `o` of the image, by kind (R127, R185, R260, R270). -/
def State.imgParam (s : State) (kind operation o : Nat) : Param :=
  match kind with
  | 1 => .block operation
  | 2 => .exchange
      { role := s.img o 1, hsFormat := s.img (o + 1) 1, layer := s.img (o + 2) 2, hs := s.img (o + 4) 4, out := s.img (o + 8) 4,
        residual := s.img (o + 0xC) 4, shared := s.img (o + 0x10) 4, pool := s.img (o + 0x14) 1, relay := s.img (o + 0x15) 1,
        counter := s.img (o + 0x16) 2, mirror := s.img (o + 0x18) 2, reserved := s.img (o + 0x1A) 2,
        domainRows := s.img (o + 0x1C) 4 }
  | 3 => .collective
      { op := s.img o 1, format := s.img (o + 1) 1, outFormat := s.img (o + 2) 1, inputsUsed := s.img (o + 3) 1,
        elements := s.img (o + 4) 4, root := s.img (o + 8) 2 }
  | 4 => .copy
      { op := s.img o 1, flags := s.img (o + 1) 1, count := s.img (o + 4) 4, remote := s.img (o + 8) 8,
        localOffset := s.img (o + 0x10) 8, length := s.img (o + 0x18) 8 }
  | 5 => .fetch { handle := s.img o 4, first := s.img (o + 4) 4, count := s.img (o + 8) 4, part := s.img (o + 0xC) 1 }
  | _ => .none

/-- Bytes of a parameter record. -/
def paramBytes : Nat → Nat
  | 2 => 32 | 3 => 16 | 4 => 32 | 5 => 16 | _ => 0

/-- A command table entry (R26); `base` is the offset of the section. -/
def State.imgCommand (s : State) (base o : Nat) : Command :=
  let kind := s.img o 1
  { kind := kind, flags := s.img (o + 1) 1, deadline := s.img (o + 2) 2, target := s.img (o + 4) 4,
    inputs := (List.range 6).map (fun i => s.img (o + 8 + 4 * i) 4), outputs := (List.range 6).map (fun i => s.img (o + 0x20 + 4 * i) 4),
    waits := (List.range 4).map (fun i => ⟨s.img (o + 0x38 + 8 * i) 2, s.img (o + 0x3C + 8 * i) 4⟩),
    signals := (List.range 4).map (fun i => ⟨s.img (o + 0x58 + 8 * i) 2, s.img (o + 0x5A + 8 * i) 2, s.img (o + 0x5C + 8 * i) 4⟩),
    param := s.imgParam kind (s.img (o + 0x78) 4) (base + s.img (o + 0x78) 4) }

/-- Offsets of the command table's entries in its section: the table ends where the first parameter record begins (log 72). -/
def State.imgTable (s : State) (base : Nat) : Nat → Nat → Nat → List Nat
  | 0, _, _ => []
  | fuel + 1, o, limit =>
    if limit < o + 128 then []
    else
      let kind := s.img (base + o) 1
      let p := s.img (base + o + 0x78) 4
      o :: State.imgTable s base fuel (o + 128) (if paramBytes kind = 0 then limit else min limit p)

/-- The fields of a command table entry at `o`, and of its parameter record at `p`, that are given as reserved and 0 (R26, R260,
R270). -/
def State.imgReserved (s : State) (kind o p : Nat) : Nat :=
  s.img (o + 0x7C) 4 + (if kind = 3 then s.img (p + 0xA) 2 + s.img (p + 0xC) 4 else if kind = 4 then s.img (p + 2) 2 else 0)

/-- The command table with, for each entry, whether its parameter record lies within the section and its reserved fields are 0. -/
def State.imgCommands (s : State) (x : Option Sect) : List (Command × Bool) :=
  match x with
  | none => []
  | some x => (s.imgTable x.off (x.len / 128) 0 x.len).map (fun o =>
      let c := s.imgCommand x.off (x.off + o)
      let p := s.img (x.off + o + 0x78) 4
      (c, decide (paramBytes c.kind = 0 ∨ p + paramBytes c.kind ≤ x.len) && s.imgReserved c.kind (x.off + o) (x.off + p) == 0))

/-- An object record (R170) and its reserved fields. -/
def State.imgObject (s : State) (o : Nat) : ObjRec × Nat :=
  ({ size := s.img o 8, role := s.img (o + 8) 1, protection := s.img (o + 9) 1, placement := s.img (o + 0xA) 1,
     ceiling := s.img (o + 0xB) 1, tiles := s.img (o + 0xC) 1, replicas := s.img (o + 0xD) 1, flags := s.img (o + 0xE) 2,
     layer := s.img (o + 0x10) 2, codec := s.img (o + 0x12) 1, expert := s.img (o + 0x14) 4 },
   s.img (o + 0x13) 1 + s.img (o + 0x18) 8)

/-- A crew header with its member list (R267, R268); `base` and `len` are of the section. The flag says the list lies in the
section and the reserved field is 0. -/
def State.imgCrew (s : State) (base len o : Nat) : Crew × Bool :=
  let n := s.img o 4
  let l := s.img (o + 4) 4
  let fits := decide (l + 4 * n ≤ len)
  ({ members := if fits then (List.range n).map (fun i => s.img (base + l + 4 * i) 4 % 2 ^ 18) else [],
     ds := s.img (o + 0x14) 1, dx := s.img (o + 8) 4, dy := s.img (o + 0xC) 4, dz := s.img (o + 0x10) 4,
     addressing := s.img (o + 0x15) 1, strokeTimeout := s.img (o + 0x16) 2, treeMax := s.img (o + 0x18) 4 },
   fits && l % 4 == 0 && decide (1 ≤ n ∧ n ≤ 65536) && s.img (o + 0x1C) 4 == 0)

/-- Crews of the image; `none` for a section whose header is malformed. -/
def State.imgCrews (s : State) (h : Header) (x : Option Sect) : Option (List (Crew × Bool)) :=
  match x with
  | none => some []
  | some x =>
    let n := s.img x.off 2
    let first := s.img (x.off + 4) 4
    if x.len < 16 ∨ n ≠ h.crewsDefined ∨ n < 1 ∨ 1024 < n ∨ x.len < first + 32 * n then none
    else some ((List.range n).map (fun i => s.imgCrew x.off x.len (x.off + first + 32 * i)))

/-- A routing layer record (R103) with its reserved fields. -/
def State.imgLayer (s : State) (o : Nat) : LayerRec × Nat :=
  ({ layer := s.img o 2, k := s.img (o + 2) 1, capMode := s.img (o + 3) 1, experts := s.img (o + 4) 4, capacity := s.img (o + 8) 4,
     crew := s.img (o + 0xC) 2, gating := s.img (o + 0xE) 1, scoreFn := s.img (o + 0xF) 1, renorm := s.img (o + 0x10) 1,
     shared := s.img (o + 0x11) 1, gateSource := s.img (o + 0x12) 1, routeScale := s.img (o + 0x14) 4, gate := s.img (o + 0x18) 4,
     bias := s.img (o + 0x1C) 4, logit := s.img (o + 0x20) 4, tagHandle := s.img (o + 0x24) 4, expertBase := s.img (o + 0x28) 4,
     localExperts := s.img (o + 0x2C) 4, dModel := s.img (o + 0x30) 4, lookahead := s.img (o + 0x34) 1, laRank := s.img (o + 0x36) 2,
     laP1 := s.img (o + 0x38) 4, laP2 := s.img (o + 0x3C) 4 },
   s.img (o + 0x13) 1 + s.img (o + 0x35) 1)

/-- A predictor record (R93) with its reserved field. -/
def State.imgPred (s : State) (o : Nat) : PredRec × Nat :=
  ({ layer := s.img o 2, mode := s.img (o + 2) 1, units := s.img (o + 3) 1, rank := s.img (o + 4) 2, actThreshold := s.img (o + 8) 4,
     scoreThreshold := s.img (o + 0xC) 4, p1 := s.img (o + 0x10) 4, p2 := s.img (o + 0x14) 4 }, s.img (o + 6) 2)

/-- Layer and predictor records; `none` for a section whose header or extents are malformed (R104). -/
def State.imgRouting (s : State) (x : Option Sect) : Option (List (LayerRec × Nat) × List (PredRec × Nat)) :=
  match x with
  | none => some ([], [])
  | some x =>
    let n := s.img x.off 2
    let m := s.img (x.off + 2) 2
    let lo := s.img (x.off + 4) 4
    let po := s.img (x.off + 8) 4
    if x.len < 16 ∨ n < 1 ∨ 512 < n ∨ 512 < m ∨ lo % 8 ≠ 0 ∨ po % 8 ≠ 0 ∨ s.img (x.off + 0xC) 4 ≠ 0 ∨ x.len < lo + 64 * n ∨
        x.len < po + 24 * m then none
    else some ((List.range n).map (fun i => s.imgLayer (x.off + lo + 64 * i)), (List.range m).map (fun i => s.imgPred (x.off + po + 24 * i)))

/-- An anchor record (R48). -/
def State.imgAnchor (s : State) (o : Nat) : Anchor := ⟨s.img o 4, toSigned 16 (s.img (o + 4) 2), s.img (o + 6) 1⟩

/-- The image as its sections give it. -/
def State.imgParse (s : State) (blocks : List Block) : Image :=
  let h := s.imgHeader
  let l := s.imgSections
  let r := (s.imgRouting (sectOf l 6)).getD ([], [])
  { header := h, commands := (s.imgCommands (sectOf l 2)).map Prod.fst,
    objects := (sectRecords (sectOf l 3) 32).map (fun o => (s.imgObject o).1),
    deadlines := (sectRecords (sectOf l 4) 8).map (fun o => (s.img o 4, s.img (o + 4) 4)),
    anchors := (sectRecords (sectOf l 7) 8).map s.imgAnchor,
    crews := ((s.imgCrews h (sectOf l 5)).getD []).map Prod.fst, layers := r.1.map Prod.fst, preds := r.2.map Prod.fst,
    blocks := blocks }

/-! ### Checks of the container (R18, R19, R21) -/

/-- "TBPI" as a little-endian word. -/
abbrev imageMagic : Nat := 0x49504254

/-- Condition of code 0x01. -/
def State.badHeader (s : State) : Bool :=
  let h := s.imgHeader
  let n := s.img 0x10 2
  let d := s.img 0x20 8
  s.img 0 4 != imageMagic || s.img 0x38 4 != crc32c (s.memBytes (s.reg Key.imageBufferBase) 0x38) || h.level == 0 ||
  decide (n < 1 ∨ 64 < n ∨ d % 8 ≠ 0 ∨ h.length < d + 24 * n) || s.imgSections.any (fun x => decide (h.length < x.off + x.len))

/-- Condition of code 0x06. -/
def State.badSectionCrc (s : State) : Bool :=
  s.imgSections.any (fun x => crc32c (s.memBytes (s.reg Key.imageBufferBase + x.off) x.len) != x.crc)

/-- A block runs the Routing Engine. -/
def Block.gates (b : Block) : Bool :=
  b.gateLayer.isSome || b.scheds.any (fun t => t.segs.any (fun g => g.sets.any (fun i => i.hub.any (fun o => match o with
    | .gate .. => true | .lookahead .. => true | _ => false))))

/-- Condition of code 0x08 (R19). -/
def sectionMissing (l : List Sect) (im : Image) : Bool :=
  let has (t : Nat) := (sectOf l t).isSome
  let crew := im.header.crewsDefined != 0 || im.commands.any (fun c => c.kind == 2 || c.kind == 3)
  let routed := im.commands.any (fun c => c.kind == 2) || im.objects.any ObjRec.isExpert || im.blocks.any Block.gates
  !(has 1 && has 2 && has 3 && has 4 && has 7) || (crew && !has 5) || (routed && !has 6) ||
  l.any (fun x => x.required && decide (x.type = 0 ∨ 8 < x.type)) ||
  [1, 2, 3, 4, 5, 6, 7].any (fun t => decide (1 < (l.filter (fun x => x.type == t)).length))

/-! ### Bounds (R172, R189, R246, R312) -/

/-- Objects the load counts on this module: record and how many times (R172). -/
def State.counted (s : State) (im : Image) : List (ObjRec × Nat) :=
  (im.objects.filter s.homed).map (fun o => (o, if o.perContext then im.header.contextsMax else 1))

/-- Most bytes the counted objects of some ceilings need. -/
def needOf (l : List (ObjRec × Nat)) (p : ObjRec → Bool) (f : ObjRec → Nat) : Nat :=
  (l.filter (fun x => p x.1)).foldl (fun n x => n + x.2 * f x.1) 0

/-- Own data units of the image and the units of its parity area, and the retention area (R310, R312). -/
def State.codedUnits (s : State) (im : Image) : Nat × Nat :=
  let d := (im.objects.filter (fun o => o.coded && s.homed o)).foldl (fun n o => n + o.tileCount) 0
  let others := s.coded.counts.filter (fun x => x.1 != s.groupIndex)
  (d, if im.objects.any ObjRec.coded then 2 * ((others.foldl (fun m x => max m x.2) d + 5) / 6) else 0)

/-- Bytes of the retention area in Reserve Memory. -/
def State.retentionBytes (s : State) (im : Image) : Nat :=
  let u := s.codedUnits im
  s.reg Key.codedRetainDepth * (u.1 + u.2) * frameBytes

/-- The usable bytes of the Local Flash Store (R146). -/
abbrev flashUsable : Nat := 15360000000000

/-- Frames of the coded areas in HBM: parity, unit table, delta staging (R312). -/
def State.codedAreaFrames (s : State) (im : Image) : List Nat :=
  let u := s.codedUnits im
  if im.objects.any ObjRec.coded then [u.2, tilesOf (16 * (u.1 + u.2)), 1024] else []

/-- HBM that the rings, the coded areas and the pools take (R189). -/
def State.areasNeeded (s : State) (im : Image) : Nat :=
  im.header.contextsMax * ringAreaBytes + (s.codedAreaFrames im).foldl (· + ·) 0 * frameBytes

/-- Bytes of all pools as written. -/
def State.poolBytes (s : State) : Nat :=
  (List.range 16).foldl (fun n p => n + s.reg (Key.poolCount p) * s.reg (Key.poolBufferSize p)) 0

/-- The pool configuration lies outside its bounds (R189). -/
def State.badPools (s : State) : Bool :=
  (List.range 16).any (fun p =>
    let z := s.reg (Key.poolBufferSize p)
    let n := s.reg (Key.poolCount p)
    !((List.range 11).any (fun k => z == 1024 * 2 ^ k)) || decide (262144 < n ∨ s.reg (Key.poolBackpressure p) < s.reg (Key.poolWarn p)) ||
    decide (n < (List.range 32).foldl (fun m o => if s.reg (Key.ownerPool o) = p then m + s.reg (Key.ownerReserved o) else m) 0)) ||
  decide (262144 < (List.range 16).foldl (fun n p => n + s.reg (Key.poolCount p)) 0)

/-- The tier capacities as reported with `keep` bytes of retention area: no Reserve capacity where the start skipped it, no flash
capacity while the Local Flash Store is not attached (R188, R312, R410). -/
def State.capacities (s : State) (keep : Nat) : Nat × Nat × Nat :=
  (0xC000000000 - s.reg Key.imageBufferSize - s.moveReserve - s.force Key.stageAreaSize,
   if bit (s.reg Key.startDegraded) 16 then 0 else reserveBytes - keep,
   if s.flashAttached then flashUsable - 2 * s.force Key.ckptSlotBytes else 0)

/-- Condition of code 0x09 except the placement of the pools; `s` finds its members in the new image. -/
def State.boundExceeded (s : State) (im : Image) : Bool :=
  let h := im.header
  let l := s.counted im
  let cap := s.capacities (s.retentionBytes im)
  let hot := cap.1
  let warm := cap.2.1
  let cold := cap.2.2
  let pinned := needOf l (fun o => o.placement == 0) ObjRec.hotSize
  let coded := (s.codedAreaFrames im).foldl (· + ·) 0 * frameBytes
  decide (h.contextsMax < 1 ∨ 4 < h.contextsMax ∨ h.queues < 1 ∨ 8 < h.queues ∨ 4096 < h.arrivalCounters * h.contextsMax ∨
    1024 < h.copyDescs ∨ hot < pinned + coded ∨
    hot < needOf l (fun o => decide (o.ceiling = 0)) ObjRec.lowMax ∨
    hot + warm < needOf l (fun o => decide (o.ceiling ≤ 1)) ObjRec.lowMax ∨
    hot + warm + cold < needOf l (fun _ => true) ObjRec.lowMax ∨
    hot < s.poolBytes + pinned + s.areasNeeded im ∨ reserveBytes < s.retentionBytes im) || s.badPools

/-! ### Budgets (R21) -/

/-- Condition of code 0x0A. -/
def budgetMissing (im : Image) : Bool :=
  im.commands.any (fun c => match im.deadlines[c.deadline]? with
    | none => true
    | some d => d.2 == 0 || (c.kind == 1 && d.1 == 0)) ||
  im.blocks.any (fun b => match im.deadlines[b.deadline]? with
    | none => true
    | some d => d.1 == 0)

/-! ### References (R21 and the chapters it names) -/

/-- A handle of the image, or none. -/
def Image.handleOk (im : Image) (h : Nat) : Bool := decide (h < im.objects.length)
def Image.handleOrNone (im : Image) (h : Nat) : Bool := h == none32 || im.handleOk h

/-- The anchor record of a handle. -/
def Image.anchor? (im : Image) (h : Nat) : Option Anchor := im.anchors.find? (fun a => a.handle == h)

/-- An accumulation site writes the handle: it needs an anchor record (R48). -/
def Image.anchored (im : Image) (h : Nat) : Bool := h == none32 || (im.anchor? h).isSome

/-- FP8, BF16 and other element bytes of `hs_format` codes (R127). -/
def hsBytes (f d : Nat) : Nat := if f ≤ 1 then d else if f = 2 then 2 * d else 4 * d

/-- A field of an EXCHANGE record lies outside its range, or what it names does not exist (R127, R191). -/
def State.badExchange (s : State) (im : Image) (c : Command) (e : ExchRec) : Bool :=
  match im.layers.find? (fun r => r.layer == e.layer) with
  | none => true
  | some lr =>
    let combine := e.role == 3
    let members := match im.crews[c.target]? with | some cr => cr.members.length | none => 0
    !(decide (1 ≤ e.role ∧ e.role ≤ 3 ∧ e.pool ≤ 15 ∧ e.reserved = 0)) ||
    !(if combine then e.hsFormat == 2 || e.hsFormat == 3 else decide (e.hsFormat ≤ 2)) ||
    !im.handleOk e.hs || !(if combine then im.handleOk e.out else e.out == none32) ||
    !im.handleOrNone e.residual || !im.handleOrNone e.shared ||
    !(if e.role = 1 then decide (e.relay ≤ 1 ∧ 1 ≤ e.domainRows ∧ e.domainRows ≤ 1048576) else e.relay == 0 && e.domainRows == 0) ||
    !decide (e.counter < im.header.arrivalCounters) ||
    (combine && !(e.mirror == 0xFFFF || decide (e.mirror < members))) ||
    (e.shared != none32 && ((im.anchor? e.shared).map Anchor.anchor).isNone) ||
    (e.shared != none32 && (im.anchor? e.shared).map Anchor.anchor != (im.anchor? e.out).map Anchor.anchor) ||
    (combine && !im.anchored e.out) ||
    s.reg (Key.poolCount e.pool) == 0 || decide (s.reg (Key.poolBufferSize e.pool) < hsBytes e.hsFormat lr.dModel) ||
    (!combine && decide ((match im.objects[lr.tagHandle]? with | some o => o.size / 8 | none => 0) <
      (match im.objects[e.hs]? with | some o => o.size / hsBytes e.hsFormat lr.dModel | none => 0)))

/-- A field of a COLLECTIVE record lies outside its range (R270, R48). -/
def badCollective (im : Image) (c : Command) (r : CollRec) : Bool :=
  let red := decide (r.op = 1 ∨ r.op = 2)
  let members := match im.crews[c.target]? with | some cr => cr.members.length | none => 0
  let out := c.outputs.headD none32
  !decide (1 ≤ r.op ∧ r.op ≤ 6) || !(if red then decide (r.format ≤ 4) else decide (r.format ≤ 5)) ||
  !(if red then decide (r.outFormat ≤ 2) else r.outFormat == r.format) ||
  !(if red then decide (1 ≤ r.inputsUsed ∧ r.inputsUsed ≤ 4) else if r.op = 6 then r.inputsUsed == 0 else r.inputsUsed == 1) ||
  (r.op == 6 && r.elements != 0) || !(if r.op = 4 then decide (r.root < members) else r.root == 0) ||
  (r.op == 5 && decide (4096 < members)) || (red && !((im.anchor? out).isSome)) ||
  (r.format == 0 && (c.inputs.take r.inputsUsed).any (fun i =>
    (im.anchor? i).map Anchor.anchor != (im.anchor? out).map Anchor.anchor))

/-- A field of a COPY record lies outside its range, or a signal it needs is missing; a remote address is one of 52 bits with bit 51
set (R146, R249, R260; DEDUCED, log 75). -/
def badCopy (c : Command) (r : CopyRec) : Bool :=
  let remote := c.signals.filter (fun g => g.counter != 0xFFFF && g.rank != 0xFFFF)
  !decide (1 ≤ r.op ∧ r.op ≤ 4) || !(if r.op = 4 then decide (1 ≤ r.count ∧ r.count ≤ 1024) else r.count == 0) ||
  !(if r.op = 4 then r.length == 0 else decide (1 ≤ r.length ∧ r.length ≤ 2 ^ 32)) ||
  !(if r.op = 2 ∨ r.op = 3 then r.remote / 2 ^ 51 == 1 else r.remote == 0) ||
  (r.op == 2 && !remote.any (fun g => g.rank == r.remote / 2 ^ 35 % 65536)) || (r.op == 4 && remote.isEmpty)

/-- A command refers to what the image does not declare (R21, R26, log 75). -/
def State.badCommand (s : State) (im : Image) (c : Command) : Bool :=
  !decide (1 ≤ c.kind ∧ c.kind ≤ 6) || !(c.inputs.all im.handleOrNone && c.outputs.all im.handleOrNone) ||
  c.waits.any (fun w => w.counter != 0xFFFF && decide (im.header.arrivalCounters ≤ w.counter)) ||
  c.signals.any (fun g => g.counter != 0xFFFF && decide (im.header.arrivalCounters ≤ g.counter)) ||
  match c.param with
  | .block i => decide (im.blocks.length ≤ i ∨ c.target % 16 = 0 ∨ 16 ≤ c.target)
  | .exchange e => decide (im.crews.length ≤ c.target) || s.badExchange im c e
  | .collective r => decide (im.crews.length ≤ c.target) || badCollective im c r
  | .copy r => badCopy c r
  | .fetch r => !im.handleOk r.handle
  | .none => false

/-- An object record lies outside its ranges (R155, R170, R225, R307). -/
def badObject (im : Image) (o : ObjRec) (reserved : Nat) : Bool :=
  !decide (1 ≤ o.size ∧ o.size ≤ 2 ^ 40 ∧ o.role ≤ 4 ∧ o.protection ≤ 1 ∧ o.placement ≤ 3 ∧ o.ceiling ≤ 2 ∧ o.replicas ≤ 15 ∧ o.codec ≤ 2 ∧
    reserved = 0) ||
  (decide (o.role = 2 ∨ o.role = 4) && o.ceiling != 0) || (o.coded && o.placement != 0) ||
  (if o.isExpert then
     o.role != 0 || !im.layers.any (fun r => r.layer == o.layer && decide (o.expert < r.experts)) ||
     decide (1 < (im.objects.filter (fun x => x.isExpert && x.layer == o.layer && x.expert == o.expert)).length)
   else o.replicas != 0 || o.layer != 0 || o.expert != 0) ||
  (o.role == 0 && o.perContext) || (o.quartered && o.size % 4096 != 0) ||
  (o.protection == 1 && decide (o.role = 0 ∨ o.role = 1 ∨ o.role = 3)) ||
  (o.coded && (!bit im.header.flags 0 || o.protection == 1 || o.perContext || decide (o.role = 2 ∨ o.role = 4)))

/-- A crew lies outside its ranges (R267). -/
def badCrew (im : Image) (x : Crew × Bool) : Bool :=
  let c := x.1
  !x.2 || !decide (1 ≤ c.dx ∧ c.dx ≤ 65536 ∧ 1 ≤ c.dy ∧ c.dy ≤ 65536 ∧ 1 ≤ c.dz ∧ c.dz ≤ 65536 ∧ 1 ≤ c.ds ∧ c.ds ≤ 16 ∧ c.addressing ≤ 1 ∧
    (c.strokeTimeout = 0 ∨ 1200 ≤ c.strokeTimeout) ∧ c.ds * c.dx * c.dy * c.dz = c.members.length) ||
  decide ((dedup (c.members.map (fun m => if c.addressing = 1 then m % 65536 else m))).length ≠ c.members.length) || (c.addressing == 0 && bit im.header.flags 0) ||
  (c.addressing == 0 && c.members.any (fun m => decide (65536 ≤ m)))

/-- A layer record lies outside its ranges (R103, R104, R48). -/
def badLayer (im : Image) (x : LayerRec × Nat) : Bool :=
  let r := x.1
  let last := im.layers.foldl (fun m y => max m y.layer) 0
  x.2 != 0 || !decide (r.layer ≤ 511 ∧ 1 ≤ r.k ∧ r.k ≤ 16 ∧ r.capMode ≤ 2 ∧ 1 ≤ r.experts ∧ r.experts ≤ 65536 ∧ r.crew < im.crews.length ∧
    r.gating ≤ 1 ∧ r.scoreFn ≤ 1 ∧ r.renorm ≤ 1 ∧ r.shared ≤ 4 ∧ r.gateSource ≤ 1 ∧ r.dModel % 128 = 0 ∧ 128 ≤ r.dModel ∧
    r.dModel ≤ 16384 ∧ r.lookahead ≤ 16 ∧ r.k ≤ r.experts ∧ r.expertBase + r.localExperts ≤ r.experts) ||
  (r.gating == 0 && (r.expertBase != 0 || r.localExperts != r.experts)) ||
  !(im.handleOk r.gate && im.handleOrNone r.bias && im.handleOk r.logit && im.handleOk r.tagHandle) || !((im.anchor? r.logit).isSome) ||
  (r.lookahead != 0 && (!decide (16 ≤ r.laRank ∧ r.laRank ≤ 128 ∧ r.laRank % 16 = 0) || !im.handleOk r.laP1 || !im.handleOk r.laP2 ||
    r.layer == last)) ||
  decide (1 < (im.layers.filter (fun y => y.layer == r.layer)).length)

/-- A predictor record lies outside its ranges (R93). -/
def badPred (im : Image) (x : PredRec × Nat) : Bool :=
  let p := x.1
  x.2 != 0 || !decide (p.mode ≤ 2 ∧ 1 ≤ p.units ∧ p.units ≤ 128 ∧ 16 ≤ p.rank ∧ p.rank ≤ 256 ∧ p.rank % 16 = 0) ||
  (p.mode != 0 && !(im.handleOk p.p1 && im.handleOk p.p2))

/-- Gate-row bytes that layers place in Hub SRAM (R104). -/
def gateSram (im : Image) : Nat :=
  (im.layers.filter (fun r => r.gateSource == 0)).foldl (fun n r => n + r.localExperts * r.dModel) 0

/-- Element formats an issue set names. -/
def setFmts (i : IssueSet) : List Fmt :=
  i.lanes.flatMap (fun x => [x.ownFmt, x.shFmt]) ++ i.drains.map Drain.fmt ++
  (match i.vec with
   | some v => match v.fn with
     | .convert a b => [a, b] | .reduceOut _ d => [d] | .pairPack f _ => [f] | .compact f _ _ _ => [f] | _ => []
   | none => []) ++
  i.hub.flatMap (fun o => match o with
    | .gate _ _ _ h g _ => [h, g] | .lookahead _ _ _ h p => [h, p] | _ => [])

/-- Places an issue set names. -/
def setPlaces (i : IssueSet) : List Place :=
  i.lanes.flatMap (fun x => (x.own.loc.map Loc.place).toList ++ (x.fill.map Loc.place).toList ++ [x.shared.place, x.target]) ++
  i.drains.map (fun d => d.dst.place) ++
  (match i.vec with | some v => (v.dst.toList ++ v.srcs.filterMap VecSrc.loc).map Loc.place | none => []) ++
  i.hub.flatMap (fun o => match o with
    | .gate _ h _ _ _ out => [h.place, out.place] | .lookahead _ h _ _ _ => [h.place]
    | .selectP _ l => [l.place] | .selectN _ l => [l.place] | .selectServed _ => [])

/-- Tensors whose accumulation an issue set writes (R48). -/
def setSites (i : IssueSet) : List Place :=
  i.lanes.map LaneIssue.target ++ i.drains.map (fun d => d.dst.place) ++
  (match i.vec with
   | some v => match v.fn with | .reduce .. => (v.dst.map Loc.place).toList | .reduceOut .. => (v.dst.map Loc.place).toList | _ => []
   | none => [])

/-- The shape exists (R68). -/
def shapeKnown (x : Nat) : Bool := [0x01, 0x02, 0x03, 0x04, 0x11, 0x12, 0x13, 0x14, 0x21, 0x24].contains x

/-- A shape with block-scaled FP4 belongs to N2 (R62, R68). -/
def shapeN2 (x : Nat) : Bool := [0x02, 0x03, 0x12, 0x13].contains x

/-- The sparse field is allowed with the shape (R83). -/
def sparseOk (shape sparse : Nat) : Bool :=
  match sparse / 16 with
  | 0 => true
  | 1 => [0x01, 0x04, 0x11, 0x12, 0x14, 0x21, 0x24].contains shape && decide (sparse % 16 ≤ 7)
  | 2 => [0x01, 0x04, 0x11, 0x14, 0x21, 0x24].contains shape
  | _ => false

/-- Issue sets of a block. -/
def blockSets (b : Block) : List IssueSet := b.scheds.flatMap (fun t => t.segs.flatMap Segment.sets)

/-- Segments of a block. -/
def blockSegments (b : Block) : List Segment := b.scheds.flatMap TileSched.segs

/-- Handles that the sites of a block write when a command of the table runs it. -/
def siteHandles (b : Block) (c : Command) : List Nat :=
  ((blockSets b).flatMap setSites).filterMap (fun p => match p with
    | .output i => c.outputs[i]?
    | .input i => c.inputs[i]?
    | .handle h => some h
    | _ => none)

/-- A block uses what the image does not declare, or what its level lacks (R21, R48, R62, R68, R83, R104). -/
def badBlock (im : Image) (i : Nat) (b : Block) : Bool :=
  let n1 := im.header.level == 1
  (blockSets b).any (fun x =>
    x.lanes.any (fun l => !shapeKnown l.shape || (n1 && shapeN2 l.shape) || !sparseOk l.shape l.sparse) ||
    (n1 && (setFmts x).contains Fmt.fp4) ||
    (setPlaces x).any (fun p => match p with
      | .handle h => !im.handleOk h | .input j => decide (6 ≤ j) | .output j => decide (6 ≤ j) | _ => false) ||
    x.hub.any (fun o => match o with
      | .gate l _ rows _ _ _ => (match im.layers.find? (fun r => r.layer == l) with
          | none => true
          | some r => decide ((match im.objects[r.tagHandle]? with | some t => t.size / 8 | none => 0) < rows))
      | .lookahead l .. => !im.layers.any (fun r => r.layer == l)
      | _ => false)) ||
  (blockSegments b).any (fun g => match g.wait with
    | some (.counter c _) => decide (im.header.arrivalCounters ≤ c)
    | some (.fetch h) => !im.handleOk h
    | _ => false) ||
  im.commands.any (fun c => match c.param with
    | .block j => j == i && !(siteHandles b c).all im.anchored
    | _ => false)

/-- Condition of code 0x0B. An anchor record of mode BF16_FAST makes an image use an N2 operation by itself, whatever command writes the
tensor (R62; DESIGN CHOICE, log 136). -/
def State.badReference (s : State) (im : Image) : Bool :=
  let l := s.imgSections
  let whole (t n : Nat) := match sectOf l t with | some x => x.len % n == 0 | none => true
  !(whole 3 32 && whole 4 8 && whole 7 8) || (s.imgCommands (sectOf l 2)).any (fun x => !x.2) ||
  (s.imgCrews im.header (sectOf l 5)).isNone || (s.imgRouting (sectOf l 6)).isNone ||
  im.commands.any (s.badCommand im) ||
  (sectRecords (sectOf l 3) 32).any (fun o => badObject im (s.imgObject o).1 (s.imgObject o).2) ||
  (sectRecords (sectOf l 7) 8).any (fun o => s.img (o + 7) 1 != 0) ||
  im.anchors.any (fun a => decide (3 < a.mode) || !im.handleOk a.handle || (im.header.level == 1 && a.mode == 3) ||
    decide (1 < (im.anchors.filter (fun b => b.handle == a.handle)).length)) ||
  ((s.imgCrews im.header (sectOf l 5)).getD []).any (badCrew im) ||
  (((s.imgRouting (sectOf l 6)).getD ([], [])).1).any (badLayer im) || (((s.imgRouting (sectOf l 6)).getD ([], [])).2).any (badPred im) ||
  decide (s.reg Key.gateSramLimit < gateSram im) || ((List.range im.blocks.length).zip im.blocks).any (fun x => badBlock im x.1 x.2)

/-! ### Putting an image in force -/

/-- Release everything the image held: objects, areas, pools, plans, exports, retained commits (R21, R251, R282). -/
def State.dropImage (s : State) : State :=
  let s := s.closeAllInstances
  let s := match s.image with
    | some im => s.forEach (List.range im.crews.length) (fun s i => (s.setReg (Key.crewSelfIndex i) none32).setReg (Key.crewInstance i) 0)
    | none => s
  let s := (s.setReg Key.routedLayers 0).setReg Key.crewsDefined 0
  let s := match s.image with
    | some im => s.forEach (List.range im.layers.length) (fun s i => s.setReg (Key.capModeResolved i) 0)
    | none => s
  let s := s.modMem (fun m => { m with
    cells := m.extents.foldl (fun cs e => cellClear cs (e.first * frameBytes) (e.count * frameBytes)) m.cells,
    poison := m.poison.filter (fun a => !m.extents.any (fun e => decide (e.first ≤ a / frameBytes ∧ a / frameBytes < e.first + e.count))),
    extents := [], objects := [], moves := [], plans := [], far := [], grants := [], stagings := [] })
  let s := s.modPools (fun _ => { bufs := [], waits := [], disarmed := [], sizes := [], counts := [] })
  let s := s.forEach allCtx (fun s c => (s.setReg (Key.ctxRingBase c) 0).modCtx c (fun x => { x with exports := [], helped := [] }))
  let s := s.forEach (List.range 16) (fun s p => (s.setReg (Key.poolBase p) 0).setReg (Key.poolAllocated p) 0)
  let s := (((s.setReg Key.poolAreaBytes 0).setReg Key.poolBuffersTotal 0).setReg Key.gateSramUsed 0).setReg Key.pinnedBytes 0
  let s := s.modCoded (fun c => { c with units := [], staging := [], started := false, parityBase := 0, decodes := [], supplies := [] })
  let s := (s.setReg Key.codedParityUnits 0).setReg Key.codedDataUnits 0
  let s := (s.setReg Key.codedRecordedGen none32).setReg Key.codedOpenGen none32
  let s := if [1, 2, 3, 4, 5, 7].contains (s.reg Key.codedState) then s.setReg Key.codedState 0 else s
  { s with image := none }.noteTiers

/-- Entries whose writes take effect at an image load (R23, R116, R202, R354). -/
def loadKey (k : Nat) : Bool :=
  let i := k / 256
  decide ((0x9100 ≤ i ∧ i ≤ 0x910F) ∨ i = 0x9120 ∨ (0x9200 ≤ i ∧ i ≤ 0x921F) ∨ (0x8100 ≤ i ∧ i ≤ 0x8120) ∨ k = Key.imageLength ∨ k = Key.crewSelfRank ∨
    k = Key.repechageDomainMax)

/-- Report the tier capacities (R188). -/
def State.noteCapacity (s : State) : State :=
  let cap := s.capacities (match s.image with | some im => s.retentionBytes im | none => 0)
  ((s.setReg Key.hotCapacity cap.1).setReg Key.warmCapacity cap.2.1).setReg Key.coldCapacity cap.2.2

/-- Take `n` frames in a row for an area, on the lowest stack that has them; answers the first frame (log 73). -/
def State.takeArea (s : State) (n : Nat) (h : Holder) : Option (Nat × State) :=
  match (List.range 8).findSome? (fun st => s.mem.stretch st n) with
  | none => none
  | some f => some (f, s.modMem (fun m => { m with
      extents := extentInsert m.extents ⟨f, n, 0, h⟩, cells := cellClear m.cells (f * frameBytes) (n * frameBytes) }))

/-- The ring areas of the contexts (R357). -/
def State.placeRings (s : State) (n : Nat) : State :=
  s.forEach (List.range n) (fun s c => match s.takeArea 1024 (.ring c) with
    | some r => r.2.setReg (Key.ctxRingBase c) (r.1 * frameBytes)
    | none => s)

/-- The HBM areas of coded state: parity, unit table, delta staging (R312). -/
def State.placeCoded (s : State) (im : Image) : State :=
  if !im.objects.any ObjRec.coded then s
  else
    let s := (s.modCoded (fun c => { c with counts := c.counts.filter (fun x => x.1 != s.groupIndex) })).ensureParity
    let u := s.codedUnits im
    let s := match s.takeArea (tilesOf (16 * (u.1 + u.2))) (.coded 1) with | some r => r.2 | none => s
    match s.takeArea 1024 (.coded 2) with | some r => r.2 | none => s

/-- Stacks a pool tries: its own, then the others in order of most free frames, the lower index winning a tie (R190). -/
def State.poolStacks (s : State) (p : Nat) : List Nat :=
  p % 8 :: sortBy (fun a b => decide (s.mem.freeOn b < s.mem.freeOn a) || (s.mem.freeOn a == s.mem.freeOn b && decide (a ≤ b)))
    ((List.range 8).filter (· != p % 8))

/-- Place the pools in ascending number (R190); the flag is false when one finds no stretch. -/
def State.placePools (s : State) : State × Bool :=
  let sizes := (List.range 16).map (fun p => s.force (Key.poolBufferSize p))
  let counts := (List.range 16).map (fun p => s.force (Key.poolCount p))
  let s := s.modPools (fun _ => { bufs := [], waits := [], disarmed := [], sizes := sizes, counts := counts })
  let r := (List.range 16).foldl (fun (a : State × Bool) p =>
    let s := a.1
    let n := tilesOf (s.poolCount p * s.poolSize p)
    if n = 0 then a
    else match (s.poolStacks p).findSome? (fun st => s.mem.stretch st n) with
      | none => (s, false)
      | some f => ((s.modMem (fun m => { m with
          extents := extentInsert m.extents ⟨f, n, 0, .pool p⟩, cells := cellClear m.cells (f * frameBytes) (n * frameBytes) })).setReg
          (Key.poolBase p) (f * frameBytes), a.2)) (s, true)
  let s := r.1
  ((s.setReg Key.poolAreaBytes ((sizes.zip counts).foldl (fun n x => n + x.1 * x.2) 0)).setReg Key.poolBuffersTotal (counts.foldl (· + ·) 0),
   r.2)

/-- Counters of pools and owners that an image load sets to zero (R202). -/
def poolCounters : List Nat :=
  (List.range 16).flatMap (fun p => [Key.poolAllocated p, Key.poolPeak p, Key.poolStallTicks p, Key.poolWarnCount p, Key.poolBpCount p,
    Key.poolDoubleFreeCount p]) ++
  (List.range 32).flatMap (fun o => [Key.ownerHeld o, Key.ownerPeak o, Key.ownerStalls o])

/-- `CAP_MODE_RESOLVED` of a layer (R116): 3 for a layer without a capacity. -/
def State.capResolved (s : State) (im : Image) (r : LayerRec) : Nat :=
  let members := match im.crews[r.crew]? with | some c => c.members.length | none => 0
  if r.capacity = 0 then 3 else if r.capMode ≠ 0 then r.capMode else if members ≤ s.force Key.repechageDomainMax then 1 else 2

/-- The module as a load finds it before any object is placed: the old image gone, the entries written for the load in force, its
own place in the new image's crews found. -/
def State.beforeLoad (s : State) (im : Image) : State :=
  let s := s.dropImage.modAcc (fun a => { a with rwc := a.rwc.filter (fun x => !loadKey x.1) })
  { s with image := some im }.findSelves

/-- The image replaces the one in force: its tables, its members, its areas in the order of R190 and its objects (R181); the flag
says the pools found their place. -/
def State.installImage (s : State) (im : Image) : State × Bool :=
  let s := (s.beforeLoad im).noteCapacity
  let s := s.forEach ((List.range im.layers.length).zip im.layers) (fun s x => s.setReg (Key.capModeResolved x.1) (s.capResolved im x.2))
  let s := ((s.setReg Key.gateSramUsed (gateSram im)).setReg Key.routedLayers im.layers.length).setReg Key.crewsDefined im.crews.length
  let s := s.forEach poolCounters (fun s k => s.setReg k 0)
  let s := ((s.placePinned 4).placeRings im.header.contextsMax).placeCoded im
  let r := s.placePools
  let s := (r.1.noteCapacity.placeRest 4).modMem (fun m => { m with imageUnusable := false })
  (s, r.2)

/-- An image comes into force and is reported (R21, R22). -/
def State.reportImage (s : State) (im : Image) : State :=
  let s := s.setBulk Key.imageDigest 0 ((sha384 (s.memBytes (s.reg Key.imageBufferBase) im.header.length)).take 48)
  (s.setReg Key.imageFormatInUse im.header.format).setReg Key.numericsLevelInUse im.header.level

/-- Code of a load and the state it leaves: the lowest refusal that applies, or the image in force (R21). -/
def State.loadImage (s : State) (blocks : List Block) : Nat × State :=
  let h := s.imgHeader
  let own := s.reg Key.imageFormatVersion
  if s.badHeader then (1, s)
  else if h.format / 256 ≠ own / 256 then (2, s)
  else if own % 256 < h.format % 256 then (3, s)
  else if s.reg Key.numericsLevelInForce < h.level then (4, s)
  else if h.length ≠ s.reg Key.imageLength ∨ s.reg Key.imageBufferSize < h.length then (5, s)
  else if s.badSectionCrc then (6, s)
  else
    let im := s.imgParse blocks
    let probe := s.beforeLoad im
    if sectionMissing s.imgSections im then (8, s)
    else if probe.boundExceeded im then (9, s)
    else
      let r := s.installImage im
      if !r.2 then (9, s)
      else if budgetMissing im then (0x0A, s)
      else if s.badReference im then (0x0B, s)
      else
        ((if h.unitMapDigest ≠ 0 ∧ h.unitMapDigest ≠ s.reg Key.unitMapDigest then 0x80 else 0), r.1.reportImage im)

/-- An accepted unload (R21). -/
def State.unloadImage (s : State) : State :=
  match s.image with
  | none => s
  | some _ =>
    let s := s.dropImage.setBulk Key.imageDigest 0 (List.replicate 48 0)
    (((s.setReg Key.imageFormatInUse 0).setReg Key.numericsLevelInUse 0).modMem (fun m => { m with imageUnusable := false })).noteCapacity

/-- An attempt ends: its code is written and logged (R21). -/
def State.endLoad (s : State) : State :=
  match s.loading with
  | none => s
  | some code =>
    ({ s with loading := none }.setReg Key.imageStatus code).log (if code = 0 ∨ code = 0x81 then sevInfo else sevWarning) noCtx 0x01 none32
      Key.imageStatus code

/-- A write of `IMAGE_LOAD`: 1 load, 2 unload; other values of the entry mean nothing. Outside CONFIG, or while a context
holds its resources (log 74), it is ignored and reports STATE at once (R20). -/
def State.imageRequest (s : State) (op : Nat) : State :=
  let s := s.endLoad
  if s.mstate ≠ stConfig ∨ allCtx.any (fun c => s.holds c || s.cstate c == cxTearing) then { s with loading := some 7 }.endLoad
  else if op = 1 then
    let r := s.loadImage s.bufBlocks
    { r.2 with loading := some r.1 }
  else { s.unloadImage with loading := some 0x81 }

/-- IMAGE_LOAD_END (R21): the attempt ends and its code is reported. -/
def execImageLoadEnd (dt : Nat) (s : State) : Host.Outcome State Fault Refusal := .next (s.advance dt).endLoad

end Sys2Proof.Machine
end

