-- ==== Sys2Proof/Machine/DictAccess.lean ====
section
/-! DEFINITION. The Object Dictionary at work (spec/19, R372 to R391): what reads return, the checks and the effects of writes,
the transitions between CONFIG and RUN, the bulk aperture, the register window of PF0, the configuration CRC, and the rows
that are accesses of the register window. -/
namespace Sys2Proof.Machine

/-! ### Entries (R372, R422) -/

/-- The row of sub-index 0x00 of a defined index. -/
def subZero : DictEntry := ⟨0, 0, 0, 0, .u8, 1, .ro, .val 0, 0, 255⟩

/-- The entry a key names. -/
def dictEntry? (k : Nat) : Option DictEntry :=
  if k % 256 = 0 then (if dictCount (k / 256) = 0 then none else some subZero) else dictFind k

/-- The module is held in SAFE state by a failure of ST0, with only the ROM-loaded stage running (R422). -/
def State.romStage (s : State) : Bool := s.started && s.mstate == stSafe && s.reg Key.startSafeStage == 0

/-- Indices the ROM-loaded stage answers for (R422). -/
def romServed (k : Nat) : Bool :=
  [0x1000, 0x1002, 0x1004, 0x1100, 0x1110, 0xA000, 0xA010, 0xA020, 0xA100, 0x1F10].contains (k / 256)

/-- The entry an access names, as the firmware that runs defines it. -/
def State.entry? (s : State) (k : Nat) : Option DictEntry := if s.romStage && !romServed k then none else dictEntry? k

/-! ### Records of the tables that are views of other state (R165, R211, R219, R296, R367, R403, R411, R423) -/

/-- An event record. -/
def Event.bytes (e : Event) : List Byte :=
  leBytes 4 e.seq ++ leBytes 1 e.code ++ leBytes 1 e.severity ++ leBytes 1 e.context ++ leBytes 1 e.source ++ leBytes 8 e.tick ++
  leBytes 4 e.step ++ leBytes 4 e.command ++ leBytes 4 e.entry ++ leBytes 4 e.value

/-- A memory error record. -/
def MemError.bytes (e : MemError) : List Byte :=
  leBytes 8 e.address ++ leBytes 8 e.tick ++ leBytes 4 e.step ++ leBytes 1 e.kind ++ leBytes 1 e.reader ++ leBytes 1 e.context ++
  leBytes 1 e.symbol ++ leBytes 2 e.channel ++ leBytes 2 0 ++ leBytes 4 e.eventSeq

/-- A time pair record. -/
def TimePair.bytes (p : TimePair) : List Byte :=
  leBytes 8 p.ticks ++ leBytes 2 p.fraction ++ leBytes 1 p.kind ++ leBytes 1 p.flags ++ leBytes 4 p.seq ++ leBytes 8 p.hostTime ++
  leBytes 8 0

/-- A start log record. -/
def StartRec.bytes (r : StartRec) : List Byte :=
  leBytes 4 r.start ++ leBytes 1 r.kind ++ leBytes 1 r.stage ++ leBytes 1 r.item ++ leBytes 1 r.fallback ++ leBytes 1 r.reason ++
  leBytes 3 0 ++ leBytes 4 r.elapsed ++ leBytes 8 r.detail ++ leBytes 4 r.bundle ++ leBytes 4 0

/-- `n` bytes: those given, then `d`. -/
def padTo (n : Nat) (d : Byte) (l : List Byte) : List Byte := (l ++ List.replicate n d).take n

/-- A log ring of `n` records of `size` bytes from its records, newest first; the newest lies in slot (head − 1) mod n. -/
def ringBytes (n size head : Nat) (newest : List (List Byte)) : List Byte :=
  (List.range n).flatMap (fun i => padTo size 0 (newest.getD ((head + n * n - 1 - i) % n) []))

/-- The event log ring: sequence number q lies in slot (q − 1) mod 4,096 (R367, R403, log 77). -/
def State.eventBytes (s : State) : List Byte :=
  (List.range 4096).flatMap (fun i => match s.events.find? (fun e => (e.seq - 1) % 4096 == i) with
    | some e => e.bytes
    | none => List.replicate 32 0)

/-- Words of a table that fills from record 0; a record not in use reads all ones (R403). -/
def wordTable (n : Nat) (l : List Nat) : List Byte := padTo (4 * n) 0xFF (l.flatMap (leBytes 4))

/-- Tags in force on a port. -/
def State.tagBytes (s : State) (p : Fin 16) : List Byte :=
  padTo 36 0 (((s.port p).tags.filter (fun t => t.ingress || t.egress)).flatMap (fun t =>
    leBytes 4 (t.tag * 65536 + (if t.egress then 2 else 0) + (if t.ingress then 1 else 0))))

/-- Results of the BIST slices; a slice not run reads 0xFF. -/
def State.bistBytes (s : State) : List Byte :=
  (List.range 10).flatMap (fun i => match s.start.bist.find? (fun b => b.1 == i) with
    | some b => leBytes 8 b.2.1 ++ leBytes 4 b.2.2.1 ++ leBytes 1 b.2.2.2 ++ leBytes 3 0
    | none => leBytes 8 0 ++ leBytes 4 0 ++ leBytes 1 0xFF ++ leBytes 3 0)

/-- The bytes of a table that is a view of other state. -/
def State.view (s : State) (k : Nat) : Option (List Byte) :=
  if k = Key.eventLog then some s.eventBytes
  else if k = Key.memErrorLog then some (ringBytes 64 32 (s.reg Key.memErrorLogHead) (s.mem.errors.map MemError.bytes))
  else if k = Key.timePairs then some (ringBytes 16 32 (s.reg Key.timePairsHead) (s.time.pairs.map TimePair.bytes))
  else if k = Key.startLog then some (ringBytes 64 32 (s.reg Key.startLogHead) (s.start.log.map StartRec.bytes))
  else if k = Key.startFallback then some (s.start.fallback.flatMap (leBytes 1))
  else if k = Key.bistResult then some s.bistBytes
  else if k = Key.niFailedAddresses then some (wordTable 256 (s.fab.failed.map wordOfAddr))
  else if k = Key.hbWatchSet then some (wordTable 16 (s.fab.watch.map wordOfAddr))
  else if k = Key.ringState then some (s.fab.ringState.flatMap (leBytes 4))
  else (allPorts.find? (fun (p : Fin 16) => k == Key.portTagsInForce p)).map s.tagBytes

/-! ### Reads (R374, R381) -/

/-- `CMT_PENDING` (R381). -/
def State.cmtMask (s : State) : Nat :=
  allCtx.foldl (fun n c =>
    let b := match s.acc.cmtBlob with | some b => b.1 == c.val | none => false
    if s.acc.cmt.any (fun x => x.2.2 == c.val) || b then n + 2 ^ c.val else n) 0

/-- Watts that the 1 ms average of the input power does not pass: the TDP, a cap in force for 1 ms, and what R17 lets it rise by since
it was last known, 2.5 kW/ms or a watt in 40 ticks (R16, R17, R409; log 85). -/
def State.powerBound (s : State) : Nat :=
  let cap := if s.power.capSince + ms1 ≤ s.now then s.reg Key.powerCapInForce else 1800
  min (min 1800 cap) (s.power.drawn.2 + (s.now - s.power.drawn.1 + 39) / 40)

/-- `INPUT_POWER` as measured now (log 85). -/
def State.inputPower (s : State) : Nat := Config.freeValue 71 s.now % (s.powerBound + 1)

/-- The value a read of a scalar entry returns (log 85 on the measured ones). -/
def State.readScalar (s : State) (k : Nat) (e : DictEntry) : Nat :=
  if k % 256 = 0 then dictCount (k / 256)
  else if e.access = .wo then 0
  else if k = Key.gcValue then s.tick
  else if k = Key.inputPower then s.inputPower
  else if k = Key.energy then Config.freeValue 72 s.now % 2 ^ 64
  else if k = Key.powerThrottleTicks then Config.freeValue 73 s.now % 2 ^ 64
  else if k = Key.configCrcRef then s.crcReference
  else if k = Key.rebuildRate then s.rebuildRateNow % 2 ^ 32
  else if k = Key.niOutstanding then s.fab.txns.length
  else if k = Key.dxpSessions then s.acc.sessions.length
  else if k = Key.cmtPending then s.cmtMask
  else if k = Key.eventUnread then s.eventUnread
  else if k = Key.moduleFaultSeq then s.faultSeqOf 4
  else if let some p := (List.range 16).find? (fun p => k == Key.poolStallTicks p) then s.poolStallRead p % 2 ^ 64
  else match allCtx.find? (fun (c : Fin 4) => k == Key.ctxStep c || k == Key.ctxFaultSeq c) with
    | some c => if k = Key.ctxStep c then (s.ctx c).step % 2 ^ 32 else s.faultSeqOf c
    | none => s.reg k

/-- The bytes of an entry as a read returns them. -/
def State.readBytes (s : State) (k : Nat) (e : DictEntry) : List Byte :=
  if e.type.scalar then leBytes e.bytes (s.readScalar k e)
  else if e.access = .wo then List.replicate e.bytes 0
  else match s.view k with
    | some l => padTo e.bytes 0 l
    | none => s.bulkBytes k 0 e.bytes

/-- What a read of an entry leaves: a read of `GC_VALUE` latches the fraction (R290); from a value of `INPUT_POWER` that has been read, the
draw rises at the rate of R17. -/
def State.noteRead (s : State) (k : Nat) : State :=
  if k = Key.gcValue then s.gcLatch
  else if k = Key.inputPower then s.modPower (fun p => { p with drawn := (s.now, s.inputPower) })
  else s

/-! ### Checks of writes (R372, R374, R375, R383) -/

/-- Status codes of R375. -/
abbrev stOk : Nat := 0
abbrev stNoEntry : Nat := 1
abbrev stAccess : Nat := 2
abbrev stState : Nat := 3
abbrev stRange : Nat := 4
abbrev stSize : Nat := 5
abbrev stChanged : Nat := 6
abbrev stNotWriter : Nat := 7
abbrev stSession : Nat := 8
abbrev stVersion : Nat := 9
abbrev stAborted : Nat := 10

/-- A refused write is counted and named (R375). -/
def State.refuse (s : State) (k code : Nat) : State :=
  (s.bump Key.writeRefusedCount 1).setReg Key.writeLastRefused (k * 256 + code)

/-- The module state, or a rule of the entry, permits a write now (R357, R374, R379, R398, R412, R422, R428). -/
def State.writeAllowed (s : State) (k : Nat) (e : DictEntry) : Bool :=
  if k = Key.compatLevel then s.start.stage != some 0
  else if !s.started || !(s.mstate == stConfig || s.mstate == stRun) then false
  else if e.access = .rwc then
    s.mstate == stConfig &&
      !allCtx.any (fun c => (residentKeys c).contains k && !(s.cstate c == cxAbsent || s.cstate c == cxFaulted))
  else if k = Key.startFallbackReset then s.mstate == stConfig
  else true

/-- A power of two. -/
def isPow2 (n : Nat) : Bool := (List.range 33).any (fun i => n == 2 ^ i)

/-- Roles a port may take (R203). -/
def portRoles (p : Nat) : List Nat :=
  if p ≤ 6 then [0, 5] else if p = 7 then [2, 5] else if p ≤ 13 then [1, 5] else if p = 14 then [2, 3, 5] else [2, 4, 5]

/-- The value of a scalar entry lies in its range (R372). -/
def State.inRange (s : State) (k : Nat) (e : DictEntry) (v : Nat) : Bool :=
  let i := k / 256
  decide (v < 256 ^ e.bytes ∧ e.lo ≤ v ∧ v ≤ e.hi) &&
  (if 0x9030 ≤ i ∧ i ≤ 0x9033 then
     (if k % 256 = 9 then isPow2 v else if k % 256 = 12 then decide (v ≤ s.reg (Key.completionHead (i - 0x9030))) else true)
   else if 0x9050 ≤ i ∧ i ≤ 0x9053 ∧ k % 256 = 2 then isPow2 v
   else if 0x9100 ≤ i ∧ i ≤ 0x910F then
     (if k % 256 = 1 then isPow2 v else if k % 256 = 4 then decide (s.reg (Key.poolWarn (i - 0x9100)) ≤ v) else true)
   else if 0x6100 ≤ i ∧ i ≤ 0x610F then
     (if k % 256 = 1 then (portRoles (i - 0x6100)).contains v else if k % 256 = 3 then [64, 128, 256].contains v else true)
   else if k = Key.ckptSlotBytes then v % 0x100000 == 0
   else if k = Key.partitionRequest then decide (v ≤ 0xFFE)
   else if k = Key.ctxRequest then decide (1 ≤ v / 256 ∧ v / 256 ≤ 3 ∧ v % 256 < 4)
   else if k = Key.compatLevel then decide (v ≤ s.reg Key.compatLevelMax)
   else true)

/-- Code of a write of a scalar entry: 0 when it is accepted (log 76). -/
def State.checkScalar (s : State) (k v : Nat) : Nat :=
  match (if k = Key.compatLevel then dictEntry? k else s.entry? k) with
  | none => stNoEntry
  | some e =>
    if e.access = .ro then stAccess
    else if !s.writeAllowed k e then stState
    else if !e.type.scalar then stSize
    else if !s.inRange k e v then stRange
    else stOk

/-- The bytes of a STR, BLOB or TABLE entry lie in its range (R218, R233, R234, R254, R348, R400). -/
def State.bulkInRange (s : State) (k : Nat) (bs : List Byte) : Bool :=
  let f (a n : Nat) := leNat ((bs.drop a).take n)
  if k = Key.frBufferAlloc then
    decide (34 ≤ f 2 1 ∧ 34 ≤ f 4 1 ∧ 34 ≤ f 6 1 ∧ 34 ≤ f 8 1 ∧ 2 ≤ f 0 1 ∧ (List.range 16).foldl (fun n i => n + f i 1) 0 ≤ 768)
  else if k = Key.frTcWeight then (List.range 4).all (fun i => decide (1 ≤ f i 1 ∧ f i 1 ≤ 16))
  else if k = Key.dxpAllow then (List.range 8).all (fun i => decide (f (17 * i + 16) 1 ≤ 128))
  else if k = Key.ckptXferDesc then xferWellFormed s.slotBytes bs
  else if allPorts.any (fun (p : Fin 16) => k == Key.portTransitTags p) then (List.range 8).all (fun i => decide (f (2 * i) 2 ≤ 0xFFF))
  else if allCtx.any (fun (c : Fin 4) => k == Key.mfWindowTable c) then (List.range 64).all (fun i => decide (f (24 * i + 8) 8 < 2 ^ 35))
  else true

/-- Code of a write of a STR, BLOB or TABLE entry as far as right and state go. -/
def State.checkBulkRight (s : State) (k : Nat) : Nat :=
  match s.entry? k with
  | none => stNoEntry
  | some e => if e.access = .ro then stAccess else if !s.writeAllowed k e then stState else if e.type.scalar then stSize else stOk

/-- Code of a write of a whole STR, BLOB or TABLE value. -/
def State.checkBulk (s : State) (k : Nat) (bs : List Byte) : Nat :=
  let c := s.checkBulkRight k
  if c ≠ stOk then c
  else match s.entry? k with
    | some e => if bs.length ≠ e.bytes then stSize else if !s.bulkInRange k bs then stRange else stOk
    | none => stNoEntry

/-! ### Transitions between CONFIG and RUN (R378 to R380) -/

/-- RWC entries whose own rule names a later moment than the transition to RUN (R23, R116, R202, R203, R251, R268, R337, R354,
R357). -/
def laterKey (k : Nat) : Bool :=
  loadKey k || codedJoinKeys.contains k || k == Key.codedGroupRanks || k == Key.codedSpares ||
  allPorts.any (fun (p : Fin 16) => k == Key.portRole p || k == Key.portRateMax p) ||
  allCtx.any (fun c => (residentKeys c).contains k || k == Key.exportTable c)

/-- Code of a state request: the lowest refusal that applies (R378). -/
def State.stateCode (s : State) (v : Nat) : Nat :=
  if v = 1 ∧ s.anyResident then 1
  else if v = 2 ∧ s.reg Key.configCrcState ≠ crcMatch then 2
  else if v = 1 ∧ (s.loading.isSome ∨ s.ckpt.run.isSome ∨ s.ckpt.xfer.isSome ∨ s.ckpt.restore.isSome) then 3
  else if s.mstate = stSafe then 4
  else if s.mstate = v then 5
  else 0

/-- RUN is entered: the RWC entries written come into force, and queues of RESIDENT contexts begin to issue (R379, R380). -/
def State.beginRun (s : State) : State :=
  let s := (s.setReg Key.moduleState stRun).modAcc (fun a => { a with
    rwc := a.rwc.filter (fun x => laterKey x.1), rwcBulk := a.rwcBulk.filter (fun x => laterKey x.1) })
  s.noteCapacity.chooseUpstream.settle

/-- A write of `STATE_REQUEST`: 1 CONFIG, 2 RUN (R378). -/
def State.stateRequest (s : State) (v : Nat) : State :=
  let code := s.stateCode v
  let s := s.setReg Key.stateStatus code
  if code ≠ 0 then s else if v = 1 then s.setReg Key.moduleState stConfig else s.beginRun

/-! ### Effects of writes -/

/-- A reference is committed: STALE until the first pass that begins after it ends (R389). -/
def State.commitReference (s : State) (v : Nat) : State :=
  (s.setReg Key.configCrcState crcStale).modAcc (fun a => { a with
    crcRef := some v, crcArmed := true, crcPassArmed := false, staleSince := none })

/-- Governing context of a CMT entry (R381). -/
def State.governor (s : State) (k : Nat) : Nat :=
  if 0x9040 ≤ k / 256 ∧ k / 256 ≤ 0x9043 then k / 256 - 0x9040 else if k = Key.placeFreeze then s.placeCtx else s.ckptCtx

/-- A write of a CMT entry governed by context `g` waits for a boundary or the end of a teardown (R381). -/
def State.cmtWaits (s : State) (g : Nat) : Bool :=
  match ctxIndex? g with
  | some c => s.holds c || s.cstate c == cxTearing
  | none => false

/-- Write a scalar CMT entry. -/
def State.writeCmt (s : State) (k v : Nat) : State :=
  let g := s.governor k
  let old := s.force k
  let s := s.setReg k v
  let rest := s.acc.cmt.filter (fun x => x.1 != k)
  (s.modAcc (fun a => { a with cmt := if s.cmtWaits g then (k, old, g) :: rest else rest })).noteCovered

/-- Write a scalar RWC entry: the value in force is kept until the entry's moment. The strap bits of `MODULE_COORD` stay (R205). -/
def State.writeRwc (s : State) (k v : Nat) : State :=
  let old := s.force k
  let s := s.setReg k (if k = Key.moduleCoord then v / 8 * 8 + s.power.straps % 8 else v)
  (s.modAcc (fun a => { a with rwc := if (assoc a.rwc k).isSome then a.rwc else (k, old) :: a.rwc })).noteCovered

/-- Select an entry for the bulk aperture: its whole value is copied (R387); a key that names none of the kind selects nothing
(log 77). -/
def State.selectBulk (s : State) (v : Nat) : State :=
  let k := v / 256
  let snap := match s.entry? k with
    | some e => if e.type.scalar then none else some (s.readBytes k e)
    | none => none
  (s.setReg Key.bulkSelect v).modAcc (fun a => { a with bulk := snap.map (fun b => ⟨k, b, b⟩) })

/-- Write an RW scalar entry. -/
def State.writeRw (s : State) (k v : Nat) : State :=
  if k = Key.configCrcRef then s.commitReference v
  else if k = Key.powerCap then ((s.setReg k v).modPower (fun p => { p with capPending := some v })).capIdle
  else if k = Key.bulkSelect then s.selectBulk v
  else match allPorts.find? (fun (p : Fin 16) => k == Key.portEnable p) with
    | some p => let s := s.setReg k v; if v = 1 then s.enablePort p else s.disablePort p
    | none => match allCtx.find? (fun (c : Fin 4) => k == Key.completionAck c) with
      | some c => s.ackRecords c v
      | none => s.setReg k v

/-- `START_FALLBACK_RESET`: recorded, and the next start counts no fallback attempt (R412, R423). -/
def State.fallbackReset (s : State) : State :=
  (s.startRecord 6 10 0xFF 0xFF 0 s.elapsed 0).modStart (fun x => { x with fallbackReset := true })

/-- Write a whole STR, BLOB or TABLE value (R219, R225, R348, R381, R407). -/
def State.applyBulk (s : State) (k : Nat) (e : DictEntry) (bs : List Byte) : State :=
  if e.access = .rwc then
    let old := match assoc s.acc.rwcBulk k with | some b => b | none => s.bulkBytes k 0 e.bytes
    ((s.setBulk k 0 bs).modAcc (fun a => { a with rwcBulk := assocPut a.rwcBulk k old })).noteCovered
  else if e.access = .cmt then
    let old := match s.acc.cmtBlob with | some b => b.2 | none => s.bulkBytes k 0 e.bytes
    let g := s.governor k
    ((s.setBulk k 0 bs).modAcc (fun a => { a with cmtBlob := if s.cmtWaits g then some (g, old) else none })).noteCovered
  else if k = Key.ckptXferDesc then s.startXfer bs
  else if k = Key.quoteNonce then (s.setBulk k 0 bs).modPower (fun p => { p with quoteNonces := p.quoteNonces ++ [bs] })
  else if k = Key.rankTable then (s.setBulk k 0 bs).regroup.releaseReruns
  else match allPorts.find? (fun (p : Fin 16) => k == Key.portTransitTags p) with
    | some p =>
      let tags (s : State) := (List.range 8).map (fun i => s.bulkNat k (2 * i) 2)
      let t := s.setBulk k 0 bs
      t.setTransit p (tags s) (tags t)
    | none => s.setBulk k 0 bs

/-- Apply the staging copy (R387). -/
def State.bulkCommit (s : State) : State :=
  match s.acc.bulk with
  | none => s.setReg Key.bulkStatus stNoEntry
  | some b =>
    match s.entry? b.key with
    | none => (s.refuse b.key stNoEntry).setReg Key.bulkStatus stNoEntry
    | some e =>
      let c := s.checkBulk b.key b.staging
      let c := if c = stOk ∧ s.readBytes b.key e ≠ b.snapshot then stChanged else c
      if c ≠ stOk then (s.refuse b.key c).setReg Key.bulkStatus c
      else (s.applyBulk b.key e b.staging).setReg Key.bulkStatus stOk

/-- The action of a write of a WO scalar entry; `dxp` tells the path (R296). -/
def State.applyAction (s : State) (dxp : Bool) (k v : Nat) : State :=
  if k = Key.imageLoad then s.imageRequest v
  else if k = Key.preemptRequest then (s.forEach (allCtx.filter (fun (c : Fin 4) => bit v c)) State.preemptCtx)
  else if k = Key.resumeRequest then (s.forEach (allCtx.filter (fun (c : Fin 4) => bit v c)) State.resumeCtx)
  else if k = Key.partitionRequest then (if v = 0 then s.leavePartition else s.joinPartition v)
  else if k = Key.rankRemap then s.rankRemap v
  else if k = Key.niFailedClear then s.clearFailed v
  else if k = Key.hostTimeWrite then s.recordPair (if dxp then 3 else 2) v
  else if k = Key.codedRevert then s.codedRevert v
  else if k = Key.ckptRequest then s.ckptSoftware
  else if k = Key.ckptPreemptNotice then s.ckptNotice
  else if k = Key.ckptRestore then s.restoreRequest v
  else if k = Key.ctxRequest then (match ctxIndex? (v % 4) with | some c => s.ctxRequest (v / 256) c | none => s)
  else if k = Key.moduleFaultAck then s.ackMask 4 v
  else if k = Key.stateRequest then s.stateRequest v
  else if k = Key.bulkCommit then s.bulkCommit
  else if k = Key.startFallbackReset then s.fallbackReset
  else match allCtx.find? (fun (c : Fin 4) => k == Key.ctxStepSet c || k == Key.ctxFaultAck c) with
    | some c => if k = Key.ctxStepSet c then s.setStep c v else s.ackMask c v
    | none => s

/-- Apply an accepted write of a scalar entry by its right (R374). -/
def State.applyScalar (s : State) (dxp : Bool) (k v : Nat) (a : DictAccess) : State :=
  match a with
  | .ro => s
  | .rw => s.writeRw k v
  | .wo => s.applyAction dxp k v
  | .rwc => s.writeRwc k v
  | .cmt => s.writeCmt k v

/-- Write a scalar entry: applied, or refused and counted (R375). Answers the code. -/
def State.writeScalar (s : State) (dxp : Bool) (k v : Nat) : Nat × State :=
  let c := s.checkScalar k v
  if c ≠ stOk then (c, s.refuse k c)
  else match dictEntry? k with
    | some e => (stOk, s.applyScalar dxp k v e.access)
    | none => (stOk, s)

/-- Write a whole STR, BLOB or TABLE value: applied, or refused and counted. Answers the code. -/
def State.writeBulk (s : State) (k : Nat) (bs : List Byte) : Nat × State :=
  let c := s.checkBulk k bs
  if c ≠ stOk then (c, s.refuse k c)
  else match dictEntry? k with
    | some e => (stOk, s.applyBulk k e bs)
    | none => (stOk, s)

/-! ### The register window (R382 to R387) -/

/-- Word address of an entry. -/
def wordAddr (k : Nat) : Nat := 0x100000 + (k / 256 - 0x1000) * 0x100 + k % 256 * 4

/-- The key a word address of the entry window names. -/
def addrKey (a : Nat) : Nat := (0x1000 + (a - 0x100000) / 0x100) * 256 + (a - 0x100000) % 0x100 / 4

/-- A word address lies in the entry window, in the bulk aperture. -/
def inWindow (a : Nat) : Bool := decide (0x100000 ≤ a ∧ a < 0xB00000)
def inAperture (a : Nat) : Bool := decide (0xC00000 ≤ a ∧ a < 0xD00000)

/-- A PF0 access that is no aligned 32-bit access within BAR0. -/
def badAccess (a : Nat) : Bool := decide (a % 4 ≠ 0 ∨ 0x1000000 ≤ a)

/-- A PF0 access ends what the one before it began: the latch is disarmed, a held low word discarded and its write refused
(R384, R385). -/
def State.pf0 (s : State) : State :=
  let s := match s.acc.heldLow with
    | some (a, _) => s.refuse (addrKey a) stSize
    | none => s
  s.modAcc (fun x => { x with latch := none, heldLow := none })

/-- The U64 entry whose high word an address without an entry of its own carries. -/
def State.highOf (s : State) (k : Nat) : Option DictEntry :=
  if k % 256 = 0 then none
  else match s.entry? (k - 1) with
    | some e => if e.type = .u64 then some e else none
    | none => none

/-- Serve a read of a word that the latch does not answer. -/
def State.readWord (s : State) (a : Nat) : State :=
  if inAperture a then
    s.toHost (.word a (match s.acc.bulk with | some b => leNat ((b.snapshot.drop (a - 0xC00000)).take 4) | none => 0))
  else if !inWindow a then s.toHost (.word a 0)
  else
    let k := addrKey a
    match s.entry? k with
    | none => match s.highOf k with
      | some e => s.toHost (.word a (s.readScalar (k - 1) e / 2 ^ 32))
      | none => s.toHost (.word a 0)
    | some e =>
      if !e.type.scalar then s.toHost (.word a e.bytes)
      else
        let v := s.readScalar k e
        let s := if e.type = .u64 then s.modAcc (fun x => { x with latch := some (a + 4, v / 2 ^ 32) }) else s
        (s.noteRead k).toHost (.word a (v % 2 ^ 32))

/-- A read of BAR0 of PF0. -/
def State.windowRead (s : State) (a : Nat) : State :=
  if !s.hostLink then s
  else if badAccess a then s.toHost (.unsupported a)
  else match s.acc.latch with
    | some (b, v) => if a = b then s.pf0.toHost (.word a v) else s.pf0.readWord a
    | none => s.pf0.readWord a

/-- An aperture write goes to the staging copy; beyond the entry's length it changes nothing (R387). -/
def State.stageWrite (s : State) (off v : Nat) : State :=
  s.modAcc (fun a => { a with bulk := a.bulk.map (fun b =>
    { b with staging := ((List.range b.staging.length).zip b.staging).map (fun x =>
        if off ≤ x.1 ∧ x.1 < off + 4 then BitVec.ofNat 8 (v / 256 ^ (x.1 - off)) else x.2) }) })

/-- Serve a write of a word that completes no 64-bit write. -/
def State.writeWord (s : State) (a v : Nat) : State :=
  if inAperture a then s.stageWrite (a - 0xC00000) v
  else if !inWindow a then s
  else
    let k := addrKey a
    match (if k = Key.compatLevel then dictEntry? k else s.entry? k) with
    | none => match s.highOf k with
      | some _ => s.refuse (k - 1) stSize
      | none => s.refuse k stNoEntry
    | some e =>
      if !e.type.scalar then s.refuse k stSize
      else if e.type = .u64 then s.modAcc (fun x => { x with heldLow := some (a, v) })
      else (s.writeScalar false k v).2

/-- A write of BAR0 of PF0. -/
def State.windowWrite (s : State) (a value : Nat) : State :=
  let v := value % 2 ^ 32
  if !s.hostLink then s
  else if badAccess a then s.toHost (.unsupported a)
  else match s.acc.heldLow with
    | some (b, lo) =>
      if a = b + 4 then ((s.modAcc (fun x => { x with latch := none, heldLow := none })).writeScalar false (addrKey b) (lo + v * 2 ^ 32)).2
      else s.pf0.writeWord a v
    | none => s.pf0.writeWord a v

/-- The host writes a scalar entry whole through the window: one word, or both words of a U64 entry. -/
def State.hostPut (s : State) (k v : Nat) : State :=
  match dictEntry? k with
  | some e =>
    if e.type = .u64 then (s.windowWrite (wordAddr k) (v % 2 ^ 32)).windowWrite (wordAddr k + 4) (v / 2 ^ 32)
    else s.windowWrite (wordAddr k) v
  | none => s

/-- The host writes a STR, BLOB or TABLE entry through the aperture: select, words, commit (R387). -/
def State.hostPutBulk (s : State) (k : Nat) (bs : List Byte) : State :=
  let s := s.hostPut Key.bulkSelect (k * 256)
  let s := s.forEach (List.range ((bs.length + 3) / 4)) (fun s i => s.windowWrite (0xC00000 + 4 * i) (leNat ((bs.drop (4 * i)).take 4)))
  s.hostPut Key.bulkCommit 1

/-! ### Rows of the register window (R374 to R387) -/

/-- REGISTER_WRITE (R374). -/
def execRegisterWrite (addr v : Nat) (s : State) : Host.Outcome State Fault Refusal := .next (s.windowWrite addr v)

/-- U64_LOW_READ (R384). -/
def execU64LowRead (addr : Nat) (s : State) : Host.Outcome State Fault Refusal := .next (s.windowRead addr)

/-- U64_HIGH_READ (R384). -/
def execU64HighRead (addr : Nat) (s : State) : Host.Outcome State Fault Refusal := .next (s.windowRead addr)

/-- U64_LOW_WRITE (R385). -/
def execU64LowWrite (addr v : Nat) (s : State) : Host.Outcome State Fault Refusal := .next (s.windowWrite addr v)

/-- U64_HIGH_WRITE (R385). -/
def execU64HighWrite (addr v : Nat) (s : State) : Host.Outcome State Fault Refusal := .next (s.windowWrite addr v)

/-- BULK_SELECT (R387). -/
def execBulkSelect (v : Nat) (s : State) : Host.Outcome State Fault Refusal := .next (s.hostPut Key.bulkSelect v)

/-- BULK_APERTURE_WRITE (R387). -/
def execBulkApertureWrite (off v : Nat) (s : State) : Host.Outcome State Fault Refusal := .next (s.windowWrite (0xC00000 + off) v)

/-- BULK_COMMIT (R387). -/
def execBulkCommit (s : State) : Host.Outcome State Fault Refusal := .next (s.hostPut Key.bulkCommit 1)

/-- IMAGE_LOAD (R20): a write of 0x01; `blocks` is what the BLOCKS section of the image in the buffer holds. -/
def execImageLoad (blocks : List Block) (s : State) : Host.Outcome State Fault Refusal :=
  .next ((if s.hostLink then { s with bufBlocks := blocks } else s).hostPut Key.imageLoad 1)

/-- IMAGE_UNLOAD (R21): a write of 0x02. -/
def execImageUnload (s : State) : Host.Outcome State Fault Refusal := .next (s.hostPut Key.imageLoad 2)

/-- DOORBELL (R30): a tail written through BAR0 of PF1. -/
def execDoorbell (c : Fin 4) (q : Fin 8) (tail : Nat) (s : State) : Host.Outcome State Fault Refusal :=
  .next (if s.hostLink then s.ringDoorbell c q (tail % 2 ^ 32) else s)

/-- COMPLETION_ACK (R29). -/
def execCompletionAck (c : Fin 4) (n : Nat) (s : State) : Host.Outcome State Fault Refusal := .next (s.hostPut (Key.completionAck c) n)

/-- PREEMPT (R39). -/
def execPreempt (mask : Nat) (s : State) : Host.Outcome State Fault Refusal := .next (s.hostPut Key.preemptRequest mask)

/-- RESUME (R40). -/
def execResume (mask : Nat) (s : State) : Host.Outcome State Fault Refusal := .next (s.hostPut Key.resumeRequest mask)

/-- PORT_ENABLE (R203). -/
def execPortEnable (p : Fin 16) (s : State) : Host.Outcome State Fault Refusal := .next (s.hostPut (Key.portEnable p) 1)

/-- PORT_DISABLE (R222). -/
def execPortDisable (p : Fin 16) (s : State) : Host.Outcome State Fault Refusal := .next (s.hostPut (Key.portEnable p) 0)

/-- PARTITION_JOIN (R219). -/
def execPartitionJoin (tag : Nat) (s : State) : Host.Outcome State Fault Refusal := .next (s.hostPut Key.partitionRequest tag)

/-- PARTITION_TEARDOWN (R220). -/
def execPartitionTeardown (s : State) : Host.Outcome State Fault Refusal := .next (s.hostPut Key.partitionRequest 0)

/-- TRANSIT_TAGS_WRITE (R219). -/
def execTransitTagsWrite (p : Fin 16) (tags : List Nat) (s : State) : Host.Outcome State Fault Refusal :=
  .next (s.hostPutBulk (Key.portTransitTags p) (tags.flatMap (leBytes 2)))

/-- RANK_REMAP (R225). -/
def execRankRemap (v : Nat) (s : State) : Host.Outcome State Fault Refusal := .next (s.hostPut Key.rankRemap v)

/-- NI_FAILED_CLEAR (R243). -/
def execNiFailedClear (v : Nat) (s : State) : Host.Outcome State Fault Refusal := .next (s.hostPut Key.niFailedClear v)

/-- HOST_TIME_WRITE (R296). -/
def execHostTimeWrite (t : Nat) (s : State) : Host.Outcome State Fault Refusal := .next (s.hostPut Key.hostTimeWrite t)

/-- CODED_REVERT (R325). -/
def execCodedRevert (gen : Nat) (s : State) : Host.Outcome State Fault Refusal := .next (s.hostPut Key.codedRevert gen)

/-- CKPT_PREEMPT_NOTICE (R340). -/
def execCkptPreemptNotice (s : State) : Host.Outcome State Fault Refusal := .next (s.hostPut Key.ckptPreemptNotice 1)

/-- CKPT_SOFTWARE_REQUEST (R340). -/
def execCkptSoftwareRequest (s : State) : Host.Outcome State Fault Refusal := .next (s.hostPut Key.ckptRequest 1)

/-- CKPT_XFER_DESC (R348). -/
def execCkptXferDesc (desc : List Byte) (s : State) : Host.Outcome State Fault Refusal := .next (s.hostPutBulk Key.ckptXferDesc desc)

/-- CKPT_RESTORE (R350). -/
def execCkptRestore (ceiling : Nat) (s : State) : Host.Outcome State Fault Refusal := .next (s.hostPut Key.ckptRestore ceiling)

/-- CTX_RESIDENT (R357). -/
def execCtxResident (c : Fin 4) (s : State) : Host.Outcome State Fault Refusal := .next (s.hostPut Key.ctxRequest (0x100 + c))

/-- CTX_RELEASE (R360). -/
def execCtxRelease (c : Fin 4) (s : State) : Host.Outcome State Fault Refusal := .next (s.hostPut Key.ctxRequest (0x200 + c))

/-- CTX_CLEAR (R361). -/
def execCtxClear (c : Fin 4) (s : State) : Host.Outcome State Fault Refusal := .next (s.hostPut Key.ctxRequest (0x300 + c))

/-- CTX_STEP_SET (R369). -/
def execCtxStepSet (c : Fin 4) (v : Nat) (s : State) : Host.Outcome State Fault Refusal := .next (s.hostPut (Key.ctxStepSet c) v)

/-- CTX_FAULT_ACK (R365). -/
def execCtxFaultAck (c : Fin 4) (w : Nat) (s : State) : Host.Outcome State Fault Refusal := .next (s.hostPut (Key.ctxFaultAck c) w)

/-- MODULE_FAULT_ACK (R365). -/
def execModuleFaultAck (w : Nat) (s : State) : Host.Outcome State Fault Refusal := .next (s.hostPut Key.moduleFaultAck w)

/-- EVENT_ACK (R368). -/
def execEventAck (w : Nat) (s : State) : Host.Outcome State Fault Refusal := .next (s.hostPut Key.eventAck w)

/-- STATE_REQUEST_CONFIG (R378). -/
def execStateRequestConfig (s : State) : Host.Outcome State Fault Refusal := .next (s.hostPut Key.stateRequest 1)

/-- STATE_REQUEST_RUN (R380). -/
def execStateRequestRun (s : State) : Host.Outcome State Fault Refusal := .next (s.hostPut Key.stateRequest 2)

/-- CONFIG_CRC_REF (R389). -/
def execConfigCrcRef (v : Nat) (s : State) : Host.Outcome State Fault Refusal := .next (s.hostPut Key.configCrcRef v)

/-- QUOTE_NONCE (R407). -/
def execQuoteNonce (nonce : List Byte) (s : State) : Host.Outcome State Fault Refusal := .next (s.hostPutBulk Key.quoteNonce nonce)

/-- POWER_CAP (R409). -/
def execPowerCap (v : Nat) (s : State) : Host.Outcome State Fault Refusal := .next (s.hostPut Key.powerCap v)

/-- START_FALLBACK_RESET (R412). -/
def execStartFallbackReset (s : State) : Host.Outcome State Fault Refusal := .next (s.hostPut Key.startFallbackReset 1)

/-- COMPAT_LEVEL (R398): the row names no path; through the window when it is reachable, and otherwise over DXP, whose answer the
row leaves out (log 80). -/
def execCompatLevel (v : Nat) (s : State) : Host.Outcome State Fault Refusal :=
  .next (
    if s.hostLink then s.hostPut Key.compatLevel v
    else if s.power.aux then (s.writeScalar true Key.compatLevel v).2 else s)

/-! ### The configuration CRC (R388 to R390) -/

/-- A pass ends with its result; the next one begins. A pass armed by a commit, and every pass in MATCH or MISMATCH, is compared
(R389, R390). -/
def State.crcPass (s : State) (ms : Nat) : State :=
  let v := s.configCrcNow
  let s := (s.setReg Key.configCrc v).setReg Key.configCrcPassTime ms
  let compared := s.acc.crcPassArmed || s.reg Key.configCrcState != crcStale
  let s := s.modAcc (fun a => { a with crcArmed := false, crcPassArmed := a.crcArmed })
  if !compared then s
  else if v = s.crcReference then
    (s.setReg Key.configCrcState crcMatch).modAcc (fun a => { a with excursion := false, staleSince := none })
  else if s.mstate = stConfig ∨ s.mstate = stRun then s.raiseMismatch
  else s

/-- CONFIG_CRC_PASS_END (R389): passes run from ST9 on. -/
def execConfigCrcPassEnd (ms : Nat) (s : State) : Host.Outcome State Fault Refusal :=
  .next (if s.started ∧ !s.romStage ∧ s.power.aux then s.crcPass ms else s)

/-- CONFIG_CRC_GRACE (R390): in RUN, STALE has lasted the grace with no comparison armed. -/
def execConfigCrcGrace (dt : Nat) (s : State) : Host.Outcome State Fault Refusal :=
  .next (
    let s := s.advance dt
    match s.acc.staleSince with
    | none => s
    | some t =>
      if s.mstate = stRun ∧ s.reg Key.configCrcState = crcStale ∧ !s.acc.crcArmed ∧ !s.acc.crcPassArmed ∧
          t + s.reg Key.configCrcGrace * 100000 ≤ s.now then s.raiseMismatch
      else s)

end Sys2Proof.Machine
end

