-- ==== Sys2Proof/Machine/Dxp.lean ====
section
/-! DEFINITION. The Dictionary Exchange Protocol (spec/19, R392 to R397), quotes (spec/20, R407; spec/21, R426) and their
rows. -/
namespace Sys2Proof.Machine

/-! ### Quotes (R407, R426) -/

/-- "TBQT" as a little-endian word. -/
abbrev quoteMagic : Nat := 0x54514254

/-- Bytes 0x000 to 0x19F of the quote over a nonce, as number `seq`. -/
def State.quoteBody (s : State) (nonce : List Byte) (seq : Nat) : List Byte :=
  let stage := s.reg Key.startStage
  leBytes 4 quoteMagic ++ leBytes 2 0x0100 ++ leBytes 1 stage ++ leBytes 1 (if stage < 9 then 0 else s.reg Key.compatLevelInForce) ++
  leBytes 4 seq ++ leBytes 4 (s.reg Key.startCount) ++ leBytes 8 (if stage < 2 then 0 else s.tick) ++ s.bulkBytes Key.serial 0 16 ++
  padTo 32 0 nonce ++ s.bulkBytes Key.measMcRomstage 0 48 ++ s.bulkBytes Key.measMcFirmware 0 48 ++ s.bulkBytes Key.measHubFirmware 0 48 ++
  s.bulkBytes Key.measTileMicrocode 0 48 ++ s.bulkBytes Key.measDefaults 0 48 ++
  leBytes 4 (s.reg Key.fwBundleVersion) ++ leBytes 4 (s.reg Key.fwMcVersion) ++ leBytes 4 (s.reg Key.fwHubVersion) ++
  leBytes 4 (s.reg Key.fwMicrocodeVersion) ++ leBytes 8 (s.reg Key.unitMapDigest) ++
  leBytes 1 (if stage < 10 then 0 else s.mstate) ++ List.replicate 79 0

/-- Sign a quote: counted, and signed over the SHA-384 of its body with the identity key (log 10). -/
def State.signQuote (s : State) (nonce : List Byte) : List Byte × State :=
  let s := s.bump Key.quoteCount 1
  let body := s.quoteBody nonce (s.reg Key.quoteCount)
  (body ++ padTo 96 0 (Config.ecdsaSign s.freeCount (sha384 body)), { s with freeCount := s.freeCount + 1 })

/-- QUOTE_SIGNED (R407): the MC has signed the quote over the oldest nonce that waits. -/
def execQuoteSigned (s : State) : Host.Outcome State Fault Refusal :=
  .next (
    match s.power.quoteNonces with
    | [] => s
    | n :: rest =>
      let q := (s.modPower (fun p => { p with quoteNonces := rest })).signQuote n
      q.2.setBulk Key.quote 0 q.1)

/-! ### Sources and sessions (R392, R393, R396) -/

/-- The first `n` bits of two addresses agree. -/
def prefixMatch (n : Nat) (a b : List Byte) : Bool :=
  a.take (n / 8) == b.take (n / 8) &&
    decide ((a.getD (n / 8) 0).toNat / 2 ^ (8 - n % 8) = (b.getD (n / 8) 0).toNat / 2 ^ (8 - n % 8))

/-- A source address is admitted: some slot of `DXP_ALLOW` matches it, or every slot is empty (R392, log 79). -/
def State.dxpAdmits (s : State) (src : List Byte) : Bool :=
  let slots := ((List.range 8).map (fun i => s.bulkBytes Key.dxpAllow (17 * i) 17)).filter (fun x => x.any (· != 0))
  slots.isEmpty || slots.any (fun x => prefixMatch (x.getD 16 0).toNat (x.take 16) src)

/-- An IPv4 source, written as an IPv4-mapped address (log 79). -/
def srcIsV4 (src : List Byte) : Bool := src.take 12 == (List.replicate 10 0 ++ [0xFF, 0xFF])

/-- DXP is served: auxiliary power present and ST0 completed or ended in SAFE (R422, R428), at an address the module answers at
(R392). -/
def State.dxpServed (s : State) (d : Dgram) : Bool :=
  s.power.aux && s.start.stage != some 0 && (!srcIsV4 d.src || s.reg Key.fieldIpv4Enable == 1)

/-- Send an answer to where the request came from. -/
def State.sendDxp (s : State) (d : Dgram) (a : Answer) : State :=
  { s with out := { s.out with dxp := s.out.dxp ++ [(d.src, d.port, a)] } }

/-- A session by number. -/
def State.session? (s : State) (n : Nat) : Option Session := s.acc.sessions.find? (fun x => x.number == n)

/-- Change a session. -/
def State.modSession (s : State) (n : Nat) (f : Session → Session) : State :=
  s.modAcc (fun a => { a with sessions := a.sessions.map (fun x => if x.number == n then f x else x) })

/-- End a session: its grant is free, its piece copy gone (R395, R396). -/
def State.endSession (s : State) (n : Nat) : State :=
  s.modAcc (fun a => { a with sessions := a.sessions.filter (fun x => x.number != n) })

/-- The `n`-th nonzero number that no session uses. -/
def unusedNumber (used : List Nat) (n : Nat) : Nat :=
  (sortBy (fun (a b : Nat) => decide (a ≤ b)) used).foldl (fun x u => if u ≤ x then x + 1 else x) (n + 1)

/-! ### Datagrams as bytes (R392 to R394) -/

/-- Bytes that `n` take in a record: padded to a multiple of 4. -/
def padded4 (n : Nat) : Nat := (n + 3) / 4 * 4

/-- Bytes of UDP payload that a datagram carries at most. -/
abbrev datagramMax : Nat := 1232

/-- An operation record as bytes. -/
def dxpOpBytes (o : DxpOp) : List Byte :=
  leBytes 2 o.index ++ leBytes 1 o.sub ++ leBytes 1 o.status ++ leBytes 4 o.off ++ leBytes 4 o.len ++ padTo (padded4 o.value.length) 0 o.value

/-- A datagram: the header that begins with "DX", the payload, and the CRC-32C of both. -/
def dxpDatagram (version kind flags session seq count status : Nat) (payload : List Byte) : List Byte :=
  let b := [0x44, 0x58] ++ leBytes 2 version ++ leBytes 1 kind ++ leBytes 1 flags ++ leBytes 2 session ++ leBytes 4 seq ++
    leBytes 2 count ++ leBytes 2 status ++ payload
  b ++ leBytes 4 (crc32c b)

/-- What `good` says of the bytes of a datagram whose contents have a payload of `n` bytes: magic, length and CRC agree. -/
def datagramGood (b : List Byte) (n : Nat) : Bool :=
  b.take 2 == [0x44, 0x58] && b.length == 20 + n && crc32c (b.take (16 + n)) == leNat (b.drop (16 + n))

/-- A request with operation records as bytes. -/
def requestBytes (kind : Nat) (d : Dgram) : List Byte :=
  dxpDatagram d.version kind d.flags d.session d.seq d.ops.length d.status (d.ops.flatMap dxpOpBytes)

/-- An OPEN as bytes: the highest version offered and whether the grant is wanted. -/
def openBytes (d : Dgram) (offer : Nat) (want : Bool) : List Byte :=
  dxpDatagram d.version 0x01 d.flags 0 d.seq 0 d.status (leBytes 2 offer ++ [if want then 1 else 0, 0, 0, 0, 0, 0])

/-- An answer as bytes, from a module that speaks `version` (log 79). -/
def Answer.bytes (version : Nat) (a : Answer) : List Byte :=
  dxpDatagram version a.kind 0 a.session a.seq a.ops.length a.status
    (if a.kind = 0x02 then leBytes 2 a.version ++ leBytes 2 a.session ++ [if a.grant then 1 else 0, 0, 0, 0]
     else a.ops.flatMap dxpOpBytes)

/-- Bytes of a request with operation records. -/
def requestSize (d : Dgram) : Nat := 20 + (d.ops.map (fun o => 12 + padded4 o.value.length)).sum

/-- Bytes of values for which the response to a request of `n` records has room. -/
def valueRoom (n : Nat) : Nat := datagramMax - 20 - 12 * n

/-! ### Operations (R394, R395, R397) -/

/-- A record answered without a value. -/
def opFail (o : DxpOp) (code : Nat) : DxpOp := { o with status := code, value := [] }

/-- The key a record names. -/
def opKey (o : DxpOp) : Nat := o.index % 65536 * 256 + o.sub % 256

/-- Bytes of the value that a READ record of an entry asks for. -/
def readSize (e : DictEntry) (o : DxpOp) : Nat := if e.type.scalar then e.bytes else o.len

/-- One READ record; what no longer has room in the one datagram of the response is refused with SIZE (R392, log 79). -/
def State.dxpReadOp (s : State) (room : Nat) (o : DxpOp) : DxpOp × State :=
  match s.entry? (opKey o) with
  | none => (opFail o stNoEntry, s)
  | some e =>
    if room < padded4 (readSize e o) then (opFail o stSize, s)
    else if (opKey o) = Key.quote ∧ !o.value.isEmpty then
      if o.value.length = 32 ∧ o.off = 0 ∧ o.len = 512 then
        let q := s.signQuote o.value
        ({ o with status := stOk, value := q.1 }, q.2)
      else (opFail o stSize, s)
    else if e.type.scalar then
      if o.off ≠ 0 ∨ o.len ≠ 0 then (opFail o stSize, s)
      else ({ o with status := stOk, value := s.readBytes (opKey o) e }, s.noteRead (opKey o))
    else if e.bytes < o.off + o.len then (opFail o stSize, s)
    else ({ o with status := stOk, value := ((s.readBytes (opKey o) e).drop o.off).take o.len }, s)

/-- Default of an entry of four bytes or less, as DESCRIBE returns it. -/
def State.describedDefault (s : State) (k : Nat) (e : DictEntry) : Nat :=
  if 4 < e.bytes then 0
  else if k % 256 = 0 then dictCount (k / 256)
  else if k = Key.moduleCoord then s.power.straps % 8
  else if k = Key.configCrcRef then ({ s with acc := { s.acc with crcRef := none } }).crcReference
  else if e.type.scalar then dictDefault k
  else leNat ((List.range e.bytes).map (bulkDefault k))

/-- One DESCRIBE record. -/
def State.dxpDescribeOp (s : State) (room : Nat) (o : DxpOp) : DxpOp :=
  match s.entry? (opKey o) with
  | none => opFail o stNoEntry
  | some e =>
    if room < 12 then opFail o stSize else
    let v := leBytes 1 e.type.code ++ leBytes 1 e.access.code ++ leBytes 2 0 ++ leBytes 4 e.bytes ++ leBytes 4 (s.describedDefault (opKey o) e)
    { o with status := stOk, value := v }

/-- The bytes of a value sent whole: the length of its type, or that padded to a multiple of four. -/
def valueFits (n : Nat) (v : List Byte) : Bool := decide (v.length = n ∨ v.length = (n + 3) / 4 * 4)

/-- Refuse a WRITE record. -/
def State.dxpRefuse (s : State) (o : DxpOp) (code : Nat) : Nat × State := (code, s.refuse (opKey o) code)

/-- Drop a session's piece copy. -/
def State.dropPiece (s : State) (n : Nat) : State := s.modSession n (fun x => { x with piece := none })

/-- A piece of a value (R395). -/
def State.dxpPiece (s : State) (n : Nat) (o : DxpOp) (e : DictEntry) (open_ : Option PieceCopy) : Nat × State :=
  let bytes := o.value.take o.len
  let step (p : PieceCopy) : Nat × State :=
    let data := p.data.take o.off ++ bytes ++ p.data.drop (o.off + o.len)
    if o.off + o.len < e.bytes then
      (stOk, s.modSession n (fun x => { x with piece := some ⟨p.key, p.snapshot, data, o.off + o.len⟩ }))
    else
      let s := s.dropPiece n
      if s.readBytes (opKey o) e ≠ p.snapshot then s.dxpRefuse o stChanged else s.writeBulk (opKey o) data
  match open_ with
  | some p =>
    if p.key = (opKey o) ∧ p.next = o.off ∧ o.off + o.len ≤ e.bytes then step p else (s.dropPiece n).dxpRefuse o stSize
  | none =>
    let c := s.checkBulkRight (opKey o)
    if o.off ≠ 0 then s.dxpRefuse o stSize
    else if c ≠ stOk then s.dxpRefuse o c
    else let now := s.readBytes (opKey o) e; step ⟨(opKey o), now, now, 0⟩

/-- Bytes of value that one datagram carries: 1,232 less the header, one operation record and the CRC (R392 to R394). -/
abbrev datagramValue : Nat := datagramMax - 32

/-- One WRITE record of a session that holds the grant: the code, and what it leaves. Only an entry larger than one datagram is
written in pieces (R395). -/
def State.dxpWriteOp (s : State) (n : Nat) (o : DxpOp) : Nat × State :=
  match (if (opKey o) = Key.compatLevel then dictEntry? (opKey o) else s.entry? (opKey o)) with
  | none => s.dxpRefuse o stNoEntry
  | some e =>
    if e.type.scalar then
      if (o.off ≠ 0 ∨ o.len ≠ 0 ∨ !valueFits e.bytes o.value) ∧ e.access ≠ .ro ∧ s.writeAllowed (opKey o) e then s.dxpRefuse o stSize
      else s.writeScalar true (opKey o) (leNat (o.value.take e.bytes))
    else if !valueFits o.len o.value then s.dxpRefuse o stSize
    else if o.off = 0 ∧ o.len = e.bytes then s.writeBulk (opKey o) (o.value.take o.len)
    else if e.bytes ≤ datagramValue then
      let c := s.checkBulkRight (opKey o)
      (s.dropPiece n).dxpRefuse o (if c = stOk then stSize else c)
    else s.dxpPiece n o e (match s.session? n with | some x => x.piece | none => none)

/-- Apply the records of a WRITE in order. -/
def State.dxpWriteOps (s : State) (n : Nat) : List DxpOp → List DxpOp × State
  | [] => ([], s)
  | o :: os =>
    let r := s.dxpWriteOp n o
    let t := r.2.dxpWriteOps n os
    (opFail o r.1 :: t.1, t.2)

/-- An atomic WRITE: tried on the state as it stands, and applied only if no record is refused; otherwise the refused records carry
and count their reasons and the others ABORTED (R397, log 79). -/
def State.dxpAtomic (s : State) (n : Nat) (ops : List DxpOp) : List DxpOp × State :=
  let r := s.dxpWriteOps n ops
  let bad := r.1.filter (fun o => o.status != stOk)
  if bad.isEmpty then r
  else
    (r.1.map (fun o => if o.status = stOk then opFail o stAborted else o), s.forEach bad (fun s o => s.refuse (opKey o) o.status))

/-- Serve the records of READ requests in order, as far as their values have room. -/
def State.dxpReadOps (s : State) (room : Nat) : List DxpOp → List DxpOp × State
  | [] => ([], s)
  | o :: os =>
    let r := s.dxpReadOp room o
    let t := r.2.dxpReadOps (room - padded4 r.1.value.length) os
    (r.1 :: t.1, t.2)

/-- Serve the records of DESCRIBE requests in order, as far as their values have room. -/
def State.dxpDescribeOps (s : State) (room : Nat) : List DxpOp → List DxpOp
  | [] => []
  | o :: os =>
    let r := s.dxpDescribeOp room o
    r :: s.dxpDescribeOps (room - r.value.length) os

/-- Kinds of request. -/
inductive DxpKind | read | write | describe | close | keepalive
  deriving DecidableEq, Repr

/-- What a request does and the records of its response. -/
def State.dxpRun (s : State) (k : DxpKind) (x : Session) (d : Dgram) : List DxpOp × State :=
  match k with
  | .read => s.dxpReadOps (valueRoom d.ops.length) d.ops
  | .describe => (s.dxpDescribeOps (valueRoom d.ops.length) d.ops, s)
  | .write =>
    if !x.grant then (d.ops.map (fun o => opFail o stNotWriter), s.forEach d.ops (fun s o => s.refuse (opKey o) stNotWriter))
    else if bit d.flags 0 then s.dxpAtomic x.number d.ops
    else s.dxpWriteOps x.number d.ops
  | .close => ([], s.endSession x.number)
  | .keepalive => ([], s)

/-- Status of a response: OK, or the code of the first record that failed of itself (R394, log 79). -/
def responseStatus (ops : List DxpOp) : Nat :=
  match ops.find? (fun o => o.status != stOk && o.status != stAborted) with
  | some o => o.status
  | none => stOk

/-- A response of a session or to a request that names none. -/
def mkResponse (d : Dgram) (status : Nat) (ops : List DxpOp) : Answer := ⟨0x20, d.session, d.seq, status, 0, false, ops⟩

/-- A request within a session: a resend is answered again, a wrong number refused, and otherwise it is applied and answered
(R396, R397). -/
def State.dxpServe (s : State) (k : DxpKind) (d : Dgram) : State :=
  match s.session? d.session with
  | none => s.sendDxp d (mkResponse d stSession (d.ops.map (fun o => opFail o stSession)))
  | some x =>
    let s := s.modSession x.number (fun y => { y with idleSince := s.now })
    let refused := s.sendDxp d (mkResponse d stSession (d.ops.map (fun o => opFail o stSession)))
    if d.seq = (x.seq + 1) % 2 ^ 32 then
      let r := s.dxpRun k x d
      let a := mkResponse d (responseStatus r.1) r.1
      (r.2.modSession x.number (fun y => { y with seq := d.seq, last := some a })).sendDxp d a
    else if d.seq = x.seq then
      match x.last with
      | some a => s.sendDxp d a
      | none => refused
    else refused

/-- A request that arrives: discarded and counted, answered with VERSION, or served (R392, R393, R375). -/
def State.dxpRequest (s : State) (k : DxpKind) (d : Dgram) : State :=
  if !s.dxpServed d then s
  else if !d.good ∨ datagramMax < requestSize d ∨ !s.dxpAdmits d.src then s.bump Key.dxpRefusedCount 1
  else if d.version / 256 ≠ s.reg Key.dxpVersion / 256 then
    s.sendDxp d (mkResponse d stVersion (d.ops.map (fun o => opFail o stVersion)))
  else s.dxpServe k d

/-- Open a session: the version agreed, the number free, the grant given when asked for and held by no other (R4, R396). A refused OPEN
is answered by an OPEN_ACK of session 0 and version 0 with the status; one refused for its version is logged, as a WARNING (DESIGN
CHOICE, logs 79 and 107). -/
def State.dxpOpenSession (s : State) (d : Dgram) (offer : Nat) (want : Bool) : State :=
  let own := s.reg Key.dxpVersion
  let nack (code : Nat) : Answer := ⟨0x02, 0, d.seq, code, 0, false, []⟩
  if offer / 256 ≠ own / 256 then (s.log sevWarning noCtx 0x13 none32 Key.dxpVersion offer).sendDxp d (nack stVersion)
  else if 8 ≤ s.acc.sessions.length then s.sendDxp d (nack stSession)
  else
    let f := s.free 70
    let used := s.acc.sessions.map Session.number
    let n := unusedNumber used (f.1 % (65535 - used.length))
    let grant := want && !s.acc.sessions.any Session.grant
    let s := f.2.modAcc (fun a => { a with sessions := a.sessions ++ [⟨n, grant, 0, none, s.now, none⟩] })
    s.sendDxp d ⟨0x02, n, d.seq, stOk, min own offer, grant, []⟩

/-! ### Rows -/

/-- DXP_OPEN (R396). -/
def execDxpOpen (d : Dgram) (offer : Nat) (want : Bool) (s : State) : Host.Outcome State Fault Refusal :=
  .next (
    if !s.dxpServed d then s
    else if !d.good ∨ !s.dxpAdmits d.src then s.bump Key.dxpRefusedCount 1
    else s.dxpOpenSession d offer want)

/-- DXP_CLOSE (R396). -/
def execDxpClose (d : Dgram) (s : State) : Host.Outcome State Fault Refusal := .next (s.dxpRequest .close d)

/-- DXP_KEEPALIVE (R396). -/
def execDxpKeepalive (d : Dgram) (s : State) : Host.Outcome State Fault Refusal := .next (s.dxpRequest .keepalive d)

/-- DXP_READ (R394). -/
def execDxpRead (d : Dgram) (s : State) : Host.Outcome State Fault Refusal := .next (s.dxpRequest .read d)

/-- DXP_WRITE (R397). -/
def execDxpWrite (d : Dgram) (s : State) : Host.Outcome State Fault Refusal := .next (s.dxpRequest .write d)

/-- DXP_DESCRIBE (R394). -/
def execDxpDescribe (d : Dgram) (s : State) : Host.Outcome State Fault Refusal := .next (s.dxpRequest .describe d)

/-- QUOTE_READ (R407): a READ of `QUOTE` whose record carries a nonce. -/
def execQuoteRead (d : Dgram) (s : State) : Host.Outcome State Fault Refusal := .next (s.dxpRequest .read d)

/-- DXP_SESSION_TIMEOUT (R396): a session without a datagram for `DXP_SESSION_TIMEOUT` seconds ends. -/
def execDxpSessionTimeout (session dt : Nat) (s : State) : Host.Outcome State Fault Refusal :=
  .next (
    let s := s.advance dt
    match s.session? session with
    | none => s
    | some x => if x.idleSince + s.reg Key.dxpSessionTimeout * secondTicks ≤ s.now then s.endSession session else s)

end Sys2Proof.Machine
end

