-- ==== Sys2Proof/Machine/Startup.lean ====
section
/-! DEFINITION. Start-up (spec/21, R414 to R425, R433 to R437): the stages and their failures, fallback and starting again, the start
log, SAFE state, the loss of the rails, and the rows of the stages, the supplies and the sideband pins. -/
namespace Sys2Proof.Machine

/-! ### Levels and budgets (R414 to R418) -/

/-- Budget of a stage in ms (R414). -/
def stageBudget (st : Nat) : Nat := [400, 500, 5, 250, 150, 500, 250, 100, 200, 20].getD st 0

/-- Place of an alternative step in `START_FALLBACK` (R411). -/
def fallbackIndex : Nat → Option Nat
  | 3 => some 0 | 4 => some 1 | 6 => some 2 | 7 => some 3 | _ => none

/-- Fallback count a stage runs at, 0xFF for one without (R423). -/
def State.fallbackOf (s : State) (st : Nat) : Nat :=
  match fallbackIndex st with | some i => s.start.fallback.getD i 0 | none => 0xFF

/-- Raise a fallback count, to 3 at most (R418). -/
def State.raiseFallback (s : State) (st : Nat) : State :=
  match fallbackIndex st with
  | some i => s.modStart (fun x => { x with fallback := x.fallback.set i (min 3 (x.fallback.getD i 0 + 1)) })
  | none => s

/-- A stage is being waited for and has not begun: the input or the rails before ST1, `PERST#` before ST7 (R415, R419). -/
def State.stageWaits (s : State) (st : Nat) : Bool :=
  (st == 1 && (!s.power.input || s.start.abandoned || s.start.againSince.isSome)) || (st == 7 && s.power.perst)

/-- Set a bit of `START_DEGRADED`. -/
def State.degrade (s : State) (b : Nat) : State := s.setReg Key.startDegraded (s.reg Key.startDegraded ||| 2 ^ b)

/-! ### What outlives the loss of the core rails -/

/-- RO entries that the MC keeps while the core rails are down (log 83). -/
def mcKept : List Nat :=
  [Key.startCount, Key.startLogHead, Key.flashBytesWritten, Key.flashProgramFails, Key.compatLevelInForce, Key.fieldLinkUp,
   Key.inputVoltage, Key.auxVoltage, Key.thermalMargin, Key.measMcRomstage, Key.measMcFirmware, Key.tempSensors]

/-- Entries of ports and own place, which every start's training takes at their defaults (R415, log 84). -/
def portEntry (k : Nat) : Bool := k / 256 == 0x6000 || decide (0x6100 ≤ k / 256 ∧ k / 256 ≤ 0x610F)

/-- An entry keeps its value when a start begins again at ST1: what the MC keeps, and the settings that ST9 will reset (R377). -/
def keepsAtRestart (k : Nat) : Bool :=
  mcKept.contains k || (!portEntry k && (match dictFind k with | some e => e.access != .ro | none => false))

/-- The core rails go off: everything outside the MC, its boot flash and the Local Flash Store is lost (R437). -/
def State.railsDown (s : State) : State :=
  { State.reset with
    regs := s.regs.filter (fun x => keepsAtRestart x.1)
    bulk := s.bulk.filter (fun x => keepsAtRestart (x.1 / 2 ^ 20))
    mem := { Mem.reset with flash := s.mem.flash }
    time := { Time.reset with now := s.time.now }
    ckpt := { Ckpt.reset with sequence := s.ckpt.sequence }
    acc := { Access.reset with sessions := s.acc.sessions, crcRef := s.acc.crcRef }
    start := { s.start with bist := [], wave := 0 }
    power := { s.power with capPending := none, capBefore := 1800, railsOn := false, quoteNonces := [] }
    out := s.out, freeCount := s.freeCount, pending := s.pending }

/-- The whole module goes off or is reset, MC included: only flash, what lies at the pins, and what has left the module remain
(R433, R437). -/
def State.powerOff (s : State) (aux : Bool) : State :=
  { State.reset with
    regs := s.regs.filter (fun x =>
      [Key.startCount, Key.startLogHead, Key.flashBytesWritten, Key.flashProgramFails, Key.compatLevel, Key.inputVoltage].contains x.1)
    mem := { Mem.reset with flash := s.mem.flash }
    ckpt := { Ckpt.reset with sequence := s.ckpt.sequence }
    start := { Start.reset with fallback := s.start.fallback, fallbackReset := s.start.fallbackReset, log := s.start.log }
    power := { Power.reset with aux := aux, input := s.power.input, perst := s.power.perst, straps := s.power.straps }
    out := s.out, freeCount := s.freeCount, pending := s.pending }

/-! ### Beginning a start (R412, R419 to R421, R423, R424) -/

/-- Ports that the ST6 records of the start before name as skipped (R421). -/
def State.namedPorts (s : State) : List Nat :=
  (s.start.log.filter (fun r => r.kind == 2 && r.stage == 6 && r.start == s.reg Key.startCount && (r.detail == 2 || r.detail == 5))).map
    StartRec.item

/-- A start is counted and recorded as begun; a reset of the fallback counts asked for takes effect (R412, R423). -/
def State.beginStart (s : State) (st : Nat) : State :=
  let named := s.namedPorts
  let s := s.modStart (fun x => { x with
    named := named, fallback := if x.fallbackReset then [0, 0, 0, 0] else x.fallback, fallbackReset := false,
    abandoned := false, againSince := none, stage := some st, stageSince := s.now })
  (s.bump Key.startCount 1).startRecord 7 st 0xFF 0xFF 0 ((s.now - s.start.began) / 100000) 0

/-- ST0 begins: the start log is read, an unfinished start recorded, this one counted (R424). -/
def State.beginSt0 (s : State) : State :=
  let s := s.modStart (fun x => { x with began := s.now })
  let s := match s.start.log.head? with
    | some r =>
      if r.kind = 1 ∨ r.kind = 2 ∨ r.kind = 7 then
        let i : StartRec := ⟨r.start, 5, r.stage, 0xFF, 0xFF, 0, s.elapsed, 0, s.reg Key.fwBundleVersion⟩
        (s.modStart (fun x => { x with log := (i :: x.log).take 64 })).bump Key.startLogHead 1
      else s
    | none => s
  s.beginStart 0

/-- ST1 begins in a new start: the rails rise (R419, R435). -/
def State.beginAgain (s : State) : State := (s.railsDown.beginStart 1).modPower (fun p => { p with railsOn := true })

/-- The next stage begins, or is waited for. -/
def State.beginStage (s : State) (st : Nat) : State :=
  let s := s.modStart (fun x => { x with stage := some st, stageSince := s.now })
  if st = 1 then (if s.power.input then s.modPower (fun p => { p with railsOn := true }) else s)
  else if st = 6 then s.forEach allPorts State.startTraining
  else s

/-! ### SAFE state (R9, R289, R364, R379, R418, R422, R444) -/

/-- Contexts, queues of packets, ports and host link are gone; only the MC runs. With the rails off the event log is lost too. -/
def State.enterSafe (s : State) (railsOn : Bool) : State :=
  let s := { s with
    ctxs := Vector.replicate 4 Ctx.reset, fab := Fabric.reset, heldEnters := [], loading := none,
    pools := { s.pools with bufs := [], waits := [] }, ports := Vector.replicate 16 Port.reset, coded := Coded.reset
    mem := { s.mem with moves := [], plans := [], grants := [], stagings := [], scrub := [], scrubFix := [] } }
  let s := s.forEach allCtx (fun s (c : Fin 4) => s.setReg (Key.ctxState c) cxAbsent)
  let s := s.forEach allPorts (fun s (p : Fin 16) =>
    if s.reg (Key.portState p) = 0 then s else (s.setReg (Key.portState p) 6).setReg (Key.portRate p) 0)
  let s := (s.modCkpt (fun k => { k with run := none, xfer := none, restore := none, pendingTargets := [] })).setReg Key.ckptState 0
  let s := ((s.setReg Key.codedState 0).setReg Key.codedRecordedGen none32).setReg Key.codedOpenGen none32
  let s := (s.setReg Key.hostLinkGen 0).setReg Key.hostLinkWidth 0
  let s := (s.modTime (fun t => { t with ramp := none, gcRunning := t.gcRunning && railsOn })).modPower (fun p => { p with railsOn := railsOn })
  let s := if railsOn then s else { s with events := [] }
  (s.setReg Key.moduleState stSafe).modStart (fun x => { x with stage := none, abandoned := false, againSince := none })

/-- A start ends in SAFE state: one record for each item, then SAFE (R418, R422, R423). -/
def State.startSafe (s : State) (st : Nat) (items : List (Nat × Nat × Nat)) : State :=
  let s := s.forEach items (fun s x => s.startRecord 3 st x.1 (s.fallbackOf st) x.2.1 s.elapsed x.2.2)
  (s.enterSafe (decide (2 ≤ st))).setReg Key.startSafeStage st

/-! ### Completion of a stage (R290, R410, R414 to R416, R421, R425) -/

/-- Measurement registers of a stage, in the order its components are loaded (R425). -/
def measuredIn : Nat → List Nat
  | 0 => [Key.measMcRomstage, Key.measMcFirmware]
  | 8 => [Key.measHubFirmware, Key.measTileMicrocode]
  | 9 => [Key.measDefaults]
  | _ => []

/-- Each component a stage has loaded is measured, whether or not it then runs: the SHA-384 of its bytes (R425). -/
def State.measure (s : State) (st : Nat) (meas : List (List Byte)) : State :=
  s.forEach ((measuredIn st).zip meas) (fun s x => s.setBulk x.1 0 ((sha384 x.2).take 48))

/-- ST6 ends: a start that skipped a port raises the count once, and a port below its highest rate is reported (R412, R421). -/
def State.endPorts (s : State) : State :=
  let s := if allPorts.any (fun p => (s.port p).skipped) then s.raiseFallback 6 else s
  if allPorts.any (fun (p : Fin 16) => s.reg (Key.portState p) == 5 && decide (s.reg (Key.portRate p) < s.force (Key.portRateMax p))) then
    s.degrade 20 else s

/-- Dictionary defaults take force, the reference is committed (R377, R389). -/
def State.applyDefaults (s : State) : State :=
  let keep (k : Nat) : Bool := k == Key.compatLevel || (match dictFind k with | some e => e.access == .ro | none => false)
  let s := { s with regs := s.regs.filter (fun x => keep x.1), bulk := s.bulk.filter (fun x => keep (x.1 / 2 ^ 20)) }
  let s := s.modAcc (fun a => { Access.reset with sessions := a.sessions, latch := a.latch })
  (s.setReg Key.moduleCoord (s.power.straps % 8)).setReg Key.configCrcState crcMatch

/-- ST10: CONFIG is entered (R414, R423). -/
def State.enterConfig (s : State) : State :=
  let s := ((s.setReg Key.startStage 10).setReg Key.startTime s.elapsed).setReg Key.moduleState stConfig
  (s.startRecord 4 10 0xFF 0xFF 0 s.elapsed (s.reg Key.startDegraded)).modStart (fun x => { x with stage := none })

/-- Highest PCIe generation a fallback count offers (R418). -/
def pcieOffered (f : Nat) : Nat := if f = 0 then 6 else if f = 1 then 5 else 4

/-- What a completed stage leaves: `vals` are what the parts report: ST5 spare blocks and wear, ST7 generation and width, ST8 the
bundle's versions. -/
def State.stageWork (s : State) (st : Nat) (vals : List Nat) : State :=
  let v (i : Nat) := vals.getD i 0
  match st with
  | 0 =>
    let l := s.reg Key.compatLevel
    s.setReg Key.compatLevelInForce (if l = 0 then s.reg Key.compatLevelMax else l)
  | 2 => (s.setReg Key.clockStatus 3).modTime (fun t => { t with gcRunning := true, gcTicks := 0, gcFraction := 0, gcResidue := 0 })
  | 3 => if s.fallbackOf 3 = 0 then s else ((s.setReg Key.hbmPinRate 8000).setReg Key.hbmTimingMode 1).degrade 18
  | 4 => s.noteCapacity
  | 5 =>
    let s := ((s.setReg Key.flashState 1).setReg Key.flashSpareBlocks (v 0)).setReg Key.flashWear (v 1)
    s.noteSlots.noteCapacity
  | 6 => s.endPorts
  | 7 =>
    let s := (s.setReg Key.hostLinkGen (v 0)).setReg Key.hostLinkWidth (v 1)
    if v 0 < 6 then s.degrade 19 else s
  | 8 =>
    (((s.setReg Key.fwBundleVersion (v 0)).setReg Key.fwMcVersion (v 1)).setReg Key.fwHubVersion (v 2)).setReg Key.fwMicrocodeVersion (v 3)
  | 9 => s.applyDefaults.noteCapacity
  | _ => s

/-- The work of a stage can have ended: every BIST wave passed, every port settled, a generation within what is offered trained. -/
def State.stageReady (s : State) (st : Nat) (vals : List Nat) : Bool :=
  match st with
  | 1 => s.start.wave == 3
  | 6 => allPorts.all (fun (p : Fin 16) => [0, 5, 6].contains (s.reg (Key.portState p)))
  | 7 => decide (4 ≤ vals.getD 0 0 ∧ vals.getD 0 0 ≤ pcieOffered (s.fallbackOf 7)) && [4, 8, 16].contains (vals.getD 1 0)
  | _ => true

/-- A stage completes and the next one begins; after ST9 comes ST10, which cannot fail. -/
def State.stageDone (s : State) (st : Nat) (meas : List (List Byte)) (vals : List Nat) : State :=
  let s := ((s.measure st meas).stageWork st vals).setReg Key.startStage st
  if st = 9 then s.enterConfig else s.beginStage (st + 1)

/-! ### Failure of a stage (R418 to R421) -/

/-- The rails go down for 10 ms before the start begins again at ST1 (R419). -/
def State.startAgainSoon (s : State) : State :=
  s.railsDown.modStart (fun x => { x with stage := some 1, stageSince := s.now, againSince := some s.now })

/-- Ports still in training when the budget of ST6 ends are skipped (R414, R421). -/
def State.portsLate (s : State) : State :=
  s.forEach (allPorts.filter (fun (p : Fin 16) => !([0, 5, 6].contains (s.reg (Key.portState p))))) (fun s p =>
    (((s.setPortState p 6).setReg (Key.portStatus p) 2).setReg (Key.portRate p) 0).skipPort p 2 1)

/-- A stage fails: `items` are the failing parts with the reason of each; by its class it ends in SAFE state, raises its fallback count
and starts again, or is skipped (R418). -/
def State.stageFails (s : State) (st : Nat) (items : List (Nat × Nat)) : State :=
  let l := if items.isEmpty then [(0xFF, 1)] else items
  let record (kind : Nat) : State := s.forEach l (fun s x => s.startRecord kind st x.1 (s.fallbackOf st) x.2 s.elapsed 0)
  let safe : State := s.startSafe st (l.map (fun x => (x.1, x.2, 0)))
  match st with
  | 3 | 7 => if s.fallbackOf st < 3 then ((record 1).raiseFallback st).startAgainSoon else safe
  | 4 => if s.fallbackOf 4 < 3 then ((record 1).raiseFallback 4).startAgainSoon else (((record 2).degrade 16).noteCapacity).beginStage 5
  | 5 => ((((record 2).degrade 17).setReg Key.flashState 2).noteCapacity).beginStage 6
  | 6 => (s.portsLate.endPorts.setReg Key.startStage 6).beginStage 7
  | _ => safe

/-- Ticks of a count of milliseconds. -/
abbrev msTicks (ms : Nat) : Nat := ms * 100000

/-- The budget of the stage in progress has run out. -/
def State.stageLate (s : State) (st : Nat) : Bool := decide (s.start.stageSince + msTicks (stageBudget st) < s.now)

/-- STAGE_COMPLETE (R414): the stage in progress completes `ms` after the last event; one that completes past its budget has failed. -/
def execStageComplete (ms : Nat) (meas : List (List Byte)) (vals : List Nat) (s : State) : Host.Outcome State Fault Refusal :=
  .next (
    if !s.power.aux then s
    else
      let s := s.advance (msTicks ms)
      match s.start.stage with
      | none => s
      | some st =>
        if s.stageWaits st then s
        else if s.stageLate st then (s.measure st meas).stageFails st []
        else if !s.stageReady st vals then s
        else s.stageDone st meas vals)

/-- STAGE_BUDGET_EXPIRY (R414): the stage in progress fails; `items` are the parts that report a failure of their own, and with none
the budget has run out (R429); `meas` are the components it had loaded (R425). -/
def execStageBudgetExpiry (ms : Nat) (items : List (Nat × Nat)) (meas : List (List Byte)) (s : State) : Host.Outcome State Fault Refusal :=
  .next (
    if !s.power.aux then s
    else
      let s := s.advance (msTicks ms)
      match s.start.stage with
      | none => s
      | some st =>
        if s.stageWaits st then s
        else if items.isEmpty ∧ s.now < s.start.stageSince + msTicks (stageBudget st) then s
        else (s.measure st meas).stageFails st items)

/-! ### Built-in self-test (R416, R417) -/

/-- Slices of a wave. -/
def bistSlices : Nat → List Nat
  | 0 => [0] | 1 => [1, 2, 3, 4, 6, 7] | 2 => [5, 8, 9] | _ => []

/-- Result of a slice: 0 pass, 1 signature, 2 budget. -/
def State.bistOutcome (s : State) (i sig us : Nat) : Nat :=
  if sig ≠ s.bulkNat Key.bistReference (8 * i) 8 then 1 else if s.bulkNat Key.bistBudget (4 * i) 4 * 1000 < us then 2 else 0

/-- Every slice of a wave has ended: results are kept, and a failing slice ends the start in SAFE state with BIST_FAIL (R417). -/
def State.bistWave (s : State) (results : List (Nat × Nat × Nat)) : State :=
  let slices := bistSlices s.start.wave
  let got := slices.filterMap (fun i => (results.find? (fun r => r.1 == i)).map (fun r => (i, r.2.1, r.2.2, s.bistOutcome i r.2.1 r.2.2)))
  if got.length ≠ slices.length ∨ slices.isEmpty then s
  else
    let s := s.modStart (fun x => { x with bist := x.bist ++ got, wave := x.wave + 1 })
    let bad := got.filter (fun r => r.2.2.2 != 0)
    if bad.isEmpty then s
    else
      let s := s.startSafe 1 (bad.map (fun r => (r.1, if r.2.2.2 = 1 then 2 else 1, r.2.1)))
      s.setReg Key.moduleFaultPending (s.reg Key.moduleFaultPending ||| 2 ^ 14)

/-- BIST_WAVE_COMPLETE (R416). -/
def execBistWaveComplete (ms : Nat) (results : List (Nat × Nat × Nat)) (s : State) : Host.Outcome State Fault Refusal :=
  .next (
    let s := s.advance (msTicks ms)
    if s.start.stage = some 1 ∧ !s.stageWaits 1 ∧ s.power.aux then s.bistWave results else s)

/-- START_AGAIN (R419): the rails have been down for 10 ms. -/
def execStartAgain (dt : Nat) (s : State) : Host.Outcome State Fault Refusal :=
  .next (
    let s := s.advance dt
    match s.start.againSince with
    | none => s
    | some t => if t + 1000000 ≤ s.now ∧ s.power.input then s.beginAgain else s)

/-! ### Supplies (R434 to R437, R446) -/

/-- An input voltage is measured. -/
def State.noteVolts (s : State) (k mV : Nat) : State := s.setReg k (mV % 65536)

/-- AUX_POWER_UP (R435): above its lockout the auxiliary input starts ST0, which samples the straps (R205, R433). -/
def execAuxPowerUp (mV straps : Nat) (s : State) : Host.Outcome State Fault Refusal :=
  .next (
    if s.power.aux ∨ mV < 3000 then s
    else ((s.modPower (fun p => { p with aux := true, straps := straps % 8 })).noteVolts Key.auxVoltage mV).beginSt0)

/-- INPUT_IN_RANGE (R415, R424): a start that waits at the end of ST0, or one abandoned for want of input, goes on to ST1. -/
def execInputInRange (mV : Nat) (s : State) : Host.Outcome State Fault Refusal :=
  .next (
    let s := if s.power.aux then s.noteVolts Key.inputVoltage mV else s
    if mV < 46000 ∨ 56000 < mV ∨ s.power.input then s
    else
      let s := s.modPower (fun p => { p with input := true })
      if s.start.abandoned then s.beginAgain
      else if s.start.stage = some 1 ∧ s.start.againSince.isNone then s.beginStage 1
      else s)

/-- An alternative step that failed in the same millisecond in which the input is lost counts as not failed: its RESTARTED records and
the raise of its count are taken back (R429). -/
def State.takeBackFailure (s : State) : State × Nat :=
  let new (r : StartRec) : Bool := r.kind == 1 && r.start == s.reg Key.startCount && r.elapsed == s.elapsed
  match s.start.againSince, s.start.log.head? with
  | some _, some r =>
    if new r then
      let n := (s.start.log.takeWhile new).length
      let s := s.modStart (fun x => { x with
        log := x.log.drop n
        fallback := match fallbackIndex r.stage with | some i => x.fallback.set i r.fallback | none => x.fallback })
      (s.setReg Key.startLogHead (s.reg Key.startLogHead - n), r.stage)
    else (s, 1)
  | _, _ => (s, s.start.stage.getD 10)

/-- The 50 V input has left its range: after ST0 the rails go off, the start or the running module is recorded as interrupted, and the MC
waits for the input (R424, R437). A module held in SAFE state records nothing (R451), and after a failed ST0 it can begin no start. -/
def State.loseInput (s : State) : State :=
  let was := s.power.input
  let s := s.modPower (fun p => { p with input := false })
  if !was ∨ !s.power.aux ∨ s.start.stage = some 0 ∨ s.romStage then s
  else
    let x := s.takeBackFailure
    let s := if s.mstate = stSafe then s.railsDown
      else (x.1.startRecord 5 x.2 0xFF (x.1.fallbackOf x.2) 7 s.elapsed 0).railsDown
    s.modStart (fun x => { x with stage := some 1, stageSince := s.now, abandoned := true, againSince := none })

/-- INPUT_LOSS (R437): the 50 V input has stayed below 44.0 V for `dt`, 20 µs or more. -/
def execInputLoss (mV dt : Nat) (s : State) : Host.Outcome State Fault Refusal :=
  .next (
    let s := s.advance dt
    let s := if s.power.aux then s.noteVolts Key.inputVoltage mV else s
    if mV < 44000 ∧ 2000 ≤ dt then s.loseInput else s)

/-- AUX_LOSS (R437): below 2.9 V the whole module stops. -/
def execAuxLoss (mV : Nat) (s : State) : Host.Outcome State Fault Refusal :=
  .next (if s.power.aux ∧ mV < 2900 then s.powerOff false else s)

/-- OVERVOLTAGE (R434, R446): above its shutdown limit an input is shut off; above an absolute maximum rating nothing is promised. -/
def execOvervoltage (aux : Bool) (mV : Nat) (s : State) : Host.Outcome State Fault Refusal :=
  if aux then
    if 4000 < mV then .fault .ratingsExceeded
    else .next (if s.power.aux ∧ 3800 < mV then s.powerOff false else s)
  else
    if 60000 < mV then .fault .ratingsExceeded
    else
      let s := if s.power.aux then s.noteVolts Key.inputVoltage mV else s
      .next (if 58000 < mV then s.loseInput else s)

/-! ### Sideband pins (R433, R429, R451) -/

/-- MC_RESET (R433): `MC_RST#` low for `dt`, 10 µs or more, resets the whole module; a new start begins at ST0. -/
def execMcReset (dt : Nat) (s : State) : Host.Outcome State Fault Refusal :=
  .next (
    let s := s.advance dt
    if s.power.aux ∧ 1000 ≤ dt then
      let v := s.reg Key.auxVoltage
      ((s.powerOff true).noteVolts Key.auxVoltage v).beginSt0
    else s)

/-- PERST_ASSERT (R433): the host link is held in reset. -/
def execPerstAssert (s : State) : Host.Outcome State Fault Refusal :=
  .next (((s.modPower (fun p => { p with perst := true })).setReg Key.hostLinkGen 0).setReg Key.hostLinkWidth 0)

/-- PERST_DEASSERT (R415, R429, R433): ST7 begins, or from ST8 on the host link retrains, at a generation and width that are not given
(log 86). -/
def execPerstDeassert (s : State) : Host.Outcome State Fault Refusal :=
  .next (
    if !s.power.perst then s
    else
      let s := s.modPower (fun p => { p with perst := false })
      if s.start.stage = some 7 then s.modStart (fun x => { x with stageSince := s.now })
      else if s.mstate = stSafe ∨ (match s.start.stage with | some st => decide (st < 8) | none => false) = true then s
      else
        let g := s.free 74
        let w := g.2.free 75
        (w.2.setReg Key.hostLinkGen (4 + g.1 % (pcieOffered (s.fallbackOf 7) - 3))).setReg Key.hostLinkWidth (2 ^ (2 + w.1 % 3)))

/-- `PG`: released from the end of ST1 while the core rails regulate (R433). -/
def State.pinPg (s : State) : Bool :=
  s.power.railsOn && (match s.start.stage with | some st => decide (2 ≤ st) | none => true)

/-- `ALERT#` is low (R433). -/
def State.pinAlert (s : State) : Bool := s.reg Key.moduleFaultPending != 0 || s.reg Key.thermalState == 1

/-- FIELD_NETWORK_LINK (R439). -/
def execFieldNetworkLink (up : Bool) (s : State) : Host.Outcome State Fault Refusal :=
  .next (if s.power.aux then s.setReg Key.fieldLinkUp (if up then 1 else 0) else s)

end Sys2Proof.Machine
end

