-- ==== Sys2Proof/Machine/Power.lean ====
section
/-! DEFINITION. Clock faults, temperatures, emergency throttling and shutdown (spec/15, R289; spec/08, R162; spec/18, R362, R364;
spec/20, R408, R409; spec/22, R443, R444), the detachment of the Local Flash Store (R410, R413), and their rows. -/
namespace Sys2Proof.Machine

/-- CLOCK_FAULT (R289): the PLL loses lock, or REFCLK departs by more than 200 ppm. Issue stops, an event is logged and SAFE state is
entered; a start in progress ends in it (R423). -/
def execClockFault (pllLost : Bool) (s : State) : Host.Outcome State Fault Refusal :=
  .next (
    if !s.time.gcRunning ∨ s.mstate = stSafe then s
    else
      let v := s.reg Key.clockStatus
      let s := s.setReg Key.clockStatus (if pllLost then v &&& 2 else v &&& 1)
      let s := s.log sevWarning noCtx 0x0D none32 Key.clockStatus (s.reg Key.clockStatus)
      match s.start.stage with
      | some st => s.startSafe st [(0xFF, 3, 0)]
      | none => s.enterSafe true)

/-! ### Temperatures -/

/-- A stack above 85 °C refreshes in every slot; at 80 °C or below the second that ends it counts (R162). -/
def State.refreshRate (s : State) (st : Fin 8) (mC : Int) : State :=
  let v := s.reg Key.refreshDoubled
  if 85000 < mC then
    (s.setReg Key.refreshDoubled (v ||| 2 ^ st.val)).modStack st (fun x => { x with coolSince := none })
  else if mC ≤ 80000 then
    (if bit v st then s.modStack st (fun x => { x with coolSince := some (x.coolSince.getD s.now) }) else s)
  else s.modStack st (fun x => { x with coolSince := none })

/-- Every sensor is at least 3 °C below its emergency threshold (R444). -/
def State.allCool (s : State) : Bool := (List.range 16).all (fun i => decide (s.temperature i + 3000 ≤ s.emergencyLimit i))

/-- A sensor is read (R408). -/
def State.sample (s : State) (sensor : Fin 16) (mC : Int) : State :=
  let s := s.setBulk Key.tempSensors (4 * sensor.val) (leBytes 4 (ofSigned 32 mC))
  let s := s.setRegI Key.thermalMargin s.margin
  let s := s.modPower (fun p => { p with coolSince := if s.allCool then some (p.coolSince.getD s.now) else none })
  match stackIndex? (sensor.val - 5) with
  | some st => if 5 ≤ sensor.val then s.refreshRate st mC else s
  | none => s

/-- TEMPERATURE_SAMPLE (R408). -/
def execTemperatureSample (sensor : Fin 16) (mC : Int) (s : State) : Host.Outcome State Fault Refusal :=
  .next (if s.power.aux then s.sample sensor mC else s)

/-- Emergency throttling begins: cap 900 W at once, ramp load cells out, crab signals (R284, R362, R444). -/
def State.beginEmergency (s : State) (sensor : Nat) : State :=
  let s := (s.setReg Key.thermalState 1).bump Key.thermalEmergencyCount 1
  let s := s.modPower (fun p => { p with capBefore := s.reg Key.powerCapInForce })
  let s := (s.setCap emergencyCap).modTime (fun t => { t with ramp := none })
  (s.logModule 0x80 sevModule 0x10 Key.thermalState sensor).crabAll

/-- THERMAL_EMERGENCY (R444): a sensor reaches its emergency threshold. -/
def execThermalEmergency (sensor : Fin 16) (mC : Int) (s : State) : Host.Outcome State Fault Refusal :=
  .next (
    if !s.power.aux then s
    else
      let s := s.sample sensor mC
      if s.emergencyLimit sensor ≤ mC ∧ !s.emergency ∧ s.power.railsOn ∧ s.mstate ≠ stSafe then s.beginEmergency sensor else s)

/-- THERMAL_EMERGENCY_END (R444): every sensor has been cool for 10 ms; the cap of before returns, the bit is set once more, issue
resumes (R364). -/
def execThermalEmergencyEnd (dt : Nat) (s : State) : Host.Outcome State Fault Refusal :=
  .next (
    let s := s.advance dt
    match s.power.coolSince with
    | none => s
    | some t =>
      if s.emergency ∧ t + 1000000 ≤ s.now then
        let s := (s.setReg Key.thermalState 0).setCap s.power.capBefore
        (s.logModule 0x80 sevInfo 0x10 Key.thermalState 0).settle
      else s)

/-- THERMAL_SHUTDOWN (R444): a sensor reaches its shutdown threshold; SAFE state with the core rails off. -/
def execThermalShutdown (sensor : Fin 16) (mC : Int) (s : State) : Host.Outcome State Fault Refusal :=
  .next (
    if !s.power.aux then s
    else
      let s := s.sample sensor mC
      if s.shutdownLimit sensor ≤ mC ∧ s.power.railsOn ∧ s.mstate ≠ stSafe then
        match s.start.stage with
        | some st => (s.startSafe st [(0xFF, 0, 0)]).modPower (fun p => { p with railsOn := false })
        | none => s.enterSafe false
      else s)

/-- EMERGENCY_ISSUE_WINDOW (R444): in the first 250 ns of a microsecond withheld blocks and commands may issue. -/
def execEmergencyIssueWindow (dt : Nat) (s : State) : Host.Outcome State Fault Refusal :=
  .next (
    let s := s.advance dt
    if s.emergency ∧ s.issueWindow then s.settle else s)

/-! ### The Local Flash Store (R347, R410, R413) -/

/-- FLASH_DETACHED (R413): a checkpoint being written ends FLASH_FAILED, a transfer ends ABORTED, and no COLD capacity is left. How much a
transfer has moved is not stated (log 68). -/
def execFlashDetached (s : State) : Host.Outcome State Fault Refusal :=
  .next (
    if !s.flashAttached then s
    else
      let s := s.setReg Key.flashState 0
      let s := if s.ckpt.run.isSome then (s.ckptDrop 3).log sevWarning noCtx 0x0F none32 Key.ckptLastStatus 3 else s
      let s := match s.ckpt.xfer with
        | some x =>
          let f := s.free 65
          ((f.2.modCkpt (fun k => { k with xfer := none })).setReg Key.ckptXferStatus 3).setReg Key.ckptXferBytes (f.1 % (x.2.2.2.1 + 1))
        | none => s
      s.noteCapacity)

end Sys2Proof.Machine
end

