-- ==== Sys2Proof/Machine/Dispatch.lean ====
section
/-! DEFINITION. The dispatch of a command to its meaning: one arm per constructor of Instr. -/
namespace Sys2Proof.Machine

def exec (i : Instr) (s : State) : Host.Outcome State Fault Refusal :=
  match i with
  | .imageLoad blocks => Sys2Proof.Machine.execImageLoad blocks s
  | .imageUnload => Sys2Proof.Machine.execImageUnload s
  | .doorbell c q tail => Sys2Proof.Machine.execDoorbell c q tail s
  | .block c q found => Sys2Proof.Machine.execBlock c q found s
  | .broadcast c q found => Sys2Proof.Machine.execBroadcast c q found s
  | .dispatch c q found => Sys2Proof.Machine.execDispatch c q found s
  | .combine c q found => Sys2Proof.Machine.execCombine c q found s
  | .allReduce c q found => Sys2Proof.Machine.execAllReduce c q found s
  | .reduceScatter c q found => Sys2Proof.Machine.execReduceScatter c q found s
  | .allGather c q found => Sys2Proof.Machine.execAllGather c q found s
  | .collectiveBroadcast c q found => Sys2Proof.Machine.execCollectiveBroadcast c q found s
  | .allToAll c q found => Sys2Proof.Machine.execAllToAll c q found s
  | .barrier c q => Sys2Proof.Machine.execBarrier c q s
  | .copyLocal c q found => Sys2Proof.Machine.execCopyLocal c q found s
  | .put c q found => Sys2Proof.Machine.execPut c q found s
  | .get c q => Sys2Proof.Machine.execGet c q s
  | .atomicList c q found => Sys2Proof.Machine.execAtomicList c q found s
  | .fetch c q => Sys2Proof.Machine.execFetch c q s
  | .commit c q => Sys2Proof.Machine.execCommit c q s
  | .launchTick c q dt found => Sys2Proof.Machine.execLaunchTick c q dt found s
  | .commitPoint c q found => Sys2Proof.Machine.execCommitPoint c q found s
  | .completionAck c n => Sys2Proof.Machine.execCompletionAck c n s
  | .stepBoundary c => Sys2Proof.Machine.execStepBoundary c s
  | .preempt mask => Sys2Proof.Machine.execPreempt mask s
  | .resume mask => Sys2Proof.Machine.execResume mask s
  | .blockBudgetExpiry c q => Sys2Proof.Machine.execBlockBudgetExpiry c q s
  | .commandBudgetExpiry c q dt => Sys2Proof.Machine.execCommandBudgetExpiry c q dt s
  | .teardownComplete c => Sys2Proof.Machine.execTeardownComplete c s
  | .actDetected c q handle addr => Sys2Proof.Machine.execActDetected c q handle addr s
  | .blockWaitResume c q tile dt found => Sys2Proof.Machine.execBlockWaitResume c q tile dt found s
  | .nearStreamStallEnd c q tile found => Sys2Proof.Machine.execNearStreamStallEnd c q tile found s
  | .waitFeather c q tile dt => Sys2Proof.Machine.execWaitFeather c q tile dt s
  | .hostMemRead addr len found => Sys2Proof.Machine.execHostMemRead addr len found s
  | .hostMemWrite addr data found => Sys2Proof.Machine.execHostMemWrite addr data found s
  | .refreshSlot stack dt found => Sys2Proof.Machine.execRefreshSlot stack dt found s
  | .forcedRefresh stack dt => Sys2Proof.Machine.execForcedRefresh stack dt s
  | .temperatureSample sensor mC => Sys2Proof.Machine.execTemperatureSample sensor mC s
  | .refreshDoubledClear stack dt => Sys2Proof.Machine.execRefreshDoubledClear stack dt s
  | .scrubRead chan found => Sys2Proof.Machine.execScrubRead chan found s
  | .scrubWriteback addr => Sys2Proof.Machine.execScrubWriteback addr s
  | .errorRateUpdate dt => Sys2Proof.Machine.execErrorRateUpdate dt s
  | .planComplete => Sys2Proof.Machine.execPlanComplete s
  | .moveComplete handle owner data crcOk => Sys2Proof.Machine.execMoveComplete handle owner data crcOk s
  | .planDigest digest => Sys2Proof.Machine.execPlanDigest digest s
  | .codecTileDone handle tile data crcOk => Sys2Proof.Machine.execCodecTileDone handle tile data crcOk s
  | .stagingHint layer expert => Sys2Proof.Machine.execStagingHint layer expert s
  | .landing port tag layer key experts relay first total row => Sys2Proof.Machine.execLanding port tag layer key experts relay first total row s
  | .poolWaitGrant pool => Sys2Proof.Machine.execPoolWaitGrant pool s
  | .mergeList tag layer key down cands => Sys2Proof.Machine.execMergeList tag layer key down cands s
  | .returnArrival port tag layer key expert first total row => Sys2Proof.Machine.execReturnArrival port tag layer key expert first total row s
  | .mirrorArrival ctx layer rows step pass data => Sys2Proof.Machine.execMirrorArrival ctx layer rows step pass data s
  | .portEnable p => Sys2Proof.Machine.execPortEnable p s
  | .portDisable p => Sys2Proof.Machine.execPortDisable p s
  | .detectComplete p => Sys2Proof.Machine.execDetectComplete p s
  | .trainComplete p ppm skew inverted reversed => Sys2Proof.Machine.execTrainComplete p ppm skew inverted reversed s
  | .caps p fl other => Sys2Proof.Machine.execCaps p fl other s
  | .verifyEnd p crcFails corrected => Sys2Proof.Machine.execVerifyEnd p crcFails corrected s
  | .trainAttemptTimeout p dt => Sys2Proof.Machine.execTrainAttemptTimeout p dt s
  | .retryWaitEnd p dt => Sys2Proof.Machine.execRetryWaitEnd p dt s
  | .linkMsgRepeat p dt => Sys2Proof.Machine.execLinkMsgRepeat p dt s
  | .boundary p fl tag => Sys2Proof.Machine.execBoundary p fl tag s
  | .boundaryAck p fl tag => Sys2Proof.Machine.execBoundaryAck p fl tag s
  | .tagSet p fl tag => Sys2Proof.Machine.execTagSet p fl tag s
  | .tagSetAck p fl tag => Sys2Proof.Machine.execTagSetAck p fl tag s
  | .resync p fl => Sys2Proof.Machine.execResync p fl s
  | .resyncMark p fl => Sys2Proof.Machine.execResyncMark p fl s
  | .creditSet p fl free => Sys2Proof.Machine.execCreditSet p fl free s
  | .latProbe p fl seq hold => Sys2Proof.Machine.execLatProbe p fl seq hold s
  | .latEcho p fl seq hold roundTrip => Sys2Proof.Machine.execLatEcho p fl seq hold roundTrip s
  | .latencyRemeasure p dt => Sys2Proof.Machine.execLatencyRemeasure p dt s
  | .flitCrcFail p kind corrected => Sys2Proof.Machine.execFlitCrcFail p kind corrected s
  | .abortFlit p fl => Sys2Proof.Machine.execAbortFlit p fl s
  | .orphanFlit p fl tag tc vc => Sys2Proof.Machine.execOrphanFlit p fl tag tc vc s
  | .beacon p fl b => Sys2Proof.Machine.execBeacon p fl b s
  | .lockLost p => Sys2Proof.Machine.execLockLost p s
  | .crcBurst p fails => Sys2Proof.Machine.execCrcBurst p fails s
  | .linkSilenceEnd p dt => Sys2Proof.Machine.execLinkSilenceEnd p dt s
  | .partitionJoin tag => Sys2Proof.Machine.execPartitionJoin tag s
  | .partitionTeardown => Sys2Proof.Machine.execPartitionTeardown s
  | .transitTagsWrite p tags => Sys2Proof.Machine.execTransitTagsWrite p tags s
  | .boundaryTimeout p tag dt => Sys2Proof.Machine.execBoundaryTimeout p tag dt s
  | .packetArrival p fl pk => Sys2Proof.Machine.execPacketArrival p fl pk s
  | .packetAccept pk => Sys2Proof.Machine.execPacketAccept pk s
  | .ack src streams => Sys2Proof.Machine.execAck src streams s
  | .retryTimerExpiry txn dt => Sys2Proof.Machine.execRetryTimerExpiry txn dt s
  | .skip src tc seq => Sys2Proof.Machine.execSkip src tc seq s
  | .linkState dim port up coord => Sys2Proof.Machine.execLinkState dim port up coord s
  | .heartbeatSend dt => Sys2Proof.Machine.execHeartbeatSend dt s
  | .heartbeat src tick => Sys2Proof.Machine.execHeartbeat src tick s
  | .heartbeatDeclare a dt => Sys2Proof.Machine.execHeartbeatDeclare a dt s
  | .memberLost line a copy tick => Sys2Proof.Machine.execMemberLost line a copy tick s
  | .rankRemap v => Sys2Proof.Machine.execRankRemap v s
  | .niFailedClear v => Sys2Proof.Machine.execNiFailedClear v s
  | .load src ctx txn off len found => Sys2Proof.Machine.execLoad src ctx txn off len found s
  | .store src ctx txn off data found => Sys2Proof.Machine.execStore src ctx txn off data found s
  | .atomic src ctx txn off op size noReturn operand compare found => Sys2Proof.Machine.execAtomic src ctx txn off op size noReturn operand compare found s
  | .signal src ctx counter increment => Sys2Proof.Machine.execSignal src ctx counter increment s
  | .loadData txn status data => Sys2Proof.Machine.execLoadData txn status data s
  | .atomicData txn status old => Sys2Proof.Machine.execAtomicData txn status old s
  | .mfResponseTimeout txn dt => Sys2Proof.Machine.execMfResponseTimeout txn dt s
  | .enter src crew round inst att sig => Sys2Proof.Machine.execEnter src crew round inst att sig s
  | .stroke src crew num stage inst att first elems upsets => Sys2Proof.Machine.execStroke src crew num stage inst att first elems upsets s
  | .scan src crew round num stage inst att first vals => Sys2Proof.Machine.execScan src crew round num stage inst att first vals s
  | .crewAbort src crew origin inst att code => Sys2Proof.Machine.execCrewAbort src crew origin inst att code s
  | .strokeTimeout c q dt => Sys2Proof.Machine.execStrokeTimeout c q dt s
  | .abortSettle c q dt => Sys2Proof.Machine.execAbortSettle c q dt s
  | .takeoverWait c q dt => Sys2Proof.Machine.execTakeoverWait c q dt s
  | .clockFault pllLost => Sys2Proof.Machine.execClockFault pllLost s
  | .upstreamLost dt => Sys2Proof.Machine.execUpstreamLost dt s
  | .gcValueRead => Sys2Proof.Machine.execGcValueRead s
  | .hostTimeWrite t => Sys2Proof.Machine.execHostTimeWrite t s
  | .ptmDialog t dt => Sys2Proof.Machine.execPtmDialog t dt s
  | .rampStart c q dt => Sys2Proof.Machine.execRampStart c q dt s
  | .rampEnd dt => Sys2Proof.Machine.execRampEnd dt s
  | .parityDelta src stripe gen slot row first total granules => Sys2Proof.Machine.execParityDelta src stripe gen slot row first total granules s
  | .groupDone gen index => Sys2Proof.Machine.execGroupDone gen index s
  | .groupRecord gen => Sys2Proof.Machine.execGroupRecord gen s
  | .groupState recorded opened units index flags => Sys2Proof.Machine.execGroupState recorded opened units index flags s
  | .codedReportWait index dt => Sys2Proof.Machine.execCodedReportWait index dt s
  | .takeover line rank spare copy tick => Sys2Proof.Machine.execTakeover line rank spare copy tick s
  | .rebuildStart gen view index layout ranks spares => Sys2Proof.Machine.execRebuildStart gen view index layout ranks spares s
  | .decodeRead stripe view index coeff req next pos => Sys2Proof.Machine.execDecodeRead stripe view index coeff req next pos s
  | .decodeTerm req stripe pos data => Sys2Proof.Machine.execDecodeTerm req stripe pos data s
  | .decodeData req stripe index data => Sys2Proof.Machine.execDecodeData req stripe index data s
  | .codedRevert gen => Sys2Proof.Machine.execCodedRevert gen s
  | .earlyWarningCheck dt => Sys2Proof.Machine.execEarlyWarningCheck dt s
  | .ckptPreemptNotice => Sys2Proof.Machine.execCkptPreemptNotice s
  | .ckptSoftwareRequest => Sys2Proof.Machine.execCkptSoftwareRequest s
  | .ckptRequest line target origin reason copy tick => Sys2Proof.Machine.execCkptRequest line target origin reason copy tick s
  | .ckptWriteDone => Sys2Proof.Machine.execCkptWriteDone s
  | .flashProgramFail remapped => Sys2Proof.Machine.execFlashProgramFail remapped s
  | .ckptXferDesc desc => Sys2Proof.Machine.execCkptXferDesc desc s
  | .xferComplete data => Sys2Proof.Machine.execXferComplete data s
  | .ckptRestore ceiling => Sys2Proof.Machine.execCkptRestore ceiling s
  | .ckptTile shard step tile piece data => Sys2Proof.Machine.execCkptTile shard step tile piece data s
  | .restoreComplete flashOk => Sys2Proof.Machine.execRestoreComplete flashOk s
  | .ctxResident c => Sys2Proof.Machine.execCtxResident c s
  | .ctxRelease c => Sys2Proof.Machine.execCtxRelease c s
  | .ctxClear c => Sys2Proof.Machine.execCtxClear c s
  | .ctxStepSet c v => Sys2Proof.Machine.execCtxStepSet c v s
  | .ctxFaultAck c w => Sys2Proof.Machine.execCtxFaultAck c w s
  | .moduleFaultAck w => Sys2Proof.Machine.execModuleFaultAck w s
  | .eventAck w => Sys2Proof.Machine.execEventAck w s
  | .stateRequestConfig => Sys2Proof.Machine.execStateRequestConfig s
  | .stateRequestRun => Sys2Proof.Machine.execStateRequestRun s
  | .registerWrite addr v => Sys2Proof.Machine.execRegisterWrite addr v s
  | .u64LowRead addr => Sys2Proof.Machine.execU64LowRead addr s
  | .u64HighRead addr => Sys2Proof.Machine.execU64HighRead addr s
  | .u64LowWrite addr v => Sys2Proof.Machine.execU64LowWrite addr v s
  | .u64HighWrite addr v => Sys2Proof.Machine.execU64HighWrite addr v s
  | .bulkSelect v => Sys2Proof.Machine.execBulkSelect v s
  | .bulkApertureWrite off v => Sys2Proof.Machine.execBulkApertureWrite off v s
  | .bulkCommit => Sys2Proof.Machine.execBulkCommit s
  | .configCrcRef v => Sys2Proof.Machine.execConfigCrcRef v s
  | .configCrcPassEnd ms => Sys2Proof.Machine.execConfigCrcPassEnd ms s
  | .configCrcGrace dt => Sys2Proof.Machine.execConfigCrcGrace dt s
  | .dxpOpen d offer want => Sys2Proof.Machine.execDxpOpen d offer want s
  | .dxpClose d => Sys2Proof.Machine.execDxpClose d s
  | .dxpKeepalive d => Sys2Proof.Machine.execDxpKeepalive d s
  | .dxpRead d => Sys2Proof.Machine.execDxpRead d s
  | .dxpWrite d => Sys2Proof.Machine.execDxpWrite d s
  | .dxpDescribe d => Sys2Proof.Machine.execDxpDescribe d s
  | .dxpSessionTimeout session dt => Sys2Proof.Machine.execDxpSessionTimeout session dt s
  | .compatLevel v => Sys2Proof.Machine.execCompatLevel v s
  | .quoteNonce nonce => Sys2Proof.Machine.execQuoteNonce nonce s
  | .quoteSigned => Sys2Proof.Machine.execQuoteSigned s
  | .quoteRead d => Sys2Proof.Machine.execQuoteRead d s
  | .powerCap v => Sys2Proof.Machine.execPowerCap v s
  | .startFallbackReset => Sys2Proof.Machine.execStartFallbackReset s
  | .thermalEmergency sensor mC => Sys2Proof.Machine.execThermalEmergency sensor mC s
  | .thermalEmergencyEnd dt => Sys2Proof.Machine.execThermalEmergencyEnd dt s
  | .thermalShutdown sensor mC => Sys2Proof.Machine.execThermalShutdown sensor mC s
  | .auxPowerUp mV straps => Sys2Proof.Machine.execAuxPowerUp mV straps s
  | .inputInRange mV => Sys2Proof.Machine.execInputInRange mV s
  | .inputLoss mV dt => Sys2Proof.Machine.execInputLoss mV dt s
  | .auxLoss mV => Sys2Proof.Machine.execAuxLoss mV s
  | .overvoltage aux mV => Sys2Proof.Machine.execOvervoltage aux mV s
  | .mcReset dt => Sys2Proof.Machine.execMcReset dt s
  | .perstAssert => Sys2Proof.Machine.execPerstAssert s
  | .perstDeassert => Sys2Proof.Machine.execPerstDeassert s
  | .stageComplete ms meas vals => Sys2Proof.Machine.execStageComplete ms meas vals s
  | .stageBudgetExpiry ms items meas => Sys2Proof.Machine.execStageBudgetExpiry ms items meas s
  | .bistWaveComplete ms results => Sys2Proof.Machine.execBistWaveComplete ms results s
  | .startAgain dt => Sys2Proof.Machine.execStartAgain dt s
  | .imageLoadEnd dt => Sys2Proof.Machine.execImageLoadEnd dt s
  | .flashDetached => Sys2Proof.Machine.execFlashDetached s
  | .fieldNetworkLink up => Sys2Proof.Machine.execFieldNetworkLink up s
  | .memberLostCopy a dt => Sys2Proof.Machine.execMemberLostCopy a dt s
  | .emergencyIssueWindow dt => Sys2Proof.Machine.execEmergencyIssueWindow dt s
  | .ckptVersionRead handle unit => Sys2Proof.Machine.execCkptVersionRead handle unit s

end Sys2Proof.Machine
end

