-- ==== Sys2Proof/Machine/Step.lean ====
section
/-! DEFINITION. One step of the block: the command at the front of the queue, or one tick of time. -/
namespace Sys2Proof.Machine

/-- Take the command at the front of the queue and run its meaning with the queue's rest; on an empty queue one
10 ns tick of the module's own clock passes (log 1). -/
def step (s : State) : Host.Outcome State Fault Refusal :=
  match s.pending with
  | [] => .next (s.advance 1)
  | i :: rest => exec i { s with pending := rest }

/-- `s` with the command that the word spells in front of its queue; no word spells one (log 3). -/
def State.withFetchWord (s : State) (nbits w : Nat) : State :=
  match decodeTableWord nbits w with
  | some i => { s with pending := i :: s.pending }
  | none => s

end Sys2Proof.Machine
end

