-- ==== Sys2Proof/Safety.lean ====
section
/-! DEFINITION. What the statements call a sound state and a safe step, and the conditions they share: canonical memories, a step
that does not stop, an open register window, a command ready to issue, and what a change leaves as it was. -/
namespace Sys2Proof.Safety
open Sys2Proof.Machine

/-- The byte memories and the dictionary's values are in canonical form. -/
def Canonical (s : State) : Prop :=
  sparseWf dictDefault s.regs = true ∧ sparseWf bulkDefaultAt s.bulk = true ∧ Memory.wf s.mem.cells = true ∧
  Memory.wf s.mem.reserve = true ∧ Memory.wf s.mem.flash = true

/-- The step answers a next state: it neither faults nor is refused. -/
def Runs (s : State) : Prop := ∃ t, step s = .next t

/-- The register window answers, and no access before has left a latch armed or a low word held (R384, R385, R433). -/
def WindowOpen (s : State) : Prop := s.hostLink = true ∧ s.acc.latch = none ∧ s.acc.heldLow = none

/-- The register window answers, and the module is in CONFIG or RUN, in which entries may be written (R374, R378). -/
def RegistersOpen (s : State) : Prop := WindowOpen s ∧ s.started = true ∧ (s.mstate = stConfig ∨ s.mstate = stRun)

/-- Every scalar entry but those listed reads as before. -/
def OnlyRegs (ks : List Nat) (s t : State) : Prop := ∀ k, k ∉ ks → t.reg k = s.reg k

/-- The run at the head of a queue may issue now: everything R27, R28, R34 and R379 ask for, emergency throttling does not withhold
it (R444), and no bound holds it (R246, R359). -/
def Ready (s : State) (c : Fin 4) (q : Fin 8) (r : Run) : Prop :=
  s.run c q = some r ∧ s.readyToIssue c q r = true ∧ s.issueWindow = true ∧ s.boundAt c r.cmd = none

/-- `t` differs from `s` at most in the dictionary's scalar values. -/
def SameButRegs (s t : State) : Prop := { t with regs := s.regs } = s

end Sys2Proof.Safety
end

