-- ==== Sys2Proof/Certificates/Slice0/Obligations.lean ====
section
/-! DEFINITION. The statements for the provers: what the commands of the block do, family by family. -/
open Sys2Proof Sys2Proof.Machine

/-- A step is the front command on the state with the queue’s rest (spec/95: each row is one whole step). -/
def Obligations.StepRunsTheFrontCommand : Prop :=
  ∀ (i : Instr) (s : State) (rest : List Instr), s.pending = i :: rest → step s = exec i { s with pending := rest }

/-- An idle step is one 10 ns tick: the model’s choice (log 1), no rule of the spec. -/
def Obligations.EmptyQueueLetsOneTickPass : Prop :=
  ∀ s : State, s.pending = [] →
    ∃ t, step s = .next t ∧ t.now = s.now + 1 ∧
      { t with regs := s.regs, time := s.time, ports := s.ports, out := { t.out with idle := s.out.idle } } = s ∧
      (∀ p : Fin 16, { t.port p with freed := (s.port p).freed, sinceIdle := (s.port p).sinceIdle } = s.port p) ∧
      Safety.OnlyRegs [Key.niBoundStallTicks, Key.thermalEmergencyTicks] s t

/-- The invariant of EveryStepKeepsMemoriesCanonical holds at reset. -/
def Obligations.ResetStateIsCanonical : Prop :=
  Safety.Canonical State.reset

/-- What reset leaves (R355, R414, R423); START_COUNT 1 is log 18. -/
def Obligations.ResetLeavesAStartInStage0 : Prop :=
  State.reset.start.stage = some 0 ∧ State.reset.started = false ∧ State.reset.reg Key.startCount = 1 ∧ State.reset.image = none ∧
    (∀ c : Fin 4, State.reset.cstate c = cxAbsent) ∧ State.reset.events = [] ∧ State.reset.pending = [] ∧
    State.reset.reg Key.startSafeStage = 0xFF ∧ State.reset.reg Key.imageStatus = 0xFF

/-- Keys strictly rising and no entry equal to what an unlisted key reads as: kept by every step, of whatever command. -/
def Obligations.EveryStepKeepsMemoriesCanonical : Prop :=
  ∀ s t : State, Safety.Canonical s → step s = .next t → Safety.Canonical t

/-- exec is the command’s effect on everything but the queue. -/
def Obligations.CommandsLeaveTheQueueAlone : Prop :=
  ∀ (i : Instr) (s t : State), exec i s = .next t → t.pending = s.pending

/-- The model’s only stop (R446): no fault or refusal of any other command. -/
def Obligations.OnlyRatingsStopTheModule : Prop :=
  ∀ (i : Instr) (s : State), (∃ t, exec i s = .next t) ∨
    ∃ aux mV, i = .overvoltage aux mV ∧ (if aux then 4000 else 60000) < mV ∧ exec i s = .fault .ratingsExceeded

/-- Issue of each kind of command (R27, R34 and the rules of the kinds). -/
def Obligations.ReadyCommandsIssueAndStart : Prop :=
  ∀ (s : State) (c : Fin 4) (q : Fin 8) (r : Run) (found : List (Nat × Finding)), r.plainIssue = true →
    (let u := s.tellFound c 0 found
     Safety.Ready u c q r → r.cmd.kind = 1 → exec (.block c q found) s = .next ((u.startRun c q r).blockStart c q)) ∧
    (let u := s.tellFound c 3 found
     Safety.Ready u c q r →
      (∀ e, r.cmd.exchRec = some e →
        (e.role = 1 → exec (.broadcast c q found) s =
          .next ((((u.startRun c q r).exchangeInit c q).broadcastStart c q).drainFails)) ∧
        (e.role = 2 → exec (.dispatch c q found) s =
          .next (((((u.startRun c q r).exchangeInit c q).dispatchBegins c q).dispatchStart c q).drainFails)) ∧
        (e.role = 3 → exec (.combine c q found) s = .next ((u.startRun c q r).exchangeInit c q))) ∧
      (∀ p, r.cmd.collRec = some p →
        (p.op = opAllReduce → exec (.allReduce c q found) s = .next ((u.startRun c q r).collStart c q)) ∧
        (p.op = opReduceScatter → exec (.reduceScatter c q found) s = .next ((u.startRun c q r).collStart c q)) ∧
        (p.op = opAllGather → exec (.allGather c q found) s = .next ((u.startRun c q r).collStart c q)) ∧
        (p.op = opBroadcast → exec (.collectiveBroadcast c q found) s = .next ((u.startRun c q r).collStart c q)) ∧
        (p.op = opAllToAll → exec (.allToAll c q found) s = .next ((u.startRun c q r).collStart c q))) ∧
      (∀ p, r.cmd.copyRec = some p →
        (p.op = 1 → exec (.copyLocal c q found) s = .next ((u.startRun c q r).copyStart c q)) ∧
        (p.op = 2 → exec (.put c q found) s = .next ((u.startRun c q r).copyStart c q)) ∧
        (p.op = 4 → exec (.atomicList c q found) s = .next ((u.startRun c q r).copyStart c q)))) ∧
    (Safety.Ready s c q r →
      (∀ p, r.cmd.collRec = some p → p.op = opBarrier → exec (.barrier c q) s = .next ((s.startRun c q r).collStart c q)) ∧
      (∀ p, r.cmd.copyRec = some p → p.op = 3 → exec (.get c q) s = .next ((s.startRun c q r).copyStart c q)) ∧
      (r.cmd.fetchRec.isSome = true → exec (.fetch c q) s = .next ((s.startRun c q r).fetchStart c q)) ∧
      (r.cmd.kind = 6 → exec (.commit c q) s = .next (s.startRun c q r)))

/-- R28, R297: an AT_TICK entry issues once its launch tick is reached, and not before. -/
def Obligations.LaunchTickIssuesADueEntry : Prop :=
  ∀ (s : State) (c : Fin 4) (q : Fin 8) (dt : Nat) (found : List (Nat × Finding)) (r r' : Run),
    let u := (s.advance dt).tellFound c ((s.advance dt).issueReader c q) found
    Safety.Ready u c q r → bit r.entry.flags 0 = true → r.phase = .waiting → (u.startRun c q r).run c q = some r' →
      r.entry.launch ≤ u.tick ∧
      exec (.launchTick c q dt found) s = .next
        ((if (u.startRun c q r).rampCovers r' then u.startRun c q r else (u.startRun c q r).freeDraw).startKind c q)

/-- What issue leaves in the queue (R27, R36, R38). -/
def Obligations.IssueSetsTheRunGoing : Prop :=
  ∀ (s : State) (c : Fin 4) (q : Fin 8) (r : Run), s.run c q = some r →
    let late := if r.phase = .waiting ∧ bit r.entry.flags 0 = true then s.tick - r.entry.launch else 0
    (∃ r', (s.startRun c q r).run c q = some r' ∧ r'.phase = (if r.repairOf.isSome then .repair else .running) ∧
      r'.timer = late ∧ r'.issuedAt = (if late = 0 then r.budgetFrom.getD s.now else s.now) ∧
      r'.entry = r.entry ∧ r'.cmd = r.cmd ∧ r'.stall = none ∧
      r'.reruns = (if r.phase = .waiting ∨ r.repairOf.isSome = true then r.reruns else r.reruns + 1)) ∧
    ((s.startRun c q r).ctx c).issued = (s.ctx c).issued + (if r.phase = .waiting then 1 else 0) ∧
    (∀ c' q', (c', q') ≠ (c, q) → (s.startRun c q r).run c' q' = s.run c' q') ∧
    (s.startRun c q r).image = s.image ∧ (s.startRun c q r).ports = s.ports ∧ (s.startRun c q r).time = s.time

/-- R31: the commit point is one indivisible action. -/
def Obligations.CommitPointCommitsAFinishedCommand : Prop :=
  ∀ (s : State) (c : Fin 4) (q : Fin 8) (found : List (Nat × Finding)) (r : Run),
    let u := s.tellFound c 3 found
    u.run c q = some r → r.cmd.kind ≠ 6 → r.phase = .atCommit → r.hard = false →
    u.missedBudget r = none → (r.repairOf.isSome = true ∨ u.ringRoom c = true) → u.generationHolds r = false →
    u.lostOutputs r = [] → u.pinHolds r = false →
      exec (.commitPoint c q found) s = .next (((((u.commitNow c q r).settlePreempt c).exchangePump c).copyPumpAll).settle)

/-- R29: layout, slot and heads of completion records. -/
def Obligations.CompletionRecordsAdvanceHeadAndQueue : Prop :=
  ∀ (s : State) (c : Fin 4) (q : Fin 8) (tag cmd status reruns : Nat), Safety.Canonical s → s.force (Key.completionBase c) ≠ 0 →
    s.force (Key.completionBase c) + 65536 ≤ 0xC000000000 →
    let t := s.postRecord c ⟨q, tag, cmd, status, reruns⟩
    let head := s.reg (Key.completionHead c)
    let a := s.force (Key.completionBase c) + 16 * (head % 4096)
    t.memBytes a 16 = leBytes 8 tag ++ leBytes 4 cmd ++ leBytes 1 status ++ leBytes 1 reruns ++
      leBytes 2 (if head / 4096 % 2 = 0 then 1 else 0) ∧
    (∀ b, b < a ∨ a + 16 ≤ b → cellGet t.mem.cells b = cellGet s.mem.cells b) ∧
    t.reg (Key.completionHead c) = (head + 1) % 2 ^ 32 ∧ t.reg (Key.queueHead c q) = (s.reg (Key.queueHead c q) + 1) % 2 ^ 32 ∧
    Safety.OnlyRegs (Key.completionHead c :: Key.queueHead c q :: (List.range 8).map Key.hbmRmwCount) s t ∧ t.out.host = s.out.host ++ [.msix c] ∧ t.ctxs = s.ctxs

/-- R33: the COMMIT performs the step boundary. -/
def Obligations.StepBoundaryRowsEndTheStep : Prop :=
  ∀ (s : State) (c : Fin 4) (q : Fin 8) (found : List (Nat × Finding)) (r : Run),
    let due (x : State) : Prop := x.run c q = some r ∧ r.cmd.kind = 6 ∧ r.running = true ∧ x.missedBudget r = none ∧
      x.boundaryReady c q = true
    let done (x : State) : State :=
      (((((((x.boundary c).sendSignals c r.cmd.signals).modCtx c (fun y => { y with committing := none })).finishEntry c q r).drainFails).settlePreempt
        c).settle)
    (due (s.tellFound c 3 found) → exec (.commitPoint c q found) s = .next (done (s.tellFound c 3 found))) ∧
    (due s → (s.ctx c).committing = some q.val → exec (.stepBoundary c) s = .next (done s))

/-- R30: tails taken and tails ignored. -/
def Obligations.DoorbellsAreTakenOrIgnored : Prop :=
  ∀ (s : State) (c : Fin 4) (q : Fin 8) (tail : Nat) (im : Image), s.hostLink = true → tail < 2 ^ 32 → s.image = some im →
    (q.val < im.header.queues → s.holds c = true → (tail + 2 ^ 32 - (s.queue c q).tail) % 2 ^ 32 < 2 ^ 31 →
      (tail + 2 ^ 32 - s.reg (Key.queueHead c q)) % 2 ^ 32 ≤ s.force (Key.queueDepth c) →
        exec (.doorbell c q tail) s = .next (s.modQueue c q (fun x => { x with tail := tail })).settle) ∧
    ((im.header.queues ≤ q.val ∨ s.holds c = false ∨ 2 ^ 31 ≤ (tail + 2 ^ 32 - (s.queue c q).tail) % 2 ^ 32 ∨
      s.force (Key.queueDepth c) < (tail + 2 ^ 32 - s.reg (Key.queueHead c q)) % 2 ^ 32) →
        ∃ t, exec (.doorbell c q tail) s = .next t ∧ t.ctxs = s.ctxs ∧ t.mem = s.mem ∧ t.pools = s.pools ∧ t.ports = s.ports ∧
          t.image = s.image ∧
          (s.reg (Key.queueRefused c) + 1 < dictModulus (Key.queueRefused c) →
            t.reg (Key.queueRefused c) = s.reg (Key.queueRefused c) + 1) ∧
          (∃ e, t.events.head? = some e ∧ e.severity = sevWarning ∧ e.context = c.val) ∧
          Safety.OnlyRegs [Key.queueRefused c, Key.eventLogHead, Key.eventLost] s t)

/-- R36, R37: budgets and DEADLINE_MISS. -/
def Obligations.BudgetExpiryRaisesDeadlineMiss : Prop :=
  ∀ (s : State) (c : Fin 4) (q : Fin 8) (dt : Nat) (r : Run),
    ((s.advance dt).run c q = some r → (r.running = true ∨ r.budgetFrom.isSome = true) → (s.advance dt).overCommandBudget r = true →
      exec (.commandBudgetExpiry c q dt) s = .next (((s.advance dt).bump Key.deadlineMissCount 1).ctxFault c 0x30 r.entry.command 0x01
        (Key.ctxFaultCode c) ((s.advance dt).budgets r.cmd).2)) ∧
    ((s.advance dt).run c q = some r → (s.advance dt).overCommandBudget r = false →
      exec (.commandBudgetExpiry c q dt) s = .next (s.advance dt)) ∧
    (s.run c q = some r → r.running = true → s.overBlockBudget r = true →
      exec (.blockBudgetExpiry c q) s = .next ((s.bump Key.deadlineMissCount 1).ctxFault c 0x30 r.entry.command 0x01
        (Key.ctxFaultCode c) (s.budgets r.cmd).1)) ∧
    (s.run c q = some r → s.overBlockBudget r = false → exec (.blockBudgetExpiry c q) s = .next s)

/-- R360: the end of a teardown. -/
def Obligations.TeardownCompletesIntoFaultedOrAbsent : Prop :=
  ∀ (s : State) (c : Fin 4) (code : Nat), Safety.Canonical s → (s.ctx c).teardown = some code → s.cstate c = cxTearing →
    ∃ t, exec (.teardownComplete c) s = .next t ∧ t.cstate c = (if code = 0xFF then cxAbsent else cxFaulted) ∧
      (t.ctx c).teardown = none ∧ ∀ d, d ≠ c → t.cstate d = s.cstate d

/-- R41, R38: detection, kill and repair. -/
def Obligations.ActivationErrorsAreRepairedOrTearDown : Prop :=
  ∀ (s : State) (c : Fin 4) (q : Fin 8) (h addr : Nat) (r : Run), s.run c q = some r → r.running = true →
    (r.stagedHolds addr = true ∨ ∃ v, s.inputVersion h c = some v ∧ v.holds addr = true) →
    (s.readAt c (r.readerOf addr) addr .checkFail).1 = .act →
    let u := (s.readAt c (r.readerOf addr) addr .checkFail).2
    let logged := u.logCtx c 0x11 sevRecovered 0x06 r.entry.command Key.killCount (addr / 4096)
    ((bit r.cmd.flags 1 = true ∨ u.reg Key.rerunLimit < r.reruns + 1 ∨ (r.repairOf.isSome = true ∧ r.stagedHolds addr = false)) →
      exec (.actDetected c q h addr) s = .next (u.ctxFault c 0x11 r.entry.command 0x06 Key.killCount (addr / 4096))) ∧
    (bit r.cmd.flags 1 = false → r.reruns + 1 ≤ u.reg Key.rerunLimit → r.cmd.kind ≠ 4 →
      (r.stagedHolds addr = true →
        exec (.actDetected c q h addr) s = .next ((logged.killRun c q).settlePreempt c)) ∧
      (∀ p prod, r.stagedHolds addr = false → r.repairOf = none → u.producerOf h c = some p → u.command? p.1 = some prod →
        prod.isCrew = false →
        exec (.actDetected c q h addr) s = .next (((logged.killRun c q).modRun c q (fun x => { x with
          cmd := prod
          repairOf := some (h, (logged.killRun c q).ownerOf h c, p.1) })).settlePreempt c)))

/-- R73, R74, R80, R81: waits and stalls of the Tile Sequencer. -/
def Obligations.TileSequencersResumeAfterWaits : Prop :=
  ∀ (s : State) (c : Fin 4) (q : Fin 8) (tile : Fin 4) (dt : Nat) (found : List (Nat × Finding)) (r : Run) (t : TileRun),
    (let u := (s.advance dt).tellFound c 0 found
     u.tileOf c q tile = some (r, t) →
      (∀ w start tick, t.waiting = some (w, start, tick) →
        (u.pointMet c q w = true ∨ ((∀ i n, w ≠ .counter i n) ∧ ∀ h, w ≠ .fetch h)) →
        exec (.blockWaitResume c q tile dt found) s = .next ((u.endWait c q r t w start tick).runTile c q tile blockFuel)) ∧
      (t.waiting = none → exec (.blockWaitResume c q tile dt found) s = .next (u.runTile c q tile blockFuel))) ∧
    (let u := s.tellFound c 0 found
     u.tileOf c q tile = some (r, t) → t.stalled = true →
      let x := (u.setTile c q { t with stalled := false }).seqStep c q tile true
      exec (.nearStreamStallEnd c q tile found) s = .next (if x.2 then x.1.runTile c q tile blockFuel else x.1)) ∧
    (let u := s.advance dt
     ∀ w start tick, u.tileOf c q tile = some (r, t) → t.waiting = some (w, start, tick) →
      (u.force Key.featherEnable = 1 → u.force Key.featherIdleMin ≤ (u.now - start) * cclkPerTick → u.pointMet c q w = false →
        exec (.waitFeather c q tile dt) s = .next (u.setTile c q { t with gated := true })) ∧
      ((u.force Key.featherEnable ≠ 1 ∨ (u.now - start) * cclkPerTick < u.force Key.featherIdleMin) →
        exec (.waitFeather c q tile dt) s = .next u))

/-- R50 whole: narrowing of A128 sums to W64. -/
def Obligations.NarrowingKeepsOrLimitsTheSum : Prop :=
  ∀ a : Acc,
    ((-(2 ^ 47 - 1 : Int) ≤ a.sum ∧ a.sum ≤ 2 ^ 47 - 1) → a.narrow.1.val = a.sum ∧ a.narrow.2 = Sat.zero) ∧
    ((2 ^ 47 - 1 : Int) < a.sum → a.narrow.1.val = 2 ^ 47 - 1 ∧ a.narrow.2 = Sat.oneWire) ∧
    (a.sum < -(2 ^ 47 - 1 : Int) → a.narrow.1.val = -(2 ^ 47 - 1) ∧ a.narrow.2 = Sat.oneWire)

/-- Order-free accumulation (R49, R56). -/
def Obligations.AccumulationDoesNotDependOnOrder : Prop :=
  ∀ (a : Acc) (anchor : Int) (xs ys : List FVal), xs.Perm ys → Acc.enterAll a anchor xs = Acc.enterAll a anchor ys

/-- R250 whole: the host and remote addresses. -/
def Obligations.HostCannotReachRemoteAddresses : Prop :=
  ∀ (s : State) (a n : Nat) (data : List Byte) (find : List (Nat × Finding)), s.hostLink = true → 0x8000000000000 ≤ a → 0 < n → data ≠ [] →
    ∃ t u, exec (.hostMemRead a n find) s = .next t ∧ t.out.host = s.out.host ++ [.unsupported a] ∧
      { t with regs := s.regs, out := s.out } = s ∧ Safety.OnlyRegs [Key.mfHostRefused] s t ∧
      exec (.hostMemWrite a data find) s = .next u ∧ { u with regs := s.regs } = s ∧ Safety.OnlyRegs [Key.mfHostRefused] s u ∧
      (s.reg Key.mfHostRefused + 1 < dictModulus Key.mfHostRefused →
        t.reg Key.mfHostRefused = s.reg Key.mfHostRefused + 1 ∧ u.reg Key.mfHostRefused = s.reg Key.mfHostRefused + 1)

/-- R148: unpopulated addresses and Hub SRAM. -/
def Obligations.HostAccessesOfUnpopulatedAddressesAreCounted : Prop :=
  ∀ (s : State) (a n : Nat) (data : List Byte) (find : List (Nat × Finding)), s.hostLink = true → 0 < n → data ≠ [] →
    s.reg Key.hostUnmappedCount + 1 < dictModulus Key.hostUnmappedCount →
    (regionOf a = .unpopulated → ∃ t, exec (.hostMemRead a n find) s = .next t ∧ t.out.host = s.out.host ++ [.unsupported a] ∧
      { t with regs := s.regs, out := s.out } = s ∧ Safety.OnlyRegs [Key.hostUnmappedCount] s t ∧
      t.reg Key.hostUnmappedCount = s.reg Key.hostUnmappedCount + 1) ∧
    (regionOf a = .unpopulated ∨ regionOf a = .hub → ∃ t, exec (.hostMemWrite a data find) s = .next t ∧
      { t with regs := s.regs } = s ∧ Safety.OnlyRegs [Key.hostUnmappedCount] s t ∧
      t.reg Key.hostUnmappedCount = s.reg Key.hostUnmappedCount + 1)

/-- R148, R153: read after write through the host port, and its frame. -/
def Obligations.HostWritesAreReadBack : Prop :=
  ∀ (s : State) (a : Nat) (data : List Byte), Safety.Canonical s → s.hostLink = true → data ≠ [] → a + data.length ≤ 0xC000000000 →
    (∀ x ∈ s.mem.poison ++ s.mem.upsets.map Prod.fst, x / 256 * 256 + 256 ≤ a ∨ a + data.length ≤ x / 256 * 256) →
    (∀ i, i < data.length → s.stagedAddr (a + i) = false ∧ s.tableOffset (a + i) = none) →
    ∃ t, exec (.hostMemWrite a data []) s = .next t ∧
      (∀ b, b < a ∨ a + data.length ≤ b → cellGet t.mem.cells b = cellGet s.mem.cells b) ∧
      { t with
        regs := s.regs
        mem := { t.mem with
          cells := s.mem.cells
          scrubFix := s.mem.scrubFix } } = s ∧
      Safety.OnlyRegs ((List.range 8).map Key.hbmRmwCount) s t ∧
      exec (.hostMemRead a data.length []) t = .next (t.toHost (.readData a data false))

/-- R161 to R163: refresh. -/
def Obligations.RefreshFollowsSlotsAndForcesLateOnes : Prop :=
  ∀ (s : State) (st : Fin 8) (dt : Nat) (found : List (Nat × Finding)),
    let u := s.advance dt
    (u.hubUp = true → u.tileStreams (st.val / 2) = false →
      exec (.refreshSlot st dt found) s = .next ((u.tellFound noCtx 2 found).quietSlot st)) ∧
    ((u.hubUp = false ∨ u.tileStreams (st.val / 2) = true) → exec (.refreshSlot st dt found) s = .next u) ∧
    (∀ v : State, v.force Key.scrubEnable = 0 →
      (v.quietSlot st).mem.chan[st].sinceSlot = 0 ∧
      (v.quietSlot st).mem.chan[st].parity = (if bit (v.reg Key.refreshDoubled) st then true else !v.mem.chan[st].parity) ∧
      (∀ j : Fin 8, j ≠ st → (v.quietSlot st).mem.chan[j] = v.mem.chan[j]) ∧ (v.quietSlot st).mem.cells = v.mem.cells) ∧
    (u.image.isSome = true → u.tileRuns (st.val / 2) = true → forcedAfter ≤ u.mem.chan[st].sinceSlot →
      ∃ t, exec (.forcedRefresh st dt) s = .next t ∧ t.mem.chan[st].sinceSlot = u.mem.chan[st].sinceSlot - forcedAfter ∧
        t.mem.chan[st].parity = false ∧ (∃ e, t.events.head? = some e ∧ e.severity = sevWarning) ∧
        (u.reg Key.forcedRefreshCount + 1 < dictModulus Key.forcedRefreshCount →
          t.reg Key.forcedRefreshCount = u.reg Key.forcedRefreshCount + 1) ∧
        (∀ j : Fin 8, j ≠ st → t.mem.chan[j] = u.mem.chan[j]) ∧ t.mem.cells = u.mem.cells) ∧
    ((u.tileRuns (st.val / 2) = false ∨ u.mem.chan[st].sinceSlot < forcedAfter) → exec (.forcedRefresh st dt) s = .next u) ∧
    (∀ t0, Safety.Canonical s → u.mem.chan[st].coolSince = some t0 → t0 + 100000000 ≤ u.now →
      bit (u.reg Key.refreshDoubled) st = true → u.reg Key.refreshDoubled < 2 ^ 8 →
      ∃ t, exec (.refreshDoubledClear st dt) s = .next t ∧
        t.reg Key.refreshDoubled = u.reg Key.refreshDoubled - 2 ^ st.val ∧ t.mem.chan[st].coolSince = none ∧
        Safety.OnlyRegs [Key.refreshDoubled] u t)

/-- R164, R165: scrub and error rates. -/
def Obligations.ScrubAndErrorRatesAdvance : Prop :=
  ∀ (s : State) (ch addr dt : Nat) (found : List (Nat × Finding)),
    (s.hubUp = true → s.force Key.scrubEnable ≠ 0 → ch < 256 →
      exec (.scrubRead ch found) s = .next ((s.tellFound noCtx 2 found).scrubTransfer ch)) ∧
    (∀ pos, pos = s.scrubNext ch (sparseGet s.mem.scrub ch 0) (s.mem.extents.length + 1) → pos + 1 < scrubEnd →
      s.suspects (fun u _ => u / 256 * 256 == addrOfChannel ch (pos * 256)) = [] →
      sparseGet (s.scrubTransfer ch).mem.scrub ch 0 = pos + 1 ∧ (s.scrubTransfer ch).mem.cells = s.mem.cells ∧
      (s.scrubTransfer ch).regs = s.regs) ∧
    (s.hubUp = true → 256 ≤ ch → exec (.scrubRead ch []) s =
      .next (s.modMem (fun m => { m with reserveScrub := (m.reserveScrub + 64) % reserveBytes }))) ∧
    (s.hubUp = true → s.mem.scrubFix.contains addr = true → exec (.scrubWriteback addr) s =
      .next (s.modMem (fun m => { m with
        scrubFix := m.scrubFix.filter (· != addr)
        upsets := m.upsets.filter (fun x => x.1 / 64 != addr / 64) }))) ∧
    (s.mem.scrubFix.contains addr = false → exec (.scrubWriteback addr) s = .next s) ∧
    (Safety.Canonical s → ∃ t, exec (.errorRateUpdate dt) s = .next t ∧ t.mem.cells = s.mem.cells ∧
      ∀ i : Fin 8, t.reg (Key.hbmCeRate i) =
        ((s.mem.chan[i].ceHistory.filter (fun x => decide (s.now + dt < x.1 + minuteTicks))).foldl (fun n x => n + x.2) 0) %
          dictModulus (Key.hbmCeRate i))

/-- R178, R180, R122, R184, R186: plans, moves, digests, hints. -/
def Obligations.PlansMovesAndDigestsProceed : Prop :=
  ∀ s : State,
    (∀ p, s.mem.plans.find? (fun p => !p.computed) = some p →
      let mark := fun (x : Plan) => if x.madeAt = p.madeAt then { x with computed := true } else x
      exec .planComplete s = .next ((s.modMem (fun m => { m with plans := m.plans.map mark })).startMoves p)) ∧
    (s.mem.plans.find? (fun p => !p.computed) = none → exec .planComplete s = .next s) ∧
    (∀ handle owner data m, s.mem.moves.find? (fun m => m.handle == handle && m.owner == owner && !m.done) = some m →
      s.codecBusy (if m.kind = 1 then 4 else 3) = false →
      exec (.moveComplete handle owner data true) s = .next (s.finishMove m data true) ∧
      exec (.moveComplete handle owner data false) s = .next ((s.finishMove m data false).refetch handle)) ∧
    (exec (.planDigest (s.reg Key.planDigest)) s = .next s) ∧
    (∀ d, s.hubUp = true → d ≠ s.reg Key.planDigest → ∃ t, exec (.planDigest d) s = .next t ∧ t.mem = s.mem ∧ t.ctxs = s.ctxs ∧
      (s.reg Key.placeDigestMismatch + 1 < dictModulus Key.placeDigestMismatch →
        t.reg Key.placeDigestMismatch = s.reg Key.placeDigestMismatch + 1) ∧
      (∃ e, t.events.head? = some e ∧ e.severity = sevWarning ∧ e.code = 0) ∧
      Safety.OnlyRegs [Key.placeDigestMismatch, Key.eventLogHead, Key.eventLost] s t) ∧
    (∀ layer expert h o i, s.hubUp = true → s.expertHandle layer expert = some h → s.objRec h = some o →
      s.mem.objects.find? (fun i => i.handle == h && i.owner == 4) = some i → i.hot = none → i.low.isSome = true →
      (∀ c : Fin 4, (s.ctx c).begun.contains layer = false) → s.promoting h 4 = false →
      s.mem.stagings.any (fun g => g.handle == h) = false →
      exec (.stagingHint layer expert) s =
        .next (s.startStaging 2 (s.force Key.placeContext) 8 h layer (List.range o.tileCount)))

/-- R183, R184: deliveries of the Tile Codec. -/
def Obligations.CodecTilesAreDelivered : Prop :=
  ∀ (s : State) (handle tile : Nat) (data : List Byte) (g : Staging) (o : ObjRec),
    (s.mem.stagings.filter (fun g => g.handle == handle && g.tiles.contains tile && !g.done.contains tile)).find? (fun g => g.user != 2) = some g →
    s.objRec handle = some o → s.codecEarlier g = false →
    (∀ ok, exec (.codecTileDone handle tile data ok) s = .next (s.stagingTile g o tile data ok)) ∧
    (s.tilePoisoned handle (s.ownerOf handle g.ctx) tile = false →
      (s.stagingTile g o tile data true).mem.stagings.map (fun x => (x.number, x.done)) =
        s.mem.stagings.map (fun x => (x.number, if x.number = g.number then tile :: x.done else x.done))) ∧
    ((∀ (c : Fin 4) (q : Fin 8), g.ctx = c.val → g.queue = q.val → s.run c q = none) →
      let t := s.stagingTile g o tile data false
      t.mem.stagings = s.mem.stagings ∧ t.mem.cells = s.mem.cells ∧
      (s.reg Key.tcCheckFail + 1 < dictModulus Key.tcCheckFail → t.reg Key.tcCheckFail = s.reg Key.tcCheckFail + 1))

/-- R132, R133, R141, R143: deliveries and duplicates. -/
def Obligations.DeliveriesLandOnce : Prop :=
  ∀ (s : State) (c : Fin 4) (port : Fin 16) (tag : DelivTag) (layer key expert first total : Nat) (experts : List Nat)
      (relay down : Bool) (row : List Byte) (cands : List Cand), ctxIndex? tag.ctx = some c →
    (s.holds c = true →
      (∀ e, s.hasLanded c tag key 0 = false → s.tagRec tag = some e → (e.role = 1 ∨ experts ≠ []) →
        exec (.landing port tag layer key experts relay first total row) s =
          .next (((s.land c (landingBuf e c tag layer key experts relay total) port first row).relayPump c).exchangePump c)) ∧
      (s.hasLanded c tag key 0 = true →
        exec (.landing port tag layer key experts relay first total row) s = .next (s.discardLanding c tag key 0 layer first true)) ∧
      (s.hasLanded c tag key (if down then 2 else 1) = false →
        exec (.mergeList tag layer key down cands) s =
          .next ((s.land c (s.listBuf c tag layer key down cands.length) 16 0 (mergeBytes cands)).exchangePump c)) ∧
      (s.hasLanded c tag key (if down then 2 else 1) = true →
        exec (.mergeList tag layer key down cands) s =
          .next (s.discardLanding c tag key (if down then 2 else 1) layer 0 true)) ∧
      (∀ x e, s.hasLanded c tag key (3 + 4 * expert) = false → s.returnMatches c tag layer key expert = true →
        s.combineRec layer = some (x, e) →
        exec (.returnArrival port tag layer key expert first total row) s =
          .next (s.land c (returnBuf e c tag layer key expert total) port first row)) ∧
      ((s.hasLanded c tag key (3 + 4 * expert) = true ∨ s.returnMatches c tag layer key expert = false) →
        exec (.returnArrival port tag layer key expert first total row) s =
          .next (s.discardLanding c tag key (3 + 4 * expert) layer first true))) ∧
    (s.holds c = false →
      exec (.landing port tag layer key experts relay first total row) s = .next (s.discardLanding c tag key 0 layer first false) ∧
      exec (.mergeList tag layer key down cands) s =
        .next (s.discardLanding c tag key (if down then 2 else 1) layer 0 false) ∧
      exec (.returnArrival port tag layer key expert first total row) s =
        .next (s.discardLanding c tag key (3 + 4 * expert) layer first false)) ∧
    (∀ kind counted, (s.discardLanding c tag key kind layer first counted).pools = s.pools ∧
      (s.discardLanding c tag key kind layer first counted).mem.cells = s.mem.cells)

/-- R142, R145: the mirror area of a partner. -/
def Obligations.MirrorsFillTheOlderSlot : Prop :=
  ∀ (s : State) (c : Fin 4) (layer rows st pass : Nat) (data : List Byte), Safety.Canonical s → s.hubUp = true → layer < 2 ^ 16 → st < 2 ^ 32 →
    let base := s.force (Key.mirrorBase c)
    let size := s.force (Key.mirrorSlotSize c)
    let a := base + (s.ctx c).mirrorNext % 2 * size
    (base ≠ 0 → 64 + data.length ≤ size → a + size ≤ 0xC000000000 →
      (∀ x ∈ s.mem.poison ++ s.mem.upsets.map Prod.fst, x / 256 * 256 + 256 ≤ a ∨ a + (64 + data.length) ≤ x / 256 * 256) →
      ∃ t, exec (.mirrorArrival c layer rows st pass data) s = .next t ∧
      t.memBytes a (64 + data.length) = leBytes 2 layer ++ leBytes 2 rows ++ leBytes 4 st ++ leBytes 4 data.length ++ leBytes 4 pass ++
        List.replicate 48 0 ++ data ∧
      (∀ b, b < a ∨ a + (64 + data.length) ≤ b → cellGet t.mem.cells b = cellGet s.mem.cells b) ∧
      t.reg (Key.mirrorValidStep c) = st ∧ t.reg (Key.mirrorValidLayer c) = layer ∧ (t.ctx c).mirrorNext % 2 ≠ (s.ctx c).mirrorNext % 2 ∧
      Safety.OnlyRegs (Key.mirrorValidStep c :: Key.mirrorValidLayer c :: (List.range 8).map Key.hbmRmwCount) s t) ∧
    ((base = 0 ∨ size < 64 + data.length) →
      exec (.mirrorArrival c layer rows st pass data) s = .next (s.log sevWarning c 0x05 none32 (Key.mirrorBase c) layer))

/-- R194, R135, R145: grants to waiting landings. -/
def Obligations.WaitingLandingsAreGrantedInOrder : Prop :=
  ∀ (s : State) (pool : Fin 16),
    (s.pools.waits.find? (fun w => w.pool == pool.val) = none → exec (.poolWaitGrant pool) s = .next s) ∧
    (∀ w, s.pools.waits.find? (fun w => w.pool == pool.val) = some w →
      (s.poolReserved w.owner pool = false → s.poolRoom pool = false → exec (.poolWaitGrant pool) s = .next s) ∧
      (∀ c : Fin 4, ctxIndex? (w.owner / 8) = some c → (s.poolReserved w.owner pool = true ∨ s.poolRoom pool = true) →
        let g := ((s.modPools (fun x => { x with waits := x.waits.erase w })).poolStalled w).poolTake w.buf
        exec (.poolWaitGrant pool) s = .next (((((g.2.poolFill c g.1 w.pieces).xchCount c g.1.layer (Key.xchPoolStallTicks c)
          (s.now - w.since)).relayPump c).exchangePump c))))

/-- R209 to R213: the training of a port. -/
def Obligations.PortTrainingAdvances : Prop :=
  ∀ (s : State) (p : Fin 16) (dt ppm skew inv fails corrected : Nat) (rev : Bool) (fl : FlitIn) (o : Caps), Safety.Canonical s →
    (s.reg (Key.portState p) = 1 → ∃ t, exec (.detectComplete p) s = .next t ∧ t.reg (Key.portState p) = 2 ∧
      (t.port p).stateSince = s.now ∧ Safety.OnlyRegs [Key.portState p] s t ∧ ∀ r, r ≠ p → t.port r = s.port r) ∧
    (s.reg (Key.portState p) = 2 →
      let u := (s.setPortState p 3).sendAwait p (.caps (s.ownCaps p))
      (skew ≤ 4000 → ppm ≤ 100 → (u.port p).capsSeen = none → exec (.trainComplete p ppm skew inv false) s = .next u) ∧
      (∀ x, skew ≤ 4000 → ppm ≤ 100 → (u.port p).capsSeen = some x →
        exec (.trainComplete p ppm skew inv false) s = .next (u.checkCaps p x)) ∧
      ((rev = true ∨ 4000 < skew ∨ 100 < ppm) → exec (.trainComplete p ppm skew inv rev) s = .next s)) ∧
    ((s.rxLink p fl).reg (Key.portState p) = 3 → exec (.caps p fl o) s = .next ((s.rxLink p fl).checkCaps p o)) ∧
    (s.reg (Key.portState p) = 4 →
      let u := (s.bump (Key.portFecCorrected p) corrected).noteCrc p fails
      (fails = 0 → corrected < 10000 → exec (.verifyEnd p fails corrected) s = .next (u.linkUp p)) ∧
      (fails ≠ 0 ∨ 10000 ≤ corrected → exec (.verifyEnd p fails corrected) s = .next (u.failAttempt p))) ∧
    (let u := s.advance dt
     (u.reg (Key.portState p) ∈ [1, 2, 3, 4] → (u.port p).started + 60 * ms1 ≤ u.now →
       exec (.trainAttemptTimeout p dt) s = .next (u.failAttempt p)) ∧
     (u.reg (Key.portState p) = 7 → (u.port p).stateSince + ms1 ≤ u.now →
       exec (.retryWaitEnd p dt) s = .next (u.beginAttempt p ((u.port p).attempt + 1))))

/-- R210, R212, R213, R216, R219, R220: link control messages. -/
def Obligations.LinkMessagesAreAnswered : Prop :=
  ∀ (s : State) (p : Fin 16) (fl : FlitIn) (tag sq hold trip dt : Nat) (free : List Nat),
    (let u := s.rxLink p fl
     u.portUp p = true →
      (u.tagOf p tag = none → exec (.boundary p fl tag) s = .next (u.sendLink p (.boundaryAck tag))) ∧
      (∀ x, u.tagOf p tag = some x →
        (x.handshake.isSome = true →
          exec (.boundary p fl tag) s = .next ((u.sendLink p (.boundaryAck tag)).endHandshake p tag) ∧
          exec (.boundaryAck p fl tag) s = .next (u.endHandshake p tag)) ∧
        (x.handshake = none → exec (.boundary p fl tag) s = .next
          ((((u.modTag p tag (fun y => { y with ingress := false, egress := false })).dropTransit p tag true false).sendLink p
            (.boundaryAck tag)).settleRequest)) ∧
        (x.asked = true → x.handshake = none →
          exec (.tagSet p fl tag) s = .next ((((u.enableEgress p tag).sendLink p (.tagSetAck tag)).settleRequest).pump) ∧
          exec (.tagSetAck p fl tag) s = .next (((u.enableEgress p tag).settleRequest).pump))) ∧
      exec (.resync p fl) s = .next ((u.modPort p (fun x => { x with resync := x.resync % 2 + 2 })).sendAwait p .resyncMark) ∧
      exec (.resyncMark p fl) s = .next (((u.modPort p (fun x => { x with
        resync := x.resync / 2 * 2
        freed := List.replicate 16 0 })).sendLink p (.creditSet (u.freeNow p))).answeredMsg p (fun m => m == .resync)) ∧
      (bit (u.port p).resync 1 = true → exec (.creditSet p fl free) s =
        .next (((u.modPort p (fun x => { x with credits := free, resync := x.resync - 2 })).answeredMsg p (fun m => m == .resyncMark)).pump)) ∧
      (u.feature p 3 = true → exec (.latProbe p fl sq hold) s = .next (u.sendLink p (.latEcho sq hold))) ∧
      (1 ≤ ((u.port p).probeSeq + 2 ^ 32 - sq % 2 ^ 32) % 2 ^ 32 → ((u.port p).probeSeq + 2 ^ 32 - sq % 2 ^ 32) % 2 ^ 32 ≤ 64 →
        ∃ t, exec (.latEcho p fl sq hold trip) s = .next t ∧ (t.port p).probes = (u.port p).probes ++ [(trip - hold) / 2] ∧
          Safety.OnlyRegs [Key.portLatency p] u t)) ∧
    (let u := s.advance dt
     (u.portUp p = true → u.feature p 3 = true → (u.port p).lastProbe + 100 * ms1 ≤ u.now →
       exec (.latencyRemeasure p dt) s = .next (u.sendProbes p)) ∧
     (u.now < (u.port p).lastProbe + 100 * ms1 → exec (.latencyRemeasure p dt) s = .next u) ∧
     (∃ t, exec (.linkMsgRepeat p dt) s = .next t ∧ (∀ a ∈ (t.port p).await, u.now < a.since + us2) ∧
       t.out.link.map (fun o => (o.port, o.msg)) = u.out.link.map (fun o => (o.port, o.msg)) ++
         ((u.port p).await.filter (fun a => decide (a.since + us2 ≤ u.now))).map (fun a => (p.val, a.msg))) ∧
     (∀ x t0, u.tagOf p tag = some x → x.handshake = some t0 →
       (t0 + us200 ≤ u.now →
         let v := (u.bump (Key.portBoundaryTimeouts p) 1).log sevWarning noCtx 0x09 none32 (Key.portBoundaryTimeouts p) tag
         exec (.boundaryTimeout p tag dt) s =
           .next ((if x.byRequest then v.modFab (fun f => { f with joinTimeouts := true }) else v).endHandshake p tag)) ∧
       (u.now < t0 + us200 → exec (.boundaryTimeout p tag dt) s = .next u)))

/-- R203, R214, R215, R217, R293: what goes wrong on a link, and beacons. -/
def Obligations.LinkErrorsAreHandled : Prop :=
  ∀ (s : State) (p : Fin 16) (fl : FlitIn) (kind corrected tag tc vc n dt : Nat) (b : Beacon),
    (s.portUp p = true →
      exec (.flitCrcFail p kind corrected) s = .next ((s.bump (Key.portFecCorrected p) corrected).flitsFail p kind 1) ∧
      (n ≠ 0 → exec (.crcBurst p n) s = .next (s.flitsFail p flitBody n)) ∧
      (let v := s.noteCrc p n
       (v.reg (Key.portCrcDownThreshold p) < v.recentCrc p → s.flitsFail p kind n = v.linkLost p 7) ∧
       (v.recentCrc p ≤ v.reg (Key.portCrcDownThreshold p) →
         (kind = flitIdle ∨ kind = flitLink → s.flitsFail p kind n = v) ∧
         (∀ x, kind ≠ flitIdle → kind ≠ flitLink → v.arriving p = some x →
           s.flitsFail p kind n = v.discardArriving p x true))) ∧
      (let u := (s.takeIn p fl).bump (Key.portFlitsRx p) 1
       (u.inProgress p = false → exec (.abortFlit p fl) s = .next u.pump) ∧
       (∀ x, u.arriving p = some x →
         let i := vcIndex x.pk.tc x.pk.vc
         exec (.abortFlit p fl) s = .next ((u.discardArriving p x false).modPort p (fun y => { y with
           freed := listSet y.freed i (y.freed.getD i 0 - (u.flitsLeft p x - 1))
           inPacket := some { x with discarding := true, ended := true } })).pump)) ∧
      (let u := s.takeIn p fl
       (u.inProgress p = false → exec (.orphanFlit p fl tag tc vc) s =
         .next ((((u.bump (Key.portFlitsRx p) 1).bump (Key.portOrphanDrop p) 1).modPort p (fun x => { x with
           freed := listSet x.freed (vcIndex tc vc) (x.freed.getD (vcIndex tc vc) 0 + 1) })).pump)) ∧
       (∀ x, u.inProgress p = true → u.arriving p = some x → ¬ (x.pk.tag = tag ∧ x.pk.tc = tc ∧ x.pk.vc = vc) →
         exec (.orphanFlit p fl tag tc vc) s = .next (u.packetFlitFails p).pump)) ∧
      exec (.lockLost p) s = .next (s.linkLost p 6) ∧
      exec (.beacon p fl b) s = .next (((s.takeIn p fl).beaconTime p b).pump)) ∧
    (let w := s.advance dt
     ∀ t0, (w.port p).silentSince = some t0 →
      let u := w.modPort p (fun x => { x with silentSince := none, wanted := false })
      let again := (w.port p).wanted || (w.reg (Key.portState p) == 6 && w.reg (Key.portAutoRetrain p) == 1)
      (t0 + ms1 ≤ w.now → again = true → u.portUsable p = true → exec (.linkSilenceEnd p dt) s = .next (u.startTraining p)) ∧
      (t0 + ms1 ≤ w.now → again = false → exec (.linkSilenceEnd p dt) s = .next u) ∧
      (w.now < t0 + ms1 → exec (.linkSilenceEnd p dt) s = .next w))

/-- R218, R230, R232, R233: arrivals and link state. -/
def Obligations.PacketsAreAdmittedByTag : Prop :=
  ∀ (s : State) (p : Fin 16) (fl : FlitIn) (pk : Packet),
    (s.portUp p = true →
      let n := packetFlits pk
      let i := vcIndex pk.tc pk.vc
      let u := (s.takeIn p fl).bump (Key.portFlitsRx p) n
      let v := u.modPort p (fun x => { x with
        used := listSet x.used i (x.used.getD i 0 + n)
        inPacket := some ⟨pk, u.now + (n * u.flitTime p + 159) / 160, [], false, false⟩ })
      (v.ingressOk p pk.tag = false → exec (.packetArrival p fl pk) s = .next (v.dropHere p pk (Key.portTagDrop p)).pump) ∧
      (v.ingressOk p pk.tag = true →
        (pk.tag ≠ v.reg Key.partitionTag → exec (.packetArrival p fl pk) s = .next (v.forwardTransit p pk).pump) ∧
        (pk.tag = v.reg Key.partitionTag →
          (pk.mode = 2 → exec (.packetArrival p fl pk) s = .next (v.forwardLine p pk).pump) ∧
          (pk.mode = 1 → exec (.packetArrival p fl pk) s = .next (v.forwardTree p pk).pump) ∧
          (∀ d, pk.mode = 0 → pk.dsts.head? = some d → exec (.packetArrival p fl pk) s = .next (v.forward1 p pk d).pump)))) ∧
    (∀ dim port up coord, s.hubUp = true → ((dim = 0 ∧ port ≤ 6) ∨ (1 ≤ dim ∧ (portDim port).1 = dim)) →
      exec (.linkState dim port up coord) s = .next (s.noteLink port coord (!up)))

/-- R240: no duplicate is accepted. -/
def Obligations.StreamsAcceptEachNumberOnce : Prop :=
  ∀ (x y : Stream) (sq k : Nat), x.next < 2 ^ 16 → x.bitmap < 2 ^ 31 → x.take sq = (some y, k) →
    (y.take sq).1 = none ∧ y.addr = x.addr ∧ y.tc = x.tc ∧ y.next < 2 ^ 16 ∧ y.bitmap < 2 ^ 31

/-- R240 to R242: acceptance, acknowledgement and retry. -/
def Obligations.NetworkInterfaceTakesAndRetries : Prop :=
  ∀ s : State,
    (∀ (pk : Packet) (d : Addr × Nat), s.hubUp = true → 1 ≤ pk.tc → pk.tc ≤ 4 → pk.dsts.find? (fun d => d.1 == s.ownAddr) = some d →
      let u := s.modFab (fun f => { f with netIn := f.netIn.erase pk })
      ((((s.recvStream pk.src pk.tc).take d.2).1.isSome = true → isRequest pk.body = false →
        exec (.packetAccept pk) s = .next (u.acceptSeq pk.src pk.tc d.2)) ∧
       (((s.recvStream pk.src pk.tc).take d.2).1.isSome = true → isRequest pk.body = true →
        exec (.packetAccept pk) s = .next ((u.takeSeq pk.src pk.tc d.2).modFab (fun f =>
          { f with unapplied := f.unapplied ++ [(pk.src, d.2)] }))) ∧
       (((s.recvStream pk.src pk.tc).take d.2).1 = none →
        exec (.packetAccept pk) s = .next ((u.freeRefused pk).acceptSeq pk.src pk.tc d.2)))) ∧
    (∀ (a : Addr) (tc sq : Nat), s.hubUp = true → 1 ≤ tc → tc ≤ 4 → exec (.skip a tc sq) s = .next (s.acceptSeq a tc sq)) ∧
    (∀ (a : Addr) (x : Nat × Nat × Nat) (t : Txn),
      s.fab.txns.filter (fun t => t.tc == x.1 && t.left.any (fun d => d.1 == a && ackCovers x.2.1 x.2.2 d.2)) = [t] →
      exec (.ack a [x]) s = .next (s.txnAcked t a).afterTxns) ∧
    (∀ (id dt : Nat) (t : Txn), (s.advance dt).fab.txns.find? (fun t => t.id == id) = some t → t.left ≠ [] →
      t.sentAt + (s.advance dt).reg Key.niRetryTimer ≤ (s.advance dt).now →
      (t.tc ≠ 3 ∨ (s.advance dt).isOldest t = true) →
      ((s.advance dt).reg Key.niRetryLimit ≤ t.attempt → exec (.retryTimerExpiry id dt) s = .next ((s.advance dt).exhausted t).afterTxns) ∧
      (t.attempt < (s.advance dt).reg Key.niRetryLimit → t.tc ≠ 3 → exec (.retryTimerExpiry id dt) s = .next ((s.advance dt).resend t)) ∧
      (t.attempt < (s.advance dt).reg Key.niRetryLimit → t.tc = 3 →
        exec (.retryTimerExpiry id dt) s = .next ((s.advance dt).forEach ((s.advance dt).laterOf t) State.resend)))

/-- R244, R245: heartbeats and lost members. -/
def Obligations.HeartbeatsWatchAndDeclare : Prop :=
  ∀ (s : State) (a : Addr) (dt tick line copy : Nat),
    (let u := s.advance dt
     let at_ := u.tick / u.reg Key.hbInterval * u.reg Key.hbInterval
     let due := if dt = 0 then u.tick % u.reg Key.hbInterval = 0 else s.tick < at_
     (due → u.reg Key.partitionTag ≠ 0 → u.time.gcRunning = true →
       exec (.heartbeatSend dt) s = .next (u.forEach u.fab.watch (fun v b => v.sendControl b 0 (.heartbeat at_)))) ∧
     ((¬ due ∨ u.reg Key.partitionTag = 0 ∨ u.time.gcRunning = false) → exec (.heartbeatSend dt) s = .next u)) ∧
    (s.fab.watch.contains a = true → ∃ t, exec (.heartbeat a tick) s = .next t ∧
      t.fab.heard.find? (fun h => h.1 == a) = some (a, match s.fab.heard.find? (fun h => h.1 == a) with | some h => max h.2 tick | none => tick) ∧
      { t with fab := { t.fab with heard := s.fab.heard } } = s) ∧
    (s.fab.watch.contains a = false → exec (.heartbeat a tick) s = .next s) ∧
    (let u := s.advance dt
     ∀ h, u.fab.heard.find? (fun h => h.1 == a) = some h → u.fab.watch.contains a = true →
      (u.tick < h.2 + u.reg Key.hbInterval * u.reg Key.hbMissLimit → exec (.heartbeatDeclare a dt) s = .next u) ∧
      (h.2 + u.reg Key.hbInterval * u.reg Key.hbMissLimit ≤ u.tick →
        let v := u.forEach allCtx (fun s c =>
          if s.holds c then s.logCtx c 0x25 sevWarning 0x0A none32 Key.hbLostCount (wordOfAddr a) else s)
        exec (.heartbeatDeclare a dt) s = .next (((((v.bump Key.hbLostCount 1).modFab (fun f => { f with
          heard := f.heard.filter (fun x => x.1 != a) })).memberLost a).decideLosses).afterTxns))) ∧
    (let w := s.advance dt
     ∀ d, w.fab.declared.find? (fun d => d.1 == a) = some d →
      (d.2.1 + us2 ≤ w.now →
        let u := w.modFab (fun f => { f with declared := f.declared.filter (fun x => x.1 != a) })
        exec (.memberLostCopy a dt) s = .next ((u.sendLine 0 (.memberLost a 1 d.2.2)).sendLine 1 (.memberLost a 1 d.2.2))) ∧
      (w.now < d.2.1 + us2 → exec (.memberLostCopy a dt) s = .next w)) ∧
    (s.fab.seen.contains (0, a, copy) = true → exec (.memberLost line a copy tick) s = .next s) ∧
    (s.hubUp = true → s.fab.seen.contains (0, a, copy) = false →
      let u := s.modFab (fun f => { f with seen := f.seen ++ [(0, a, copy)] })
      let v := if line < 3 then u.sendLine (line + 1) (.memberLost a copy tick) else u
      (v.fab.noticed.contains a = true → exec (.memberLost line a copy tick) s = .next v) ∧
      (v.fab.noticed.contains a = false → exec (.memberLost line a copy tick) s =
        .next (((v.log sevWarning noCtx 0x0A none32 Key.niFailedAddresses (wordOfAddr a)).loseAddr a 0x25).afterTxns)))

/-- R259: order independence of ADD, MAX_S and MAX_U. -/
def Obligations.AtomicUpdatesCommute : Prop :=
  ∀ (op n old x y : Nat), (op = 1 ∨ op = 4 ∨ op = 5) → (n = 4 ∨ n = 8) → old < 2 ^ (8 * n) →
    (atomicNew op n old x 0).bind (fun v => atomicNew op n v y 0) = (atomicNew op n old y 0).bind (fun v => atomicNew op n v x 0)

/-- R252, R256 to R258, R34: requests at a target. -/
def Obligations.RemoteRequestsAreApplied : Prop :=
  ∀ (s : State) (src : Addr) (ctx txn off n op w : Nat) (quiet : Bool) (x y k inc : Nat) (data : List Byte)
    (found : List (Nat × Finding)), s.hubUp = true →
    (let u := s.tellFound noCtx 5 found
     (u.fab.held.any (fun z => z.1 == src) = true →
       exec (.load src ctx txn off n found) s =
         .next (u.modFab (fun f => { f with held := f.held ++ [(src, ctx, txn, .load off n)] })) ∧
       exec (.store src ctx txn off data found) s =
         .next (u.modFab (fun f => { f with held := f.held ++ [(src, ctx, txn, .store off data)] })) ∧
       exec (.atomic src ctx txn off op w quiet x y found) s =
         .next (u.modFab (fun f => { f with held := f.held ++ [(src, ctx, txn, .atomic off op w quiet x y)] }))) ∧
     (u.fab.held.any (fun z => z.1 == src) = false →
      (u.exportAt off n = none →
        exec (.load src ctx txn off n found) s = .next (((u.unbacked off).respond src ctx (.loadData txn 2 (List.replicate n 0))).requestApplied src)) ∧
      (u.exportAt off data.length = none → exec (.store src ctx txn off data found) s = .next ((u.unbacked off).requestApplied src)) ∧
      (u.exportAt off w = none →
        exec (.atomic src ctx txn off op w true x y found) s = .next ((u.unbacked off).requestApplied src) ∧
        exec (.atomic src ctx txn off op w false x y found) s = .next (((u.unbacked off).respond src ctx (.atomicData txn 2 0)).requestApplied src)) ∧
      (∀ c h o' o v, u.exportAt off data.length = some (c, h, o') → u.objRec h = some o → u.exportVersion c h = some v →
        exec (.store src ctx txn off data found) s = .next (((u.segmentWrite o v o' data).bump Key.mfRequestsServed 1).requestApplied src)) ∧
      (∀ c h o' o v, u.exportAt off n = some (c, h, o') → u.objRec h = some o → u.exportVersion c h = some v →
        (u.segmentRead o v o' n).1.1 = .ok →
        let r := (u.segmentRead o v o' n).2
        exec (.load src ctx txn off n found) s =
          .next (((r.bump Key.mfRequestsServed 1).respond src ctx (.loadData txn 0 (r.segmentBytes o v o' n))).requestApplied src)) ∧
      (∀ c h o' o v z, u.exportAt off w = some (c, h, o') → u.objRec h = some o → u.exportVersion c h = some v →
        (u.segmentRead o v o' w).1.1 = .ok →
        let r := (u.segmentRead o v o' w).2
        let old := leNat (r.segmentBytes o v o' w)
        let t := ((r.segmentWrite o v o' (leBytes w z)).bump Key.mfRequestsServed 1).bump Key.mfAtomicsServed 1
        atomicNew op w old x y = some z →
        exec (.atomic src ctx txn off op w true x y found) s = .next (t.requestApplied src) ∧
        exec (.atomic src ctx txn off op w false x y found) s = .next ((t.respond src ctx (.atomicData txn 0 old)).requestApplied src)))) ∧
    (s.fab.held.any (fun z => z.1 == src) = true → exec (.signal src ctx k inc) s =
      .next (s.modFab (fun f => { f with held := f.held ++ [(src, ctx, 0, .signal k inc)] }))) ∧
    (∀ c : Fin 4, s.fab.held.any (fun z => z.1 == src) = false → ctxIndex? ctx = some c → s.holds c = true →
      exec (.signal src ctx k inc) s = .next (((s.addCounter c k inc).bump Key.mfRequestsServed 1).settle.requestApplied src) ∧
      ((0 < s.counter c k + inc ∨ sparseWf (fun _ => 0) (s.ctx c).counters = true) →
        (s.addCounter c k inc).counter c k = min 0xFFFFFFFF (s.counter c k + inc)) ∧
      ∀ k', k' ≠ k → (s.addCounter c k inc).counter c k' = s.counter c k')

/-- R263, R264: responses at the requester. -/
def Obligations.RemoteResponsesAreTaken : Prop :=
  ∀ (s : State) (txn status old dt : Nat) (data : List Byte),
    exec (.loadData txn status data) s = .next (s.response txn status true
      (fun _ t => match t.body with
        | .load _ n => if status = 2 then List.replicate n 0 else data.take n
        | _ => []) (fun _ t => t.piece)) ∧
    exec (.atomicData txn status old) s =
      .next (s.response txn status false (fun _ _ => leBytes 8 (if status = 2 then 0 else old)) (fun _ t => 8 * t.piece)) ∧
    (let u := s.advance dt
     ∀ (t : Txn) (since : Nat) (a : Addr),
      u.fab.txns.find? (fun t => t.id == txn && awaitsResponse t.body && !t.abandoned) = some t → t.acked = some (since, a) →
      (u.now < since + u.reg Key.mfResponseTimer → exec (.mfResponseTimeout txn dt) s = .next u) ∧
      (since + u.reg Key.mfResponseTimer ≤ u.now → exec (.mfResponseTimeout txn dt) s =
        .next ((((u.bump Key.mfResponseTimeouts 1).answered t).txnFailed t.owner 0x21 a t.piece).drainFails.copyPumpAll)))

/-- R275, R277, R278, R280, R63: packets of a crew. -/
def Obligations.CrewPacketsReachTheirRun : Prop :=
  ∀ (s : State) (src crew round num stage inst att sig first origin code : Nat) (elems : List Elem) (upsets : List (Nat × Nat))
    (vals : List ScanVal), s.restoreFor crew inst = none → s.helpedOf crew inst = none →
    (∀ (c : Fin 4) (q : Fin 8) (r : Run) (k : CrewRun), s.crewRun crew = some (c, q, r, k) →
      (k.inst = inst → exec (.enter src crew round inst att sig) s = .next (s.enterRun c q r k ⟨crew, round, inst, att, src, sig⟩)) ∧
      (k.inst ≠ inst → instLater inst k.inst = true →
        exec (.enter src crew round inst att sig) s = .next (s.holdEnter ⟨crew, round, inst, att, src, sig⟩)) ∧
      (k.inst ≠ inst → instLater inst k.inst = false → exec (.enter src crew round inst att sig) s = .next (s.staleCrew crew)) ∧
      (k.inst = inst → att < k.attempt →
        exec (.stroke src crew num stage inst att first elems upsets) s = .next (s.staleCrew crew) ∧
        exec (.scan src crew round num stage inst att first vals) s = .next (s.staleCrew crew) ∧
        exec (.crewAbort src crew origin inst att code) s = .next (s.lateAbort c q r k att code origin)) ∧
      (k.inst = inst → k.attempt ≤ att → exec (.crewAbort src crew origin inst att code) s = .next (s.abortAt c q code origin)) ∧
      (k.inst = inst → k.attempt = att → r.phase = .running →
        exec (.scan src crew round num stage inst att first vals) s = .next ((s.modRun c q (fun r => { r with
          crew := some (k.acceptScan ⟨round, num, stage, src, first, vals⟩ s.now) })).exchangePump c) ∧
        (∀ j, k.sig ≠ 0 → r.cmd.collRec.bind (s.collJob r.cmd) = some j →
          let x := s.strokeAdds (some j) k stage num src first elems upsets
          (x.2 = false → exec (.stroke src crew num stage inst att first elems upsets) s = .next ((x.1.modRun c q (fun r => { r with
            crew := some (k.accept ⟨stage, num, src, first, elems⟩ s.now) })).collPump c q)) ∧
          (x.2 = true → exec (.stroke src crew num stage inst att first elems upsets) s = .next (x.1.originateAbort c q 0x50)) ∧
          (x.2 = true ↔ j.adds stage num = true ∧ k.expects stage num src first = true ∧ j.bf16 = false ∧
            k.residuesOk stage first elems upsets = false) ∧
          (j.adds stage num = true → k.expects stage num src first = true →
            s.reg Key.rdeAdditions + elems.length < dictModulus Key.rdeAdditions →
            x.1.reg Key.rdeAdditions = s.reg Key.rdeAdditions + elems.length) ∧
          k.residuesOk stage first elems [] = true))) ∧
    (s.crewRun crew = none →
      exec (.stroke src crew num stage inst att first elems upsets) s = .next (s.staleCrew crew) ∧
      exec (.scan src crew round num stage inst att first vals) s = .next (s.staleCrew crew) ∧
      exec (.crewAbort src crew origin inst att code) s = .next s)

/-- R281, R283, R328: timers of crew commands. -/
def Obligations.CrewTimersAct : Prop :=
  ∀ (s : State) (c : Fin 4) (q : Fin 8) (dt : Nat) (r : Run) (k : CrewRun), r.crew = some k →
    let u := s.advance dt
    (u.run c q = some r → u.ckpt.restore = none → r.xch = none → r.phase = .running →
      (u.strokeExpired r.cmd.target k = true → exec (.strokeTimeout c q dt) s = .next (u.originateAbort c q 0x22)) ∧
      (u.strokeExpired r.cmd.target k = false → exec (.strokeTimeout c q dt) s = .next u)) ∧
    (∀ ab, u.run c q = some r → r.abort = some ab → ab.decided = false →
      (u.force Key.abortSettle ≤ u.now - ab.since → exec (.abortSettle c q dt) s = .next (u.settleAbort c q r k ab)) ∧
      (u.now - ab.since < u.force Key.abortSettle → exec (.abortSettle c q dt) s = .next u)) ∧
    (let v := u.releaseReruns
     ∀ ab, v.run c q = some r → r.abort = some ab → ab.decided = true →
      (ab.since + v.force Key.takeoverWait ≤ v.now →
        exec (.takeoverWait c q dt) s = .next ((v.bump Key.rerunHoldTicks (v.now - ab.since)).ctxFault c ab.code r.entry.command 0x0C
          (Key.collAborts c) ab.origin)) ∧
      (v.now < ab.since + v.force Key.takeoverWait → exec (.takeoverWait c q dt) s = .next v))

/-- R289, R290, R294, R296, R299: clock, time pairs and ramps. -/
def Obligations.TimingRowsAct : Prop :=
  ∀ (s : State) (c : Fin 4) (q : Fin 8) (t dt launch : Nat) (pll : Bool) (r : Run),
    exec (.upstreamLost dt) s = .next (s.advance dt).chooseUpstream ∧
    (s.hostLink = true → ∃ u, exec .gcValueRead s = .next u ∧ u.out.host = s.out.host ++ [.word Key.gcValue s.tick] ∧ Safety.OnlyRegs [Key.gcFraction] s u ∧
      { u with regs := s.regs, out := { u.out with host := s.out.host } } = s) ∧
    (let u := s.advance dt
     (u.hostLink = true → u.force Key.ptmEnable = 1 → u.time.lastPtm + u.force Key.ptmInterval * 100000 ≤ u.now →
       exec (.ptmDialog t dt) s = .next ((u.modTime (fun x => { x with lastPtm := x.now })).recordPair 1 t)) ∧
     (u.force Key.ptmEnable = 0 → exec (.ptmDialog t dt) s = .next u) ∧
     (u.run c q = some r → bit r.entry.flags 0 = true → r.phase = .waiting → u.tick < r.entry.launch →
       r.entry.launch ≤ u.tick + u.force Key.rampLead → u.time.ramp = none → u.time.ramped.contains (queueNo c q, (u.queue c q).next) = false →
       u.emergency = false →
       ∃ v, exec (.rampStart c q dt) s = .next v ∧ v.time.ramp = some r.entry.launch ∧ v.ctxs = u.ctxs ∧ Safety.OnlyRegs [Key.rampCount] u v) ∧
     (u.time.ramp = some launch →
       (launch ≤ u.tick → exec (.rampEnd dt) s = .next (u.modTime (fun x => { x with ramp := none }))) ∧
       (u.tick < launch → exec (.rampEnd dt) s = .next u))) ∧
    (s.time.gcRunning = true → s.mstate ≠ stSafe → s.start.stage = none →
      let u := s.setReg Key.clockStatus (if pll then s.reg Key.clockStatus &&& 2 else s.reg Key.clockStatus &&& 1)
      exec (.clockFault pll) s =
        .next ((u.log sevWarning noCtx 0x0D none32 Key.clockStatus (u.reg Key.clockStatus)).enterSafe true))

/-- R314, R316, R323, R336: messages of a coded group. -/
def Obligations.CodedGroupMessagesAreTaken : Prop :=
  ∀ (s : State) (src : Addr) (stripe gen slot row first total index recorded opened units flags dt : Nat) (gs : List (List Byte)),
    (s.groupIndex ≠ 0xFF →
      (rowOf stripe s.groupIndex = some row → slot < 6 → s.indexOfAddr src = dataIndex stripe slot →
        let same (d : Delta) := d.stripe == stripe && d.row == row && d.slot == slot && d.gen == gen
        let old := (s.coded.staging.find? same).getD ⟨stripe, row, slot, gen, total, []⟩
        let got := ((List.range gs.length).zip gs).map (fun x => (first + x.1, x.2))
        let new := { old with granules := old.granules ++ got.filter (fun x => !old.granules.any (fun y => y.1 == x.1)) }
        let u := s.modCoded (fun c => { c with staging := c.staging.filter (fun x => !same x) ++ [new] })
        s.deltaStale old = false → u.unitLost true (parityUnitOf u.groupIndex stripe) = false →
        exec (.parityDelta src stripe gen slot row first total gs) s = .next u.pumpDeltas) ∧
      (index < 8 → exec (.groupDone gen index) s = .next (s.modCoded (fun c => { c with
        doneFrom := if c.doneFrom.contains (gen, index) then c.doneFrom else c.doneFrom ++ [(gen, index)] })).checkRecord) ∧
      (gen ≠ none32 → s.reg Key.codedOpenGen = gen → exec (.groupRecord gen) s = .next (s.recordGen gen)) ∧
      (s.reg Key.codedOpenGen ≠ gen → exec (.groupRecord gen) s = .next s) ∧
      (index < 8 → index ≠ s.groupIndex → bit flags 2 = false →
        (s.noteCount index units).reg Key.codedState ≠ cdRebuilding →
        let u := (s.noteCount index units).modCoded (fun c => { c with
          reports := c.reports.filter (fun r => r.1 != index) ++ [(index, recorded, opened, units, flags % 4)] })
        (u.coded.lossSince ≠ [] → exec (.groupState recorded opened units index flags) s = .next u.decideLosses))) ∧
    (let u := s.advance dt
     ∀ a, u.groupIndex ≠ 0xFF → u.coordinator = u.groupIndex → index < 8 → index ≠ u.groupIndex → u.groupLost index = false →
      u.coded.reports.any (fun r => r.1 == index) = false →
      u.coded.lossSince.any (fun x => decide (x.2 + u.force Key.codedReportWait ≤ u.now)) = true →
      u.groupAddr index = some a → exec (.codedReportWait index dt) s = .next (u.memberLost a).decideLosses) ∧
    (s.groupIndex = 0xFF → s.reg Key.codedState ≠ cdRebuilding →
      exec (.parityDelta src stripe gen slot row first total gs) s = .next s ∧ exec (.groupDone gen index) s = .next s ∧
      exec (.groupRecord gen) s = .next s ∧ exec (.groupState recorded opened units index flags) s = .next s)

/-- R321, R324, R327, R330, R331: takeover, rebuild and decode. -/
def Obligations.DecodesAndTakeoversProceed : Prop :=
  ∀ (s : State) (line rank copy tick gen view index layout stripe coeff req pos : Nat) (spare next : Addr) (ranks : List Nat)
    (spares : List Addr) (data : List Byte),
    (s.fab.seen.contains (2 + rank, spare, copy) = true → exec (.takeover line rank spare copy tick) s = .next s) ∧
    (s.hubUp = true → s.fab.seen.contains (2 + rank, spare, copy) = false →
      let u := s.modFab (fun f => { f with seen := f.seen ++ [(2 + rank, spare, copy)] })
      exec (.takeover line rank spare copy tick) s =
        .next ((if line < 3 then u.sendLine (line + 1) (.takeover rank spare copy tick) else u).applyTakeover rank spare)) ∧
    (index < 8 → s.reg Key.codedState = cdRebuilding → s.reg Key.codedResumeGen = none32 →
      exec (.rebuildStart gen view index layout ranks spares) s = .next (s.spareStart gen view index layout ranks spares)) ∧
    (index < 8 → s.reg Key.codedState ≠ cdRebuilding → s.groupIndex ≠ 0xFF → index ≠ s.groupIndex →
      exec (.rebuildStart gen view index layout ranks spares) s = .next (s.survivorDecision view gen index)) ∧
    (s.groupIndex ≠ 0xFF → index = s.groupIndex → s.stripeLost stripe = false → s.stripePoisoned stripe = false →
      exec (.decodeRead stripe view index coeff req next pos) s = .next (s.modCoded (fun c => { c with
        supplies := c.supplies ++ [⟨req, stripe, pos, coeff, next, view, index, none, 0⟩] })).pumpSupplies) ∧
    (pos < 5 → exec (.decodeTerm req stripe pos data) s =
      .next (s.modCoded (fun c => { c with early := c.early ++ [(req, stripe, pos, data)] })).pumpSupplies) ∧
    (∀ d, 5 ≤ pos → s.coded.decodes.find? (fun d => d.req == req && d.stripe == stripe && d.purpose == 0) = some d →
      frameBytes ≤ (d.data ++ data).length → exec (.decodeTerm req stripe pos data) s = .next (s.finishUnit stripe (cellsOf (d.data ++ data)))) ∧
    (s.coded.decodes.any (fun d => d.req == req && d.stripe == stripe && d.purpose == 1) = true →
      (index = s.groupIndex ∨ index = 0xFF) → exec (.decodeData req stripe index data) s = .next (s.finishUnit stripe (cellsOf data))) ∧
    (s.coded.decodes.any (fun d => d.req == req && d.stripe == stripe && d.purpose == 1) = false →
      exec (.decodeData req stripe index data) s = .next s)

/-- R339, R341, R342, R346, R347: requests and writes of checkpoints. -/
def Obligations.CheckpointRequestsAndWritesProceed : Prop :=
  ∀ (s : State) (line target origin reason copy tick handle unit dt : Nat),
    (s.ckpt.seen.contains (origin, target, copy) = true → exec (.ckptRequest line target origin reason copy tick) s = .next s) ∧
    (s.hubUp = true → s.ckpt.seen.contains (origin, target, copy) = false →
      let u := s.modCkpt (fun k => { k with seen := k.seen ++ [(origin, target, copy)] })
      exec (.ckptRequest line target origin reason copy tick) s =
        .next ((if line < 3 then u.sendLine (line + 1) (.ckptRequest target origin reason copy tick) else u).addTarget target 4)) ∧
    exec (.ckptVersionRead handle unit) s = .next (s.ckptRead handle unit) ∧
    (∀ k, s.ckpt.run = some k → k.toRead = [] → s.reg Key.ckptState = 2 →
      let v := (s.writeShard k).modCkpt (fun x => { x with run := none })
      exec .ckptWriteDone s = .next (((((v.setReg Key.ckptState 0).setReg Key.ckptLastStatus 1).setReg Key.ckptLastTicks
        (v.now - k.startNow)).bump Key.ckptCount 1).noteSlots)) ∧
    (s.ckpt.run = none → exec .ckptWriteDone s = .next s) ∧
    (s.hubUp = true → 0 < s.reg Key.flashSpareBlocks → ∃ u, exec (.flashProgramFail true) s = .next u ∧ Safety.OnlyRegs [Key.flashProgramFails, Key.flashSpareBlocks] s u ∧
      Safety.SameButRegs s u) ∧
    (∀ remapped : Bool, s.hubUp = true → (s.bump Key.flashProgramFails 1).ckpt.run.isSome = true →
      (remapped = true → s.reg Key.flashSpareBlocks = 0) → exec (.flashProgramFail remapped) s =
      .next (((s.bump Key.flashProgramFails 1).ckptDrop 3).log sevWarning noCtx 0x0F none32 Key.ckptLastStatus 3)) ∧
    (let u := s.advance dt
     (u.now < u.ckpt.ewChecked + secondTicks → exec (.earlyWarningCheck dt) s = .next u) ∧
     (u.hubUp = true → u.ckpt.ewChecked + secondTicks ≤ u.now →
       let v := u.modCkpt (fun k => { k with ewChecked := u.now })
       let w := v.ewSettle v.warnings.isEmpty
       (v.warnings = [] → exec (.earlyWarningCheck dt) s = .next w) ∧
       (v.warnings ≠ [] → w.reg Key.ckptEwEnable = 1 → w.reg Key.ckptPhase = 0 → w.ckpt.ewLast = none →
         exec (.earlyWarningCheck dt) s = .next (((w.modCkpt (fun k => { k with ewLast := some w.now })).forEach v.warnings (fun s x =>
           (s.setReg Key.ckptEwStatus (s.reg Key.ckptEwStatus ||| 2 ^ x.1)).log sevWarning noCtx 0x0F none32 x.2 (s.reg x.2))).ckptRequestNow 1))))

/-- R348, R351, R352, R413: transfers, restores, detachment. -/
def Obligations.TransfersAndRestoresProceed : Prop :=
  ∀ (s : State) (shard step tile piece : Nat) (data : List Byte),
    (∀ d slot off len host, s.ckpt.xfer = some (d, slot, off, len, host) →
      let u := ((s.modCkpt (fun k => { k with xfer := none })).setReg Key.ckptXferStatus 2).setReg Key.ckptXferBytes len
      (d = 1 → exec (.xferComplete data) s = .next (u.toHost (.uploaded host (u.slotRead slot off len)))) ∧
      (d ≠ 1 → ((u.slotWrite slot off (data.take len)).noteSlots).slotValid slot = false →
        exec (.xferComplete data) s = .next ((u.slotWrite slot off (data.take len)).noteSlots))) ∧
    (s.ckpt.xfer = none → exec (.xferComplete data) s = .next s) ∧
    (∀ r, s.ckpt.restore = some r → shard = s.force Key.ckptShardId → s.force Key.ckptReplicaIndex ≠ 0 → piece < 16 →
      (r.step = none ∨ r.step = some step) → r.got.any (fun g => g.1 == tile && (g.2.1 == piece || g.2.1 == tileDone)) = false →
      exec (.ckptTile shard step tile piece data) s =
        .next (s.modCkpt (fun k => { k with restore := some { r with got := (tile, piece, data) :: r.got } })).restoreTake) ∧
    (s.ckpt.restore = none → exec (.ckptTile shard step tile piece data) s = .next s) ∧
    (let u := s.restoreTake
     ∀ r i, u.ckpt.restore = some r → r.step = some step → u.restoreSlot step = some i →
      let n := u.slotNat i 0xA8 8
      let p := u.putShard i n 0
      (u.slotNat i 6 1 = 1 → p.2 = none → exec (.restoreComplete true) s = .next (p.1.restoreDone i step r.refused)) ∧
      (∀ t, u.slotNat i 6 1 = 1 → p.2 = some t → exec (.restoreComplete true) s = .next (p.1.restoreBad t)) ∧
      (u.slotNat i 6 1 ≠ 1 → (List.range n).all (fun t => r.got.any (fun g => g.1 == t && g.2.1 == tileDone)) = true →
        exec (.restoreComplete true) s = .next (u.restoreDone i step r.refused))) ∧
    (s.flashAttached = true → s.ckpt.run = none → s.ckpt.xfer = none →
      exec .flashDetached s = .next (s.setReg Key.flashState 0).noteCapacity) ∧
    (s.flashAttached = false → exec .flashDetached s = .next s)

/-- R374, R375: writes of single words. -/
def Obligations.WindowWritesAreCheckedAndApplied : Prop :=
  ∀ (s : State) (k v : Nat) (e : DictEntry), Safety.WindowOpen s → Safety.Canonical s → s.romStage = false → dictEntry? k = some e →
    wordAddr k < 0xB00000 → 0x1000 ≤ k / 256 → k % 256 < 64 → e.type.scalar = true → e.type ≠ .u64 → v < 2 ^ 32 →
    (s.checkScalar k v = stOk → exec (.registerWrite (wordAddr k) v) s = .next (s.applyScalar false k v e.access)) ∧
    (s.checkScalar k v ≠ stOk → ∃ t, exec (.registerWrite (wordAddr k) v) s = .next t ∧ Safety.SameButRegs s t ∧
      Safety.OnlyRegs [Key.writeRefusedCount, Key.writeLastRefused] s t ∧
      t.reg Key.writeLastRefused = (k * 256 + s.checkScalar k v) % 2 ^ 32 ∧
      (s.reg Key.writeRefusedCount + 1 < dictModulus Key.writeRefusedCount →
        t.reg Key.writeRefusedCount = s.reg Key.writeRefusedCount + 1)) ∧
    (e.access = .ro → s.checkScalar k v = stAccess)

/-- R384, R385: halves of 64-bit entries. -/
def Obligations.HalvesOfWideEntriesAreOneAccess : Prop :=
  ∀ (s : State) (k lo hi : Nat) (e : DictEntry), Safety.WindowOpen s → s.romStage = false → dictEntry? k = some e → e.type = .u64 →
    0x1000 ≤ k / 256 → wordAddr k + 4 < 0xB00000 → 0 < k % 256 → k % 256 < 63 → lo < 2 ^ 32 → hi < 2 ^ 32 →
    (∃ t, exec (.u64LowRead (wordAddr k)) s = .next t ∧ t.out.host = s.out.host ++ [.word (wordAddr k) (s.readScalar k e % 2 ^ 32)] ∧
      (∀ u : State, u.hostLink = true → u.acc = t.acc →
        ∃ v, exec (.u64HighRead (wordAddr k + 4)) u = .next v ∧
          v.out.host = u.out.host ++ [.word (wordAddr k + 4) (s.readScalar k e / 2 ^ 32)] ∧ Safety.WindowOpen v ∧ v.regs = u.regs)) ∧
    (∃ t, exec (.u64LowWrite (wordAddr k) lo) s = .next t ∧ t.regs = s.regs ∧ { t with acc := s.acc } = s ∧
      exec (.u64HighWrite (wordAddr k + 4) hi) t = .next (s.writeScalar false k (lo + hi * 2 ^ 32)).2 ∧
      (∀ a v, badAccess a = false → exec (.u64LowRead a) t = exec (.u64LowRead a) (s.refuse k stSize) ∧
        (a ≠ wordAddr k + 4 → exec (.registerWrite a v) t = exec (.registerWrite a v) (s.refuse k stSize)))) ∧
    (dictEntry? (k + 1) = none → exec (.u64HighWrite (wordAddr k + 4) hi) s = .next (s.refuse k stSize))

/-- R387: the bulk aperture (log 77 on a commit with nothing selected). -/
def Obligations.BulkValuesAreSelectedStagedAndCommitted : Prop :=
  ∀ (s : State) (k off v : Nat) (e : DictEntry) (p : Fin 16) (tags : List Nat) (bs : List Byte), Safety.RegistersOpen s →
    (k < 2 ^ 24 → dictEntry? k = some e → e.type.scalar = false → exec (.bulkSelect (k * 256)) s = .next (s.selectBulk (k * 256)) ∧
      (s.selectBulk (k * 256)).acc.bulk = some ⟨k, s.readBytes k e, s.readBytes k e⟩) ∧
    (∀ b, s.acc.bulk = some b → off % 4 = 0 → off < 0x100000 → v < 2 ^ 32 →
      ∃ t st, exec (.bulkApertureWrite off v) s = .next t ∧ t.acc.bulk = some ⟨b.key, b.snapshot, st⟩ ∧ st.length = b.staging.length ∧
        (∀ i, i < st.length → st.getD i 0 = if off ≤ i ∧ i < off + 4 then (leBytes 4 v).getD (i - off) 0 else b.staging.getD i 0) ∧
        { t with acc := s.acc } = s) ∧
    exec .bulkCommit s = .next s.bulkCommit ∧
    (s.acc.bulk = none → s.bulkCommit = s.setReg Key.bulkStatus stNoEntry) ∧
    (∀ b, s.acc.bulk = some b → dictEntry? b.key = some e →
      (s.checkBulk b.key b.staging = stOk → s.readBytes b.key e = b.snapshot →
        s.bulkCommit = (s.applyBulk b.key e b.staging).setReg Key.bulkStatus stOk) ∧
      (s.checkBulk b.key b.staging = stOk → s.readBytes b.key e ≠ b.snapshot →
        s.bulkCommit = (s.refuse b.key stChanged).setReg Key.bulkStatus stChanged) ∧
      (s.checkBulk b.key b.staging ≠ stOk →
        s.bulkCommit = (s.refuse b.key (s.checkBulk b.key b.staging)).setReg Key.bulkStatus (s.checkBulk b.key b.staging))) ∧
    exec (.transitTagsWrite p tags) s = .next (s.hostPutBulk (Key.portTransitTags p) (tags.flatMap (leBytes 2))) ∧
    exec (.ckptXferDesc bs) s = .next (s.hostPutBulk Key.ckptXferDesc bs) ∧
    exec (.quoteNonce bs) s = .next (s.hostPutBulk Key.quoteNonce bs) ∧
    (k < 2 ^ 24 → dictEntry? k = some e → e.type.scalar = false → bs.length = e.bytes → e.bytes ≤ 0x100000 →
      let u := (s.selectBulk (k * 256)).modAcc (fun a => { a with bulk := some ⟨k, s.readBytes k e, bs⟩ })
      u.checkBulk k bs = stOk → u.readBytes k e = s.readBytes k e →
      s.hostPutBulk k bs = (u.applyBulk k e bs).setReg Key.bulkStatus stOk)

/-- R20, R29, R39, R357 to R369: register rows of contexts and commands. -/
def Obligations.ContextRegisterRowsAct : Prop :=
  ∀ (s : State) (c : Fin 4) (v mask dt : Nat) (blocks : List Block), Safety.RegistersOpen s → v < 2 ^ 32 → mask < 16 →
    exec (.ctxResident c) s = .next (s.ctxRequest 1 c) ∧
    exec (.ctxRelease c) s = .next (s.ctxRequest 2 c) ∧
    exec (.ctxClear c) s = .next (s.ctxRequest 3 c) ∧
    exec (.ctxStepSet c v) s = .next (s.setStep c v) ∧
    exec (.preempt mask) s = .next (s.forEach (allCtx.filter (fun (c : Fin 4) => bit mask c)) State.preemptCtx) ∧
    exec (.resume mask) s = .next (s.forEach (allCtx.filter (fun (c : Fin 4) => bit mask c)) State.resumeCtx) ∧
    (v ≤ s.reg (Key.completionHead c) → exec (.completionAck c v) s = .next (s.ackRecords c v)) ∧
    exec (.ctxFaultAck c v) s = .next (s.ackMask c v) ∧
    exec (.moduleFaultAck v) s = .next (s.ackMask 4 v) ∧
    exec (.eventAck v) s = .next (s.setReg Key.eventAck v) ∧
    exec (.imageLoad blocks) s = .next (({ s with bufBlocks := blocks }).imageRequest 1) ∧
    exec .imageUnload s = .next (s.imageRequest 2) ∧
    exec (.imageLoadEnd dt) s = .next (s.advance dt).endLoad

/-- R203, R219, R220, R225, R243, R296, R325, R340, R350, R409, R412: register rows of the module. -/
def Obligations.ModuleRegisterRowsAct : Prop :=
  ∀ (s : State) (p : Fin 16) (v w tag : Nat), Safety.RegistersOpen s → v < 2 ^ 32 → w < 2 ^ 64 → 1 ≤ tag → tag ≤ 0xFFE →
    exec (.portEnable p) s = .next ((s.setReg (Key.portEnable p) 1).enablePort p) ∧
    exec (.portDisable p) s = .next ((s.setReg (Key.portEnable p) 0).disablePort p) ∧
    exec (.partitionJoin tag) s = .next (s.joinPartition tag) ∧
    exec .partitionTeardown s = .next s.leavePartition ∧
    exec (.rankRemap w) s = .next (s.rankRemap w) ∧
    exec (.niFailedClear v) s = .next (s.clearFailed v) ∧
    exec (.hostTimeWrite w) s = .next (s.recordPair 2 w) ∧
    exec (.codedRevert v) s = .next (s.codedRevert v) ∧
    exec .ckptPreemptNotice s = .next s.ckptNotice ∧
    exec .ckptSoftwareRequest s = .next s.ckptSoftware ∧
    exec (.ckptRestore v) s = .next (s.restoreRequest v) ∧
    exec (.configCrcRef v) s = .next (s.commitReference v) ∧
    (600 ≤ v → v ≤ 1800 →
      exec (.powerCap v) s = .next ((s.setReg Key.powerCap v).modPower (fun p => { p with capPending := some v })).capIdle) ∧
    (s.mstate = stConfig → exec .startFallbackReset s = .next s.fallbackReset)

/-- R378 to R380: the two states and their requests. -/
def Obligations.StateRequestsMoveBetweenConfigAndRun : Prop :=
  ∀ s : State, Safety.RegistersOpen s → Safety.Canonical s →
    let busy : Bool := s.loading.isSome || s.ckpt.run.isSome || s.ckpt.xfer.isSome || s.ckpt.restore.isSome
    let refused (r : Host.Outcome State Fault Refusal) (code : Nat) : Prop :=
      ∃ t, r = .next t ∧ t.reg Key.stateStatus = code ∧ Safety.OnlyRegs [Key.stateStatus] s t ∧ Safety.SameButRegs s t
    (s.mstate = stConfig → s.reg Key.configCrcState = crcMatch →
      exec .stateRequestRun s = .next (s.setReg Key.stateStatus 0).beginRun) ∧
    (s.reg Key.configCrcState ≠ crcMatch → refused (exec .stateRequestRun s) 2) ∧
    (s.reg Key.configCrcState = crcMatch → s.mstate = stRun → refused (exec .stateRequestRun s) 5) ∧
    (s.anyResident = true → refused (exec .stateRequestConfig s) 1) ∧
    (s.anyResident = false → busy = true → refused (exec .stateRequestConfig s) 3) ∧
    (s.anyResident = false → busy = false → s.mstate = stConfig → refused (exec .stateRequestConfig s) 5) ∧
    (s.anyResident = false → busy = false → s.mstate = stRun →
      ∃ t, exec .stateRequestConfig s = .next t ∧ t.mstate = stConfig ∧ t.reg Key.stateStatus = 0 ∧
        Safety.OnlyRegs [Key.stateStatus, Key.moduleState] s t ∧ Safety.SameButRegs s t)

/-- R388 to R390: the configuration CRC. -/
def Obligations.ConfigurationPassesCompareAndWatch : Prop :=
  ∀ (s : State) (ms dt : Nat),
    (s.started = true → s.romStage = false → s.power.aux = true →
      let u := ((s.setReg Key.configCrc s.configCrcNow).setReg Key.configCrcPassTime ms).modAcc (fun a => { a with
        crcArmed := false, crcPassArmed := a.crcArmed })
      (s.acc.crcPassArmed = false → u.reg Key.configCrcState = crcStale → exec (.configCrcPassEnd ms) s = .next u) ∧
      (s.acc.crcPassArmed = true ∨ u.reg Key.configCrcState ≠ crcStale →
        (s.configCrcNow = u.crcReference → exec (.configCrcPassEnd ms) s =
          .next ((u.setReg Key.configCrcState crcMatch).modAcc (fun a => { a with excursion := false, staleSince := none }))) ∧
        (s.configCrcNow ≠ u.crcReference → (u.mstate = stConfig ∨ u.mstate = stRun) →
          exec (.configCrcPassEnd ms) s = .next u.raiseMismatch) ∧
        (s.configCrcNow ≠ u.crcReference → u.mstate ≠ stConfig → u.mstate ≠ stRun → exec (.configCrcPassEnd ms) s = .next u))) ∧
    (s.started = false ∨ s.romStage = true ∨ s.power.aux = false → exec (.configCrcPassEnd ms) s = .next s) ∧
    (let u := s.advance dt
     (u.acc.staleSince = none → exec (.configCrcGrace dt) s = .next u) ∧
     (∀ t, u.acc.staleSince = some t →
       (u.mstate = stRun → u.reg Key.configCrcState = crcStale → u.acc.crcArmed = false → u.acc.crcPassArmed = false →
         t + u.reg Key.configCrcGrace * 100000 ≤ u.now → exec (.configCrcGrace dt) s = .next u.raiseMismatch) ∧
       (u.now < t + u.reg Key.configCrcGrace * 100000 → exec (.configCrcGrace dt) s = .next u)))

/-- R392 to R397, R407: the exchange protocol (log 79 on what its datagrams leave open). -/
def Obligations.DxpRequestsAreServedOnceAndAnswered : Prop :=
  ∀ (s : State) (d : Dgram) (offer session dt : Nat) (want : Bool),
    let answered (u : State) : Prop :=
      exec (.dxpRead d) s = .next u ∧ exec (.quoteRead d) s = .next u ∧ exec (.dxpWrite d) s = .next u ∧
      exec (.dxpDescribe d) s = .next u ∧ exec (.dxpClose d) s = .next u ∧ exec (.dxpKeepalive d) s = .next u
    (s.dxpServed d = true → d.good = true → s.dxpAdmits d.src = true →
      exec (.dxpOpen d offer want) s = .next (s.dxpOpenSession d offer want) ∧
      (offer / 256 = s.reg Key.dxpVersion / 256 → s.acc.sessions.length < 8 →
        ∃ n, 0 < n ∧ (∀ x ∈ s.acc.sessions, x.number ≠ n) ∧
          (s.dxpOpenSession d offer want).acc.sessions =
            s.acc.sessions ++ [⟨n, want && !s.acc.sessions.any Session.grant, 0, none, s.now, none⟩] ∧
          (s.dxpOpenSession d offer want).out.dxp = s.out.dxp ++ [(d.src, d.port,
            ⟨0x02, n, d.seq, stOk, min (s.reg Key.dxpVersion) offer, want && !s.acc.sessions.any Session.grant, []⟩)]) ∧
      (d.version / 256 ≠ s.reg Key.dxpVersion / 256 → requestSize d ≤ datagramMax →
        answered (s.sendDxp d (mkResponse d stVersion (d.ops.map (fun o => opFail o stVersion))))) ∧
      (d.version / 256 = s.reg Key.dxpVersion / 256 → requestSize d ≤ datagramMax →
        (∀ x, s.session? d.session = some x → d.seq = (x.seq + 1) % 2 ^ 32 →
          let u := s.modSession x.number (fun y => { y with idleSince := s.now })
          let serve (k : DxpKind) : State :=
            ((u.dxpRun k x d).2.modSession x.number (fun y => { y with
              seq := d.seq
              last := some (mkResponse d (responseStatus (u.dxpRun k x d).1) (u.dxpRun k x d).1) })).sendDxp d
              (mkResponse d (responseStatus (u.dxpRun k x d).1) (u.dxpRun k x d).1)
          exec (.dxpRead d) s = .next (serve .read) ∧ exec (.quoteRead d) s = .next (serve .read) ∧
          exec (.dxpWrite d) s = .next (serve .write) ∧ exec (.dxpDescribe d) s = .next (serve .describe) ∧
          exec (.dxpClose d) s = .next (serve .close) ∧ exec (.dxpKeepalive d) s = .next (serve .keepalive)) ∧
        (∀ x a, s.session? d.session = some x → d.seq = x.seq → d.seq ≠ (x.seq + 1) % 2 ^ 32 → x.last = some a →
          answered ((s.modSession x.number (fun y => { y with idleSince := s.now })).sendDxp d a)) ∧
        (s.session? d.session = none →
          answered (s.sendDxp d (mkResponse d stSession (d.ops.map (fun o => opFail o stSession))))))) ∧
    (s.dxpServed d = true → (d.good = false ∨ s.dxpAdmits d.src = false) → ∃ t, answered t ∧ exec (.dxpOpen d offer want) s = .next t ∧
      Safety.OnlyRegs [Key.dxpRefusedCount] s t ∧ Safety.SameButRegs s t) ∧
    (s.dxpServed d = true → datagramMax < requestSize d → ∃ t, answered t ∧ Safety.OnlyRegs [Key.dxpRefusedCount] s t ∧
      Safety.SameButRegs s t) ∧
    (∀ x, (s.advance dt).session? session = some x →
      let u := s.advance dt
      (x.idleSince + u.reg Key.dxpSessionTimeout * secondTicks ≤ u.now →
        exec (.dxpSessionTimeout session dt) s = .next (u.endSession session) ∧ (u.endSession session).session? session = none) ∧
      (u.now < x.idleSince + u.reg Key.dxpSessionTimeout * secondTicks → exec (.dxpSessionTimeout session dt) s = .next u)) ∧
    (∀ n rest, s.power.quoteNonces = n :: rest →
      let q := (s.modPower (fun p => { p with quoteNonces := rest })).signQuote n
      exec .quoteSigned s = .next (q.2.setBulk Key.quote 0 q.1))

/-- R408, R444, R362, R364: temperatures. -/
def Obligations.TemperaturesThrottleAndShutDown : Prop :=
  ∀ (s : State) (sensor : Fin 16) (mC : Int) (dt : Nat),
    (s.power.aux = true →
      let r := s.sample sensor mC
      exec (.temperatureSample sensor mC) s = .next r ∧
      (r.emergencyLimit sensor ≤ mC → r.emergency = false → r.power.railsOn = true → r.mstate ≠ stSafe →
        exec (.thermalEmergency sensor mC) s = .next (r.beginEmergency sensor)) ∧
      (mC < r.emergencyLimit sensor → exec (.thermalEmergency sensor mC) s = .next r) ∧
      (r.shutdownLimit sensor ≤ mC → r.power.railsOn = true → r.mstate ≠ stSafe →
        (r.start.stage = none → exec (.thermalShutdown sensor mC) s = .next (r.enterSafe false)) ∧
        (∀ st, r.start.stage = some st → exec (.thermalShutdown sensor mC) s =
          .next ((r.startSafe st [(0xFF, 0, 0)]).modPower (fun p => { p with railsOn := false })))) ∧
      (mC < r.shutdownLimit sensor → exec (.thermalShutdown sensor mC) s = .next r)) ∧
    (s.power.aux = false → exec (.temperatureSample sensor mC) s = .next s ∧ exec (.thermalEmergency sensor mC) s = .next s ∧
      exec (.thermalShutdown sensor mC) s = .next s) ∧
    (let u := s.advance dt
     (∀ t, u.power.coolSince = some t →
       (u.emergency = true → t + 1000000 ≤ u.now → exec (.thermalEmergencyEnd dt) s =
         .next ((((u.setReg Key.thermalState 0).setCap u.power.capBefore).logModule 0x80 sevInfo 0x10 Key.thermalState 0).settle)) ∧
       (u.now < t + 1000000 → exec (.thermalEmergencyEnd dt) s = .next u)) ∧
     (u.power.coolSince = none → exec (.thermalEmergencyEnd dt) s = .next u) ∧
     (u.emergency = true → u.issueWindow = true → exec (.emergencyIssueWindow dt) s = .next u.settle) ∧
     (u.emergency = false ∨ u.issueWindow = false → exec (.emergencyIssueWindow dt) s = .next u))

/-- R414 to R424, R433 to R439, R398: supplies, pins and stages. -/
def Obligations.SuppliesAndPinsAct : Prop :=
  ∀ (s : State) (mV straps dt ms : Nat) (up : Bool) (meas : List (List Byte)) (vals : List Nat) (items : List (Nat × Nat))
    (results : List (Nat × Nat × Nat)),
    (s.power.aux = false → 3000 ≤ mV → exec (.auxPowerUp mV straps) s =
      .next ((s.modPower (fun p => { p with aux := true, straps := straps % 8 })).noteVolts Key.auxVoltage mV).beginSt0) ∧
    (s.power.aux = true ∨ mV < 3000 → exec (.auxPowerUp mV straps) s = .next s) ∧
    (s.power.aux = true → 46000 ≤ mV → mV ≤ 56000 → s.power.input = false →
      let u := (s.noteVolts Key.inputVoltage mV).modPower (fun p => { p with input := true })
      (s.start.abandoned = true → exec (.inputInRange mV) s = .next u.beginAgain) ∧
      (s.start.abandoned = false → s.start.stage = some 1 → s.start.againSince = none →
        exec (.inputInRange mV) s = .next (u.beginStage 1))) ∧
    ((s.advance dt).power.aux = true → mV < 44000 → 2000 ≤ dt →
      exec (.inputLoss mV dt) s = .next ((s.advance dt).noteVolts Key.inputVoltage mV).loseInput) ∧
    (s.power.aux = true → 58000 < mV → mV ≤ 60000 →
      exec (.overvoltage false mV) s = .next (s.noteVolts Key.inputVoltage mV).loseInput) ∧
    (s.power.aux = true → mV < 2900 → exec (.auxLoss mV) s = .next (s.powerOff false)) ∧
    (s.power.aux = true → 3800 < mV → mV ≤ 4000 → exec (.overvoltage true mV) s = .next (s.powerOff false)) ∧
    ((s.advance dt).power.aux = true → 1000 ≤ dt → exec (.mcReset dt) s =
      .next ((((s.advance dt).powerOff true).noteVolts Key.auxVoltage ((s.advance dt).reg Key.auxVoltage)).beginSt0)) ∧
    (dt < 1000 → exec (.mcReset dt) s = .next (s.advance dt)) ∧
    (∃ t, exec .perstAssert s = .next t ∧ t.power.perst = true ∧ t.hostLink = false ∧
      Safety.OnlyRegs [Key.hostLinkGen, Key.hostLinkWidth] s t ∧ Safety.SameButRegs s { t with power := s.power }) ∧
    (s.power.perst = true → s.start.stage = some 7 → exec .perstDeassert s =
      .next ((s.modPower (fun p => { p with perst := false })).modStart (fun x => { x with stageSince := s.now }))) ∧
    (s.power.aux = true → exec (.fieldNetworkLink up) s = .next (s.setReg Key.fieldLinkUp (if up = true then 1 else 0))) ∧
    (∀ st, s.power.aux = true → (s.advance (msTicks ms)).start.stage = some st → (s.advance (msTicks ms)).stageWaits st = false →
      let u := s.advance (msTicks ms)
      (u.stageLate st = true → exec (.stageComplete ms meas vals) s = .next ((u.measure st meas).stageFails st [])) ∧
      (u.stageLate st = false → u.stageReady st vals = true → exec (.stageComplete ms meas vals) s = .next (u.stageDone st meas vals)) ∧
      (u.stageLate st = false → u.stageReady st vals = false → exec (.stageComplete ms meas vals) s = .next u) ∧
      (items ≠ [] ∨ u.start.stageSince + msTicks (stageBudget st) ≤ u.now →
        exec (.stageBudgetExpiry ms items meas) s = .next ((u.measure st meas).stageFails st items)) ∧
      (st = 1 → u.power.aux = true → exec (.bistWaveComplete ms results) s = .next (u.bistWave results))) ∧
    (∀ t, (s.advance dt).start.againSince = some t → t + 1000000 ≤ (s.advance dt).now → (s.advance dt).power.input = true →
      exec (.startAgain dt) s = .next (s.advance dt).beginAgain) ∧
    (Safety.WindowOpen s → s.start.stage ≠ some 0 → s.romStage = false → mV ≤ s.reg Key.compatLevelMax → mV ≤ 1 →
      exec (.compatLevel mV) s = .next (s.setReg Key.compatLevel mV))

/-- R365, R367, R368: events, pending bits, acknowledgement. -/
def Obligations.FaultEventsArePendingUntilAcknowledged : Prop :=
  ∀ (s : State) (c : Fin 4) (code sev src cmd entry value : Nat), Safety.Canonical s → s.reg Key.eventLogHead < 2 ^ 32 →
    s.reg (Key.ctxFaultPending c) < 2 ^ 32 → bit (s.reg (Key.ctxFaultPending c)) (faultBit code) = false →
    let t := s.logCtx c code sev src cmd entry value
    let n := if s.reg Key.eventLogHead = 0xFFFFFFFF then 1 else s.reg Key.eventLogHead + 1
    (∃ e, t.events.head? = some e ∧ e.seq = n ∧ e.code = code ∧ e.severity = sev ∧ e.context = c.val ∧ e.source = src ∧ e.tick = s.tick ∧
      e.step = (s.ctx c).step % 2 ^ 32 ∧ e.command = cmd ∧ e.entry = entry * 256 ∧ e.value = value % 2 ^ 32) ∧
    t.reg Key.eventLogHead = n ∧ t.reg (Key.ctxFaultPending c) = s.reg (Key.ctxFaultPending c) + 2 ^ faultBit code ∧
    Safety.OnlyRegs [Key.eventLogHead, Key.eventLost, Key.ctxFaultPending c] s t ∧ t.ctxs = s.ctxs ∧ t.mem = s.mem ∧
    ((∀ x ∈ s.faultSeq, x.1 ≠ c.val) → (t.ackMask c n).reg (Key.ctxFaultPending c) = s.reg (Key.ctxFaultPending c) ∧
      Safety.OnlyRegs [Key.ctxFaultPending c] t (t.ackMask c n))

/-- R107, R109: key order and candidate lists. -/
def Obligations.CandidateListsAreTheFirstInKeyOrder : Prop :=
  ∀ (n : Nat) (l : List Cand), (l.map Cand.expert).Nodup →
    (topCands n l).length = min n l.length ∧ (∀ a ∈ topCands n l, a ∈ l) ∧
    (topCands n l).Pairwise (fun a b => candBefore a b = true) ∧
    (∀ a ∈ topCands n l, ∀ b ∈ l, b ∉ topCands n l → candBefore a b = true) ∧
    (∀ l', l.Perm l' → topCands n l' = topCands n l)

/-- R198, R199: references and double frees. -/
def Obligations.ReferencesFreeABufferOnce : Prop :=
  ∀ (s : State) (p : Fin 16) (index n : Nat) (b : Buf),
    s.pools.bufs.find? (fun b => b.pool == p.val && b.index == index) = some b →
    let doubleFree (t : State) (m : Nat) : Prop :=
      (t.poolDrop p index m).1 = true ∧ Safety.SameButRegs t (t.poolDrop p index m).2 ∧
      Safety.OnlyRegs [Key.poolDoubleFreeCount p] t (t.poolDrop p index m).2 ∧
      (t.reg (Key.poolDoubleFreeCount p) + 1 < dictModulus (Key.poolDoubleFreeCount p) →
        (t.poolDrop p index m).2.reg (Key.poolDoubleFreeCount p) = t.reg (Key.poolDoubleFreeCount p) + 1)
    (n < b.refs → (s.poolDrop p index n).1 = false ∧ Safety.SameButRegs s { (s.poolDrop p index n).2 with pools := s.pools } ∧
      (s.poolDrop p index n).2.pools.bufs.length = s.pools.bufs.length ∧
      (s.poolDrop p index n).2.pools.bufs.find? (fun b => b.pool == p.val && b.index == index) = some { b with refs := b.refs - n } ∧
      (s.poolDrop p index n).2.pools.bufs.filter (fun y => !(y.pool == p.val && y.index == index)) =
        s.pools.bufs.filter (fun y => !(y.pool == p.val && y.index == index))) ∧
    (let t := (s.poolDrop p index b.refs).2
     (s.poolDrop p index b.refs).1 = false ∧ t.pools.bufs = s.pools.bufs.filter (fun y => !(y.pool == p.val && y.index == index)) ∧
     t.mem = s.mem ∧ doubleFree t (n + 1)) ∧
    (b.refs < n → doubleFree s n)
end

