-- ==== Sys2Proof/Laws/State.lean ====
section
/-! SUPPORT. One lemma per field of State and per update of a part of it, and one per reading of a part: what the update leaves. -/
namespace Sys2Proof.Machine

/-! ### setReg -/

@[simp] theorem State.setReg_bulk (s : State) (k v : Nat) : (s.setReg k v).bulk = s.bulk := rfl
@[simp] theorem State.setReg_mem (s : State) (k v : Nat) : (s.setReg k v).mem = s.mem := rfl
@[simp] theorem State.setReg_image (s : State) (k v : Nat) : (s.setReg k v).image = s.image := rfl
@[simp] theorem State.setReg_bufBlocks (s : State) (k v : Nat) : (s.setReg k v).bufBlocks = s.bufBlocks := rfl
@[simp] theorem State.setReg_loading (s : State) (k v : Nat) : (s.setReg k v).loading = s.loading := rfl
@[simp] theorem State.setReg_ctxs (s : State) (k v : Nat) : (s.setReg k v).ctxs = s.ctxs := rfl
@[simp] theorem State.setReg_tiles (s : State) (k v : Nat) : (s.setReg k v).tiles = s.tiles := rfl
@[simp] theorem State.setReg_pools (s : State) (k v : Nat) : (s.setReg k v).pools = s.pools := rfl
@[simp] theorem State.setReg_ports (s : State) (k v : Nat) : (s.setReg k v).ports = s.ports := rfl
@[simp] theorem State.setReg_fab (s : State) (k v : Nat) : (s.setReg k v).fab = s.fab := rfl
@[simp] theorem State.setReg_heldEnters (s : State) (k v : Nat) : (s.setReg k v).heldEnters = s.heldEnters := rfl
@[simp] theorem State.setReg_time (s : State) (k v : Nat) : (s.setReg k v).time = s.time := rfl
@[simp] theorem State.setReg_coded (s : State) (k v : Nat) : (s.setReg k v).coded = s.coded := rfl
@[simp] theorem State.setReg_ckpt (s : State) (k v : Nat) : (s.setReg k v).ckpt = s.ckpt := rfl
@[simp] theorem State.setReg_events (s : State) (k v : Nat) : (s.setReg k v).events = s.events := rfl
@[simp] theorem State.setReg_faultSeq (s : State) (k v : Nat) : (s.setReg k v).faultSeq = s.faultSeq := rfl
@[simp] theorem State.setReg_acc (s : State) (k v : Nat) : (s.setReg k v).acc = s.acc := rfl
@[simp] theorem State.setReg_start (s : State) (k v : Nat) : (s.setReg k v).start = s.start := rfl
@[simp] theorem State.setReg_power (s : State) (k v : Nat) : (s.setReg k v).power = s.power := rfl
@[simp] theorem State.setReg_out (s : State) (k v : Nat) : (s.setReg k v).out = s.out := rfl
@[simp] theorem State.setReg_freeCount (s : State) (k v : Nat) : (s.setReg k v).freeCount = s.freeCount := rfl
@[simp] theorem State.setReg_pending (s : State) (k v : Nat) : (s.setReg k v).pending = s.pending := rfl
@[simp] theorem State.bulkByte_setReg (s : State) (k v : Nat) (j n : Nat) : (s.setReg k v).bulkByte j n = s.bulkByte j n := rfl
@[simp] theorem State.ctx_setReg (s : State) (k v : Nat) (d : Fin 4) : (s.setReg k v).ctx d = s.ctx d := rfl
@[simp] theorem State.run_setReg (s : State) (k v : Nat) (d : Fin 4) (n : Fin 8) : (s.setReg k v).run d n = s.run d n := rfl
@[simp] theorem State.port_setReg (s : State) (k v : Nat) (pp : Fin 16) : (s.setReg k v).port pp = s.port pp := rfl
@[simp] theorem State.tick_setReg (s : State) (k v : Nat) : (s.setReg k v).tick = s.tick := rfl
@[simp] theorem State.now_setReg (s : State) (k v : Nat) : (s.setReg k v).now = s.now := rfl
@[simp] theorem State.memBytes_setReg (s : State) (k v : Nat) (adr n : Nat) : (s.setReg k v).memBytes adr n = s.memBytes adr n := rfl
@[simp] theorem State.started_setReg (s : State) (k v : Nat) : (s.setReg k v).started = s.started := rfl

/-! ### setRegI -/

@[simp] theorem State.setRegI_bulk (s : State) (k : Nat) (x : Int) : (s.setRegI k x).bulk = s.bulk := rfl
@[simp] theorem State.setRegI_mem (s : State) (k : Nat) (x : Int) : (s.setRegI k x).mem = s.mem := rfl
@[simp] theorem State.setRegI_image (s : State) (k : Nat) (x : Int) : (s.setRegI k x).image = s.image := rfl
@[simp] theorem State.setRegI_bufBlocks (s : State) (k : Nat) (x : Int) : (s.setRegI k x).bufBlocks = s.bufBlocks := rfl
@[simp] theorem State.setRegI_loading (s : State) (k : Nat) (x : Int) : (s.setRegI k x).loading = s.loading := rfl
@[simp] theorem State.setRegI_ctxs (s : State) (k : Nat) (x : Int) : (s.setRegI k x).ctxs = s.ctxs := rfl
@[simp] theorem State.setRegI_tiles (s : State) (k : Nat) (x : Int) : (s.setRegI k x).tiles = s.tiles := rfl
@[simp] theorem State.setRegI_pools (s : State) (k : Nat) (x : Int) : (s.setRegI k x).pools = s.pools := rfl
@[simp] theorem State.setRegI_ports (s : State) (k : Nat) (x : Int) : (s.setRegI k x).ports = s.ports := rfl
@[simp] theorem State.setRegI_fab (s : State) (k : Nat) (x : Int) : (s.setRegI k x).fab = s.fab := rfl
@[simp] theorem State.setRegI_heldEnters (s : State) (k : Nat) (x : Int) : (s.setRegI k x).heldEnters = s.heldEnters := rfl
@[simp] theorem State.setRegI_time (s : State) (k : Nat) (x : Int) : (s.setRegI k x).time = s.time := rfl
@[simp] theorem State.setRegI_coded (s : State) (k : Nat) (x : Int) : (s.setRegI k x).coded = s.coded := rfl
@[simp] theorem State.setRegI_ckpt (s : State) (k : Nat) (x : Int) : (s.setRegI k x).ckpt = s.ckpt := rfl
@[simp] theorem State.setRegI_events (s : State) (k : Nat) (x : Int) : (s.setRegI k x).events = s.events := rfl
@[simp] theorem State.setRegI_faultSeq (s : State) (k : Nat) (x : Int) : (s.setRegI k x).faultSeq = s.faultSeq := rfl
@[simp] theorem State.setRegI_acc (s : State) (k : Nat) (x : Int) : (s.setRegI k x).acc = s.acc := rfl
@[simp] theorem State.setRegI_start (s : State) (k : Nat) (x : Int) : (s.setRegI k x).start = s.start := rfl
@[simp] theorem State.setRegI_power (s : State) (k : Nat) (x : Int) : (s.setRegI k x).power = s.power := rfl
@[simp] theorem State.setRegI_out (s : State) (k : Nat) (x : Int) : (s.setRegI k x).out = s.out := rfl
@[simp] theorem State.setRegI_freeCount (s : State) (k : Nat) (x : Int) : (s.setRegI k x).freeCount = s.freeCount := rfl
@[simp] theorem State.setRegI_pending (s : State) (k : Nat) (x : Int) : (s.setRegI k x).pending = s.pending := rfl
@[simp] theorem State.bulkByte_setRegI (s : State) (k : Nat) (x : Int) (j n : Nat) : (s.setRegI k x).bulkByte j n = s.bulkByte j n := rfl
@[simp] theorem State.ctx_setRegI (s : State) (k : Nat) (x : Int) (d : Fin 4) : (s.setRegI k x).ctx d = s.ctx d := rfl
@[simp] theorem State.run_setRegI (s : State) (k : Nat) (x : Int) (d : Fin 4) (n : Fin 8) : (s.setRegI k x).run d n = s.run d n := rfl
@[simp] theorem State.port_setRegI (s : State) (k : Nat) (x : Int) (pp : Fin 16) : (s.setRegI k x).port pp = s.port pp := rfl
@[simp] theorem State.tick_setRegI (s : State) (k : Nat) (x : Int) : (s.setRegI k x).tick = s.tick := rfl
@[simp] theorem State.now_setRegI (s : State) (k : Nat) (x : Int) : (s.setRegI k x).now = s.now := rfl
@[simp] theorem State.memBytes_setRegI (s : State) (k : Nat) (x : Int) (adr n : Nat) : (s.setRegI k x).memBytes adr n = s.memBytes adr n := rfl
@[simp] theorem State.started_setRegI (s : State) (k : Nat) (x : Int) : (s.setRegI k x).started = s.started := rfl

/-! ### setBulkByte -/

@[simp] theorem State.setBulkByte_regs (s : State) (k off : Nat) (b : Byte) : (s.setBulkByte k off b).regs = s.regs := rfl
@[simp] theorem State.setBulkByte_mem (s : State) (k off : Nat) (b : Byte) : (s.setBulkByte k off b).mem = s.mem := rfl
@[simp] theorem State.setBulkByte_image (s : State) (k off : Nat) (b : Byte) : (s.setBulkByte k off b).image = s.image := rfl
@[simp] theorem State.setBulkByte_bufBlocks (s : State) (k off : Nat) (b : Byte) : (s.setBulkByte k off b).bufBlocks = s.bufBlocks := rfl
@[simp] theorem State.setBulkByte_loading (s : State) (k off : Nat) (b : Byte) : (s.setBulkByte k off b).loading = s.loading := rfl
@[simp] theorem State.setBulkByte_ctxs (s : State) (k off : Nat) (b : Byte) : (s.setBulkByte k off b).ctxs = s.ctxs := rfl
@[simp] theorem State.setBulkByte_tiles (s : State) (k off : Nat) (b : Byte) : (s.setBulkByte k off b).tiles = s.tiles := rfl
@[simp] theorem State.setBulkByte_pools (s : State) (k off : Nat) (b : Byte) : (s.setBulkByte k off b).pools = s.pools := rfl
@[simp] theorem State.setBulkByte_ports (s : State) (k off : Nat) (b : Byte) : (s.setBulkByte k off b).ports = s.ports := rfl
@[simp] theorem State.setBulkByte_fab (s : State) (k off : Nat) (b : Byte) : (s.setBulkByte k off b).fab = s.fab := rfl
@[simp] theorem State.setBulkByte_heldEnters (s : State) (k off : Nat) (b : Byte) : (s.setBulkByte k off b).heldEnters = s.heldEnters := rfl
@[simp] theorem State.setBulkByte_time (s : State) (k off : Nat) (b : Byte) : (s.setBulkByte k off b).time = s.time := rfl
@[simp] theorem State.setBulkByte_coded (s : State) (k off : Nat) (b : Byte) : (s.setBulkByte k off b).coded = s.coded := rfl
@[simp] theorem State.setBulkByte_ckpt (s : State) (k off : Nat) (b : Byte) : (s.setBulkByte k off b).ckpt = s.ckpt := rfl
@[simp] theorem State.setBulkByte_events (s : State) (k off : Nat) (b : Byte) : (s.setBulkByte k off b).events = s.events := rfl
@[simp] theorem State.setBulkByte_faultSeq (s : State) (k off : Nat) (b : Byte) : (s.setBulkByte k off b).faultSeq = s.faultSeq := rfl
@[simp] theorem State.setBulkByte_acc (s : State) (k off : Nat) (b : Byte) : (s.setBulkByte k off b).acc = s.acc := rfl
@[simp] theorem State.setBulkByte_start (s : State) (k off : Nat) (b : Byte) : (s.setBulkByte k off b).start = s.start := rfl
@[simp] theorem State.setBulkByte_power (s : State) (k off : Nat) (b : Byte) : (s.setBulkByte k off b).power = s.power := rfl
@[simp] theorem State.setBulkByte_out (s : State) (k off : Nat) (b : Byte) : (s.setBulkByte k off b).out = s.out := rfl
@[simp] theorem State.setBulkByte_freeCount (s : State) (k off : Nat) (b : Byte) : (s.setBulkByte k off b).freeCount = s.freeCount := rfl
@[simp] theorem State.setBulkByte_pending (s : State) (k off : Nat) (b : Byte) : (s.setBulkByte k off b).pending = s.pending := rfl
@[simp] theorem State.reg_setBulkByte (s : State) (k off : Nat) (b : Byte) (j : Nat) : (s.setBulkByte k off b).reg j = s.reg j := rfl
@[simp] theorem State.ctx_setBulkByte (s : State) (k off : Nat) (b : Byte) (d : Fin 4) : (s.setBulkByte k off b).ctx d = s.ctx d := rfl
@[simp] theorem State.run_setBulkByte (s : State) (k off : Nat) (b : Byte) (d : Fin 4) (n : Fin 8) : (s.setBulkByte k off b).run d n = s.run d n := rfl
@[simp] theorem State.port_setBulkByte (s : State) (k off : Nat) (b : Byte) (pp : Fin 16) : (s.setBulkByte k off b).port pp = s.port pp := rfl
@[simp] theorem State.tick_setBulkByte (s : State) (k off : Nat) (b : Byte) : (s.setBulkByte k off b).tick = s.tick := rfl
@[simp] theorem State.now_setBulkByte (s : State) (k off : Nat) (b : Byte) : (s.setBulkByte k off b).now = s.now := rfl
@[simp] theorem State.mstate_setBulkByte (s : State) (k off : Nat) (b : Byte) : (s.setBulkByte k off b).mstate = s.mstate := rfl
@[simp] theorem State.cstate_setBulkByte (s : State) (k off : Nat) (b : Byte) (d : Fin 4) : (s.setBulkByte k off b).cstate d = s.cstate d := rfl
@[simp] theorem State.memBytes_setBulkByte (s : State) (k off : Nat) (b : Byte) (adr n : Nat) : (s.setBulkByte k off b).memBytes adr n = s.memBytes adr n := rfl
@[simp] theorem State.started_setBulkByte (s : State) (k off : Nat) (b : Byte) : (s.setBulkByte k off b).started = s.started := rfl

/-! ### modMem -/

@[simp] theorem State.modMem_regs (s : State) (f : Mem → Mem) : (s.modMem f).regs = s.regs := rfl
@[simp] theorem State.modMem_bulk (s : State) (f : Mem → Mem) : (s.modMem f).bulk = s.bulk := rfl
@[simp] theorem State.modMem_image (s : State) (f : Mem → Mem) : (s.modMem f).image = s.image := rfl
@[simp] theorem State.modMem_bufBlocks (s : State) (f : Mem → Mem) : (s.modMem f).bufBlocks = s.bufBlocks := rfl
@[simp] theorem State.modMem_loading (s : State) (f : Mem → Mem) : (s.modMem f).loading = s.loading := rfl
@[simp] theorem State.modMem_ctxs (s : State) (f : Mem → Mem) : (s.modMem f).ctxs = s.ctxs := rfl
@[simp] theorem State.modMem_tiles (s : State) (f : Mem → Mem) : (s.modMem f).tiles = s.tiles := rfl
@[simp] theorem State.modMem_pools (s : State) (f : Mem → Mem) : (s.modMem f).pools = s.pools := rfl
@[simp] theorem State.modMem_ports (s : State) (f : Mem → Mem) : (s.modMem f).ports = s.ports := rfl
@[simp] theorem State.modMem_fab (s : State) (f : Mem → Mem) : (s.modMem f).fab = s.fab := rfl
@[simp] theorem State.modMem_heldEnters (s : State) (f : Mem → Mem) : (s.modMem f).heldEnters = s.heldEnters := rfl
@[simp] theorem State.modMem_time (s : State) (f : Mem → Mem) : (s.modMem f).time = s.time := rfl
@[simp] theorem State.modMem_coded (s : State) (f : Mem → Mem) : (s.modMem f).coded = s.coded := rfl
@[simp] theorem State.modMem_ckpt (s : State) (f : Mem → Mem) : (s.modMem f).ckpt = s.ckpt := rfl
@[simp] theorem State.modMem_events (s : State) (f : Mem → Mem) : (s.modMem f).events = s.events := rfl
@[simp] theorem State.modMem_faultSeq (s : State) (f : Mem → Mem) : (s.modMem f).faultSeq = s.faultSeq := rfl
@[simp] theorem State.modMem_acc (s : State) (f : Mem → Mem) : (s.modMem f).acc = s.acc := rfl
@[simp] theorem State.modMem_start (s : State) (f : Mem → Mem) : (s.modMem f).start = s.start := rfl
@[simp] theorem State.modMem_power (s : State) (f : Mem → Mem) : (s.modMem f).power = s.power := rfl
@[simp] theorem State.modMem_out (s : State) (f : Mem → Mem) : (s.modMem f).out = s.out := rfl
@[simp] theorem State.modMem_freeCount (s : State) (f : Mem → Mem) : (s.modMem f).freeCount = s.freeCount := rfl
@[simp] theorem State.modMem_pending (s : State) (f : Mem → Mem) : (s.modMem f).pending = s.pending := rfl
@[simp] theorem State.modMem_mem (s : State) (f : Mem → Mem) : (s.modMem f).mem = f s.mem := rfl
@[simp] theorem State.reg_modMem (s : State) (f : Mem → Mem) (j : Nat) : (s.modMem f).reg j = s.reg j := rfl
@[simp] theorem State.bulkByte_modMem (s : State) (f : Mem → Mem) (j n : Nat) : (s.modMem f).bulkByte j n = s.bulkByte j n := rfl
@[simp] theorem State.ctx_modMem (s : State) (f : Mem → Mem) (d : Fin 4) : (s.modMem f).ctx d = s.ctx d := rfl
@[simp] theorem State.run_modMem (s : State) (f : Mem → Mem) (d : Fin 4) (n : Fin 8) : (s.modMem f).run d n = s.run d n := rfl
@[simp] theorem State.port_modMem (s : State) (f : Mem → Mem) (pp : Fin 16) : (s.modMem f).port pp = s.port pp := rfl
@[simp] theorem State.tick_modMem (s : State) (f : Mem → Mem) : (s.modMem f).tick = s.tick := rfl
@[simp] theorem State.now_modMem (s : State) (f : Mem → Mem) : (s.modMem f).now = s.now := rfl
@[simp] theorem State.mstate_modMem (s : State) (f : Mem → Mem) : (s.modMem f).mstate = s.mstate := rfl
@[simp] theorem State.cstate_modMem (s : State) (f : Mem → Mem) (d : Fin 4) : (s.modMem f).cstate d = s.cstate d := rfl
@[simp] theorem State.started_modMem (s : State) (f : Mem → Mem) : (s.modMem f).started = s.started := rfl

/-! ### memWrite -/

@[simp] theorem State.memWrite_regs (s : State) (a : Nat) (bs : List Byte) : (s.memWrite a bs).regs = s.regs := rfl
@[simp] theorem State.memWrite_bulk (s : State) (a : Nat) (bs : List Byte) : (s.memWrite a bs).bulk = s.bulk := rfl
@[simp] theorem State.memWrite_image (s : State) (a : Nat) (bs : List Byte) : (s.memWrite a bs).image = s.image := rfl
@[simp] theorem State.memWrite_bufBlocks (s : State) (a : Nat) (bs : List Byte) : (s.memWrite a bs).bufBlocks = s.bufBlocks := rfl
@[simp] theorem State.memWrite_loading (s : State) (a : Nat) (bs : List Byte) : (s.memWrite a bs).loading = s.loading := rfl
@[simp] theorem State.memWrite_ctxs (s : State) (a : Nat) (bs : List Byte) : (s.memWrite a bs).ctxs = s.ctxs := rfl
@[simp] theorem State.memWrite_tiles (s : State) (a : Nat) (bs : List Byte) : (s.memWrite a bs).tiles = s.tiles := rfl
@[simp] theorem State.memWrite_pools (s : State) (a : Nat) (bs : List Byte) : (s.memWrite a bs).pools = s.pools := rfl
@[simp] theorem State.memWrite_ports (s : State) (a : Nat) (bs : List Byte) : (s.memWrite a bs).ports = s.ports := rfl
@[simp] theorem State.memWrite_fab (s : State) (a : Nat) (bs : List Byte) : (s.memWrite a bs).fab = s.fab := rfl
@[simp] theorem State.memWrite_heldEnters (s : State) (a : Nat) (bs : List Byte) : (s.memWrite a bs).heldEnters = s.heldEnters := rfl
@[simp] theorem State.memWrite_time (s : State) (a : Nat) (bs : List Byte) : (s.memWrite a bs).time = s.time := rfl
@[simp] theorem State.memWrite_coded (s : State) (a : Nat) (bs : List Byte) : (s.memWrite a bs).coded = s.coded := rfl
@[simp] theorem State.memWrite_ckpt (s : State) (a : Nat) (bs : List Byte) : (s.memWrite a bs).ckpt = s.ckpt := rfl
@[simp] theorem State.memWrite_events (s : State) (a : Nat) (bs : List Byte) : (s.memWrite a bs).events = s.events := rfl
@[simp] theorem State.memWrite_faultSeq (s : State) (a : Nat) (bs : List Byte) : (s.memWrite a bs).faultSeq = s.faultSeq := rfl
@[simp] theorem State.memWrite_acc (s : State) (a : Nat) (bs : List Byte) : (s.memWrite a bs).acc = s.acc := rfl
@[simp] theorem State.memWrite_start (s : State) (a : Nat) (bs : List Byte) : (s.memWrite a bs).start = s.start := rfl
@[simp] theorem State.memWrite_power (s : State) (a : Nat) (bs : List Byte) : (s.memWrite a bs).power = s.power := rfl
@[simp] theorem State.memWrite_out (s : State) (a : Nat) (bs : List Byte) : (s.memWrite a bs).out = s.out := rfl
@[simp] theorem State.memWrite_freeCount (s : State) (a : Nat) (bs : List Byte) : (s.memWrite a bs).freeCount = s.freeCount := rfl
@[simp] theorem State.memWrite_pending (s : State) (a : Nat) (bs : List Byte) : (s.memWrite a bs).pending = s.pending := rfl
@[simp] theorem State.reg_memWrite (s : State) (a : Nat) (bs : List Byte) (j : Nat) : (s.memWrite a bs).reg j = s.reg j := rfl
@[simp] theorem State.bulkByte_memWrite (s : State) (a : Nat) (bs : List Byte) (j n : Nat) : (s.memWrite a bs).bulkByte j n = s.bulkByte j n := rfl
@[simp] theorem State.ctx_memWrite (s : State) (a : Nat) (bs : List Byte) (d : Fin 4) : (s.memWrite a bs).ctx d = s.ctx d := rfl
@[simp] theorem State.run_memWrite (s : State) (a : Nat) (bs : List Byte) (d : Fin 4) (n : Fin 8) : (s.memWrite a bs).run d n = s.run d n := rfl
@[simp] theorem State.port_memWrite (s : State) (a : Nat) (bs : List Byte) (pp : Fin 16) : (s.memWrite a bs).port pp = s.port pp := rfl
@[simp] theorem State.tick_memWrite (s : State) (a : Nat) (bs : List Byte) : (s.memWrite a bs).tick = s.tick := rfl
@[simp] theorem State.now_memWrite (s : State) (a : Nat) (bs : List Byte) : (s.memWrite a bs).now = s.now := rfl
@[simp] theorem State.mstate_memWrite (s : State) (a : Nat) (bs : List Byte) : (s.memWrite a bs).mstate = s.mstate := rfl
@[simp] theorem State.cstate_memWrite (s : State) (a : Nat) (bs : List Byte) (d : Fin 4) : (s.memWrite a bs).cstate d = s.cstate d := rfl
@[simp] theorem State.started_memWrite (s : State) (a : Nat) (bs : List Byte) : (s.memWrite a bs).started = s.started := rfl

/-! ### modCtx -/

@[simp] theorem State.modCtx_regs (s : State) (c : Fin 4) (f : Ctx → Ctx) : (s.modCtx c f).regs = s.regs := rfl
@[simp] theorem State.modCtx_bulk (s : State) (c : Fin 4) (f : Ctx → Ctx) : (s.modCtx c f).bulk = s.bulk := rfl
@[simp] theorem State.modCtx_mem (s : State) (c : Fin 4) (f : Ctx → Ctx) : (s.modCtx c f).mem = s.mem := rfl
@[simp] theorem State.modCtx_image (s : State) (c : Fin 4) (f : Ctx → Ctx) : (s.modCtx c f).image = s.image := rfl
@[simp] theorem State.modCtx_bufBlocks (s : State) (c : Fin 4) (f : Ctx → Ctx) : (s.modCtx c f).bufBlocks = s.bufBlocks := rfl
@[simp] theorem State.modCtx_loading (s : State) (c : Fin 4) (f : Ctx → Ctx) : (s.modCtx c f).loading = s.loading := rfl
@[simp] theorem State.modCtx_tiles (s : State) (c : Fin 4) (f : Ctx → Ctx) : (s.modCtx c f).tiles = s.tiles := rfl
@[simp] theorem State.modCtx_pools (s : State) (c : Fin 4) (f : Ctx → Ctx) : (s.modCtx c f).pools = s.pools := rfl
@[simp] theorem State.modCtx_ports (s : State) (c : Fin 4) (f : Ctx → Ctx) : (s.modCtx c f).ports = s.ports := rfl
@[simp] theorem State.modCtx_fab (s : State) (c : Fin 4) (f : Ctx → Ctx) : (s.modCtx c f).fab = s.fab := rfl
@[simp] theorem State.modCtx_heldEnters (s : State) (c : Fin 4) (f : Ctx → Ctx) : (s.modCtx c f).heldEnters = s.heldEnters := rfl
@[simp] theorem State.modCtx_time (s : State) (c : Fin 4) (f : Ctx → Ctx) : (s.modCtx c f).time = s.time := rfl
@[simp] theorem State.modCtx_coded (s : State) (c : Fin 4) (f : Ctx → Ctx) : (s.modCtx c f).coded = s.coded := rfl
@[simp] theorem State.modCtx_ckpt (s : State) (c : Fin 4) (f : Ctx → Ctx) : (s.modCtx c f).ckpt = s.ckpt := rfl
@[simp] theorem State.modCtx_events (s : State) (c : Fin 4) (f : Ctx → Ctx) : (s.modCtx c f).events = s.events := rfl
@[simp] theorem State.modCtx_faultSeq (s : State) (c : Fin 4) (f : Ctx → Ctx) : (s.modCtx c f).faultSeq = s.faultSeq := rfl
@[simp] theorem State.modCtx_acc (s : State) (c : Fin 4) (f : Ctx → Ctx) : (s.modCtx c f).acc = s.acc := rfl
@[simp] theorem State.modCtx_start (s : State) (c : Fin 4) (f : Ctx → Ctx) : (s.modCtx c f).start = s.start := rfl
@[simp] theorem State.modCtx_power (s : State) (c : Fin 4) (f : Ctx → Ctx) : (s.modCtx c f).power = s.power := rfl
@[simp] theorem State.modCtx_out (s : State) (c : Fin 4) (f : Ctx → Ctx) : (s.modCtx c f).out = s.out := rfl
@[simp] theorem State.modCtx_freeCount (s : State) (c : Fin 4) (f : Ctx → Ctx) : (s.modCtx c f).freeCount = s.freeCount := rfl
@[simp] theorem State.modCtx_pending (s : State) (c : Fin 4) (f : Ctx → Ctx) : (s.modCtx c f).pending = s.pending := rfl
@[simp] theorem State.reg_modCtx (s : State) (c : Fin 4) (f : Ctx → Ctx) (j : Nat) : (s.modCtx c f).reg j = s.reg j := rfl
@[simp] theorem State.bulkByte_modCtx (s : State) (c : Fin 4) (f : Ctx → Ctx) (j n : Nat) : (s.modCtx c f).bulkByte j n = s.bulkByte j n := rfl
@[simp] theorem State.port_modCtx (s : State) (c : Fin 4) (f : Ctx → Ctx) (pp : Fin 16) : (s.modCtx c f).port pp = s.port pp := rfl
@[simp] theorem State.tick_modCtx (s : State) (c : Fin 4) (f : Ctx → Ctx) : (s.modCtx c f).tick = s.tick := rfl
@[simp] theorem State.now_modCtx (s : State) (c : Fin 4) (f : Ctx → Ctx) : (s.modCtx c f).now = s.now := rfl
@[simp] theorem State.mstate_modCtx (s : State) (c : Fin 4) (f : Ctx → Ctx) : (s.modCtx c f).mstate = s.mstate := rfl
@[simp] theorem State.cstate_modCtx (s : State) (c : Fin 4) (f : Ctx → Ctx) (d : Fin 4) : (s.modCtx c f).cstate d = s.cstate d := rfl
@[simp] theorem State.memBytes_modCtx (s : State) (c : Fin 4) (f : Ctx → Ctx) (adr n : Nat) : (s.modCtx c f).memBytes adr n = s.memBytes adr n := rfl
@[simp] theorem State.started_modCtx (s : State) (c : Fin 4) (f : Ctx → Ctx) : (s.modCtx c f).started = s.started := rfl

/-! ### modQueue -/

@[simp] theorem State.modQueue_regs (s : State) (c : Fin 4) (q : Fin 8) (f : Queue → Queue) : (s.modQueue c q f).regs = s.regs := rfl
@[simp] theorem State.modQueue_bulk (s : State) (c : Fin 4) (q : Fin 8) (f : Queue → Queue) : (s.modQueue c q f).bulk = s.bulk := rfl
@[simp] theorem State.modQueue_mem (s : State) (c : Fin 4) (q : Fin 8) (f : Queue → Queue) : (s.modQueue c q f).mem = s.mem := rfl
@[simp] theorem State.modQueue_image (s : State) (c : Fin 4) (q : Fin 8) (f : Queue → Queue) : (s.modQueue c q f).image = s.image := rfl
@[simp] theorem State.modQueue_bufBlocks (s : State) (c : Fin 4) (q : Fin 8) (f : Queue → Queue) : (s.modQueue c q f).bufBlocks = s.bufBlocks := rfl
@[simp] theorem State.modQueue_loading (s : State) (c : Fin 4) (q : Fin 8) (f : Queue → Queue) : (s.modQueue c q f).loading = s.loading := rfl
@[simp] theorem State.modQueue_tiles (s : State) (c : Fin 4) (q : Fin 8) (f : Queue → Queue) : (s.modQueue c q f).tiles = s.tiles := rfl
@[simp] theorem State.modQueue_pools (s : State) (c : Fin 4) (q : Fin 8) (f : Queue → Queue) : (s.modQueue c q f).pools = s.pools := rfl
@[simp] theorem State.modQueue_ports (s : State) (c : Fin 4) (q : Fin 8) (f : Queue → Queue) : (s.modQueue c q f).ports = s.ports := rfl
@[simp] theorem State.modQueue_fab (s : State) (c : Fin 4) (q : Fin 8) (f : Queue → Queue) : (s.modQueue c q f).fab = s.fab := rfl
@[simp] theorem State.modQueue_heldEnters (s : State) (c : Fin 4) (q : Fin 8) (f : Queue → Queue) : (s.modQueue c q f).heldEnters = s.heldEnters := rfl
@[simp] theorem State.modQueue_time (s : State) (c : Fin 4) (q : Fin 8) (f : Queue → Queue) : (s.modQueue c q f).time = s.time := rfl
@[simp] theorem State.modQueue_coded (s : State) (c : Fin 4) (q : Fin 8) (f : Queue → Queue) : (s.modQueue c q f).coded = s.coded := rfl
@[simp] theorem State.modQueue_ckpt (s : State) (c : Fin 4) (q : Fin 8) (f : Queue → Queue) : (s.modQueue c q f).ckpt = s.ckpt := rfl
@[simp] theorem State.modQueue_events (s : State) (c : Fin 4) (q : Fin 8) (f : Queue → Queue) : (s.modQueue c q f).events = s.events := rfl
@[simp] theorem State.modQueue_faultSeq (s : State) (c : Fin 4) (q : Fin 8) (f : Queue → Queue) : (s.modQueue c q f).faultSeq = s.faultSeq := rfl
@[simp] theorem State.modQueue_acc (s : State) (c : Fin 4) (q : Fin 8) (f : Queue → Queue) : (s.modQueue c q f).acc = s.acc := rfl
@[simp] theorem State.modQueue_start (s : State) (c : Fin 4) (q : Fin 8) (f : Queue → Queue) : (s.modQueue c q f).start = s.start := rfl
@[simp] theorem State.modQueue_power (s : State) (c : Fin 4) (q : Fin 8) (f : Queue → Queue) : (s.modQueue c q f).power = s.power := rfl
@[simp] theorem State.modQueue_out (s : State) (c : Fin 4) (q : Fin 8) (f : Queue → Queue) : (s.modQueue c q f).out = s.out := rfl
@[simp] theorem State.modQueue_freeCount (s : State) (c : Fin 4) (q : Fin 8) (f : Queue → Queue) : (s.modQueue c q f).freeCount = s.freeCount := rfl
@[simp] theorem State.modQueue_pending (s : State) (c : Fin 4) (q : Fin 8) (f : Queue → Queue) : (s.modQueue c q f).pending = s.pending := rfl
@[simp] theorem State.reg_modQueue (s : State) (c : Fin 4) (q : Fin 8) (f : Queue → Queue) (j : Nat) : (s.modQueue c q f).reg j = s.reg j := rfl
@[simp] theorem State.bulkByte_modQueue (s : State) (c : Fin 4) (q : Fin 8) (f : Queue → Queue) (j n : Nat) : (s.modQueue c q f).bulkByte j n = s.bulkByte j n := rfl
@[simp] theorem State.port_modQueue (s : State) (c : Fin 4) (q : Fin 8) (f : Queue → Queue) (pp : Fin 16) : (s.modQueue c q f).port pp = s.port pp := rfl
@[simp] theorem State.tick_modQueue (s : State) (c : Fin 4) (q : Fin 8) (f : Queue → Queue) : (s.modQueue c q f).tick = s.tick := rfl
@[simp] theorem State.now_modQueue (s : State) (c : Fin 4) (q : Fin 8) (f : Queue → Queue) : (s.modQueue c q f).now = s.now := rfl
@[simp] theorem State.mstate_modQueue (s : State) (c : Fin 4) (q : Fin 8) (f : Queue → Queue) : (s.modQueue c q f).mstate = s.mstate := rfl
@[simp] theorem State.cstate_modQueue (s : State) (c : Fin 4) (q : Fin 8) (f : Queue → Queue) (d : Fin 4) : (s.modQueue c q f).cstate d = s.cstate d := rfl
@[simp] theorem State.memBytes_modQueue (s : State) (c : Fin 4) (q : Fin 8) (f : Queue → Queue) (adr n : Nat) : (s.modQueue c q f).memBytes adr n = s.memBytes adr n := rfl
@[simp] theorem State.started_modQueue (s : State) (c : Fin 4) (q : Fin 8) (f : Queue → Queue) : (s.modQueue c q f).started = s.started := rfl

/-! ### setRun -/

@[simp] theorem State.setRun_regs (s : State) (c : Fin 4) (q : Fin 8) (r : Option Run) : (s.setRun c q r).regs = s.regs := rfl
@[simp] theorem State.setRun_bulk (s : State) (c : Fin 4) (q : Fin 8) (r : Option Run) : (s.setRun c q r).bulk = s.bulk := rfl
@[simp] theorem State.setRun_mem (s : State) (c : Fin 4) (q : Fin 8) (r : Option Run) : (s.setRun c q r).mem = s.mem := rfl
@[simp] theorem State.setRun_image (s : State) (c : Fin 4) (q : Fin 8) (r : Option Run) : (s.setRun c q r).image = s.image := rfl
@[simp] theorem State.setRun_bufBlocks (s : State) (c : Fin 4) (q : Fin 8) (r : Option Run) : (s.setRun c q r).bufBlocks = s.bufBlocks := rfl
@[simp] theorem State.setRun_loading (s : State) (c : Fin 4) (q : Fin 8) (r : Option Run) : (s.setRun c q r).loading = s.loading := rfl
@[simp] theorem State.setRun_tiles (s : State) (c : Fin 4) (q : Fin 8) (r : Option Run) : (s.setRun c q r).tiles = s.tiles := rfl
@[simp] theorem State.setRun_pools (s : State) (c : Fin 4) (q : Fin 8) (r : Option Run) : (s.setRun c q r).pools = s.pools := rfl
@[simp] theorem State.setRun_ports (s : State) (c : Fin 4) (q : Fin 8) (r : Option Run) : (s.setRun c q r).ports = s.ports := rfl
@[simp] theorem State.setRun_fab (s : State) (c : Fin 4) (q : Fin 8) (r : Option Run) : (s.setRun c q r).fab = s.fab := rfl
@[simp] theorem State.setRun_heldEnters (s : State) (c : Fin 4) (q : Fin 8) (r : Option Run) : (s.setRun c q r).heldEnters = s.heldEnters := rfl
@[simp] theorem State.setRun_time (s : State) (c : Fin 4) (q : Fin 8) (r : Option Run) : (s.setRun c q r).time = s.time := rfl
@[simp] theorem State.setRun_coded (s : State) (c : Fin 4) (q : Fin 8) (r : Option Run) : (s.setRun c q r).coded = s.coded := rfl
@[simp] theorem State.setRun_ckpt (s : State) (c : Fin 4) (q : Fin 8) (r : Option Run) : (s.setRun c q r).ckpt = s.ckpt := rfl
@[simp] theorem State.setRun_events (s : State) (c : Fin 4) (q : Fin 8) (r : Option Run) : (s.setRun c q r).events = s.events := rfl
@[simp] theorem State.setRun_faultSeq (s : State) (c : Fin 4) (q : Fin 8) (r : Option Run) : (s.setRun c q r).faultSeq = s.faultSeq := rfl
@[simp] theorem State.setRun_acc (s : State) (c : Fin 4) (q : Fin 8) (r : Option Run) : (s.setRun c q r).acc = s.acc := rfl
@[simp] theorem State.setRun_start (s : State) (c : Fin 4) (q : Fin 8) (r : Option Run) : (s.setRun c q r).start = s.start := rfl
@[simp] theorem State.setRun_power (s : State) (c : Fin 4) (q : Fin 8) (r : Option Run) : (s.setRun c q r).power = s.power := rfl
@[simp] theorem State.setRun_out (s : State) (c : Fin 4) (q : Fin 8) (r : Option Run) : (s.setRun c q r).out = s.out := rfl
@[simp] theorem State.setRun_freeCount (s : State) (c : Fin 4) (q : Fin 8) (r : Option Run) : (s.setRun c q r).freeCount = s.freeCount := rfl
@[simp] theorem State.setRun_pending (s : State) (c : Fin 4) (q : Fin 8) (r : Option Run) : (s.setRun c q r).pending = s.pending := rfl
@[simp] theorem State.reg_setRun (s : State) (c : Fin 4) (q : Fin 8) (r : Option Run) (j : Nat) : (s.setRun c q r).reg j = s.reg j := rfl
@[simp] theorem State.bulkByte_setRun (s : State) (c : Fin 4) (q : Fin 8) (r : Option Run) (j n : Nat) : (s.setRun c q r).bulkByte j n = s.bulkByte j n := rfl
@[simp] theorem State.port_setRun (s : State) (c : Fin 4) (q : Fin 8) (r : Option Run) (pp : Fin 16) : (s.setRun c q r).port pp = s.port pp := rfl
@[simp] theorem State.tick_setRun (s : State) (c : Fin 4) (q : Fin 8) (r : Option Run) : (s.setRun c q r).tick = s.tick := rfl
@[simp] theorem State.now_setRun (s : State) (c : Fin 4) (q : Fin 8) (r : Option Run) : (s.setRun c q r).now = s.now := rfl
@[simp] theorem State.mstate_setRun (s : State) (c : Fin 4) (q : Fin 8) (r : Option Run) : (s.setRun c q r).mstate = s.mstate := rfl
@[simp] theorem State.cstate_setRun (s : State) (c : Fin 4) (q : Fin 8) (r : Option Run) (d : Fin 4) : (s.setRun c q r).cstate d = s.cstate d := rfl
@[simp] theorem State.memBytes_setRun (s : State) (c : Fin 4) (q : Fin 8) (r : Option Run) (adr n : Nat) : (s.setRun c q r).memBytes adr n = s.memBytes adr n := rfl
@[simp] theorem State.started_setRun (s : State) (c : Fin 4) (q : Fin 8) (r : Option Run) : (s.setRun c q r).started = s.started := rfl

/-! ### modRun -/

@[simp] theorem State.modRun_regs (s : State) (c : Fin 4) (q : Fin 8) (f : Run → Run) : (s.modRun c q f).regs = s.regs := rfl
@[simp] theorem State.modRun_bulk (s : State) (c : Fin 4) (q : Fin 8) (f : Run → Run) : (s.modRun c q f).bulk = s.bulk := rfl
@[simp] theorem State.modRun_mem (s : State) (c : Fin 4) (q : Fin 8) (f : Run → Run) : (s.modRun c q f).mem = s.mem := rfl
@[simp] theorem State.modRun_image (s : State) (c : Fin 4) (q : Fin 8) (f : Run → Run) : (s.modRun c q f).image = s.image := rfl
@[simp] theorem State.modRun_bufBlocks (s : State) (c : Fin 4) (q : Fin 8) (f : Run → Run) : (s.modRun c q f).bufBlocks = s.bufBlocks := rfl
@[simp] theorem State.modRun_loading (s : State) (c : Fin 4) (q : Fin 8) (f : Run → Run) : (s.modRun c q f).loading = s.loading := rfl
@[simp] theorem State.modRun_tiles (s : State) (c : Fin 4) (q : Fin 8) (f : Run → Run) : (s.modRun c q f).tiles = s.tiles := rfl
@[simp] theorem State.modRun_pools (s : State) (c : Fin 4) (q : Fin 8) (f : Run → Run) : (s.modRun c q f).pools = s.pools := rfl
@[simp] theorem State.modRun_ports (s : State) (c : Fin 4) (q : Fin 8) (f : Run → Run) : (s.modRun c q f).ports = s.ports := rfl
@[simp] theorem State.modRun_fab (s : State) (c : Fin 4) (q : Fin 8) (f : Run → Run) : (s.modRun c q f).fab = s.fab := rfl
@[simp] theorem State.modRun_heldEnters (s : State) (c : Fin 4) (q : Fin 8) (f : Run → Run) : (s.modRun c q f).heldEnters = s.heldEnters := rfl
@[simp] theorem State.modRun_time (s : State) (c : Fin 4) (q : Fin 8) (f : Run → Run) : (s.modRun c q f).time = s.time := rfl
@[simp] theorem State.modRun_coded (s : State) (c : Fin 4) (q : Fin 8) (f : Run → Run) : (s.modRun c q f).coded = s.coded := rfl
@[simp] theorem State.modRun_ckpt (s : State) (c : Fin 4) (q : Fin 8) (f : Run → Run) : (s.modRun c q f).ckpt = s.ckpt := rfl
@[simp] theorem State.modRun_events (s : State) (c : Fin 4) (q : Fin 8) (f : Run → Run) : (s.modRun c q f).events = s.events := rfl
@[simp] theorem State.modRun_faultSeq (s : State) (c : Fin 4) (q : Fin 8) (f : Run → Run) : (s.modRun c q f).faultSeq = s.faultSeq := rfl
@[simp] theorem State.modRun_acc (s : State) (c : Fin 4) (q : Fin 8) (f : Run → Run) : (s.modRun c q f).acc = s.acc := rfl
@[simp] theorem State.modRun_start (s : State) (c : Fin 4) (q : Fin 8) (f : Run → Run) : (s.modRun c q f).start = s.start := rfl
@[simp] theorem State.modRun_power (s : State) (c : Fin 4) (q : Fin 8) (f : Run → Run) : (s.modRun c q f).power = s.power := rfl
@[simp] theorem State.modRun_out (s : State) (c : Fin 4) (q : Fin 8) (f : Run → Run) : (s.modRun c q f).out = s.out := rfl
@[simp] theorem State.modRun_freeCount (s : State) (c : Fin 4) (q : Fin 8) (f : Run → Run) : (s.modRun c q f).freeCount = s.freeCount := rfl
@[simp] theorem State.modRun_pending (s : State) (c : Fin 4) (q : Fin 8) (f : Run → Run) : (s.modRun c q f).pending = s.pending := rfl
@[simp] theorem State.reg_modRun (s : State) (c : Fin 4) (q : Fin 8) (f : Run → Run) (j : Nat) : (s.modRun c q f).reg j = s.reg j := rfl
@[simp] theorem State.bulkByte_modRun (s : State) (c : Fin 4) (q : Fin 8) (f : Run → Run) (j n : Nat) : (s.modRun c q f).bulkByte j n = s.bulkByte j n := rfl
@[simp] theorem State.port_modRun (s : State) (c : Fin 4) (q : Fin 8) (f : Run → Run) (pp : Fin 16) : (s.modRun c q f).port pp = s.port pp := rfl
@[simp] theorem State.tick_modRun (s : State) (c : Fin 4) (q : Fin 8) (f : Run → Run) : (s.modRun c q f).tick = s.tick := rfl
@[simp] theorem State.now_modRun (s : State) (c : Fin 4) (q : Fin 8) (f : Run → Run) : (s.modRun c q f).now = s.now := rfl
@[simp] theorem State.mstate_modRun (s : State) (c : Fin 4) (q : Fin 8) (f : Run → Run) : (s.modRun c q f).mstate = s.mstate := rfl
@[simp] theorem State.cstate_modRun (s : State) (c : Fin 4) (q : Fin 8) (f : Run → Run) (d : Fin 4) : (s.modRun c q f).cstate d = s.cstate d := rfl
@[simp] theorem State.memBytes_modRun (s : State) (c : Fin 4) (q : Fin 8) (f : Run → Run) (adr n : Nat) : (s.modRun c q f).memBytes adr n = s.memBytes adr n := rfl
@[simp] theorem State.started_modRun (s : State) (c : Fin 4) (q : Fin 8) (f : Run → Run) : (s.modRun c q f).started = s.started := rfl

/-! ### modPort -/

@[simp] theorem State.modPort_regs (s : State) (p : Fin 16) (f : Port → Port) : (s.modPort p f).regs = s.regs := rfl
@[simp] theorem State.modPort_bulk (s : State) (p : Fin 16) (f : Port → Port) : (s.modPort p f).bulk = s.bulk := rfl
@[simp] theorem State.modPort_mem (s : State) (p : Fin 16) (f : Port → Port) : (s.modPort p f).mem = s.mem := rfl
@[simp] theorem State.modPort_image (s : State) (p : Fin 16) (f : Port → Port) : (s.modPort p f).image = s.image := rfl
@[simp] theorem State.modPort_bufBlocks (s : State) (p : Fin 16) (f : Port → Port) : (s.modPort p f).bufBlocks = s.bufBlocks := rfl
@[simp] theorem State.modPort_loading (s : State) (p : Fin 16) (f : Port → Port) : (s.modPort p f).loading = s.loading := rfl
@[simp] theorem State.modPort_ctxs (s : State) (p : Fin 16) (f : Port → Port) : (s.modPort p f).ctxs = s.ctxs := rfl
@[simp] theorem State.modPort_tiles (s : State) (p : Fin 16) (f : Port → Port) : (s.modPort p f).tiles = s.tiles := rfl
@[simp] theorem State.modPort_pools (s : State) (p : Fin 16) (f : Port → Port) : (s.modPort p f).pools = s.pools := rfl
@[simp] theorem State.modPort_fab (s : State) (p : Fin 16) (f : Port → Port) : (s.modPort p f).fab = s.fab := rfl
@[simp] theorem State.modPort_heldEnters (s : State) (p : Fin 16) (f : Port → Port) : (s.modPort p f).heldEnters = s.heldEnters := rfl
@[simp] theorem State.modPort_time (s : State) (p : Fin 16) (f : Port → Port) : (s.modPort p f).time = s.time := rfl
@[simp] theorem State.modPort_coded (s : State) (p : Fin 16) (f : Port → Port) : (s.modPort p f).coded = s.coded := rfl
@[simp] theorem State.modPort_ckpt (s : State) (p : Fin 16) (f : Port → Port) : (s.modPort p f).ckpt = s.ckpt := rfl
@[simp] theorem State.modPort_events (s : State) (p : Fin 16) (f : Port → Port) : (s.modPort p f).events = s.events := rfl
@[simp] theorem State.modPort_faultSeq (s : State) (p : Fin 16) (f : Port → Port) : (s.modPort p f).faultSeq = s.faultSeq := rfl
@[simp] theorem State.modPort_acc (s : State) (p : Fin 16) (f : Port → Port) : (s.modPort p f).acc = s.acc := rfl
@[simp] theorem State.modPort_start (s : State) (p : Fin 16) (f : Port → Port) : (s.modPort p f).start = s.start := rfl
@[simp] theorem State.modPort_power (s : State) (p : Fin 16) (f : Port → Port) : (s.modPort p f).power = s.power := rfl
@[simp] theorem State.modPort_out (s : State) (p : Fin 16) (f : Port → Port) : (s.modPort p f).out = s.out := rfl
@[simp] theorem State.modPort_freeCount (s : State) (p : Fin 16) (f : Port → Port) : (s.modPort p f).freeCount = s.freeCount := rfl
@[simp] theorem State.modPort_pending (s : State) (p : Fin 16) (f : Port → Port) : (s.modPort p f).pending = s.pending := rfl
@[simp] theorem State.reg_modPort (s : State) (p : Fin 16) (f : Port → Port) (j : Nat) : (s.modPort p f).reg j = s.reg j := rfl
@[simp] theorem State.bulkByte_modPort (s : State) (p : Fin 16) (f : Port → Port) (j n : Nat) : (s.modPort p f).bulkByte j n = s.bulkByte j n := rfl
@[simp] theorem State.ctx_modPort (s : State) (p : Fin 16) (f : Port → Port) (d : Fin 4) : (s.modPort p f).ctx d = s.ctx d := rfl
@[simp] theorem State.run_modPort (s : State) (p : Fin 16) (f : Port → Port) (d : Fin 4) (n : Fin 8) : (s.modPort p f).run d n = s.run d n := rfl
@[simp] theorem State.tick_modPort (s : State) (p : Fin 16) (f : Port → Port) : (s.modPort p f).tick = s.tick := rfl
@[simp] theorem State.now_modPort (s : State) (p : Fin 16) (f : Port → Port) : (s.modPort p f).now = s.now := rfl
@[simp] theorem State.mstate_modPort (s : State) (p : Fin 16) (f : Port → Port) : (s.modPort p f).mstate = s.mstate := rfl
@[simp] theorem State.cstate_modPort (s : State) (p : Fin 16) (f : Port → Port) (d : Fin 4) : (s.modPort p f).cstate d = s.cstate d := rfl
@[simp] theorem State.memBytes_modPort (s : State) (p : Fin 16) (f : Port → Port) (adr n : Nat) : (s.modPort p f).memBytes adr n = s.memBytes adr n := rfl
@[simp] theorem State.started_modPort (s : State) (p : Fin 16) (f : Port → Port) : (s.modPort p f).started = s.started := rfl

/-! ### modFab -/

@[simp] theorem State.modFab_regs (s : State) (f : Fabric → Fabric) : (s.modFab f).regs = s.regs := rfl
@[simp] theorem State.modFab_bulk (s : State) (f : Fabric → Fabric) : (s.modFab f).bulk = s.bulk := rfl
@[simp] theorem State.modFab_mem (s : State) (f : Fabric → Fabric) : (s.modFab f).mem = s.mem := rfl
@[simp] theorem State.modFab_image (s : State) (f : Fabric → Fabric) : (s.modFab f).image = s.image := rfl
@[simp] theorem State.modFab_bufBlocks (s : State) (f : Fabric → Fabric) : (s.modFab f).bufBlocks = s.bufBlocks := rfl
@[simp] theorem State.modFab_loading (s : State) (f : Fabric → Fabric) : (s.modFab f).loading = s.loading := rfl
@[simp] theorem State.modFab_ctxs (s : State) (f : Fabric → Fabric) : (s.modFab f).ctxs = s.ctxs := rfl
@[simp] theorem State.modFab_tiles (s : State) (f : Fabric → Fabric) : (s.modFab f).tiles = s.tiles := rfl
@[simp] theorem State.modFab_pools (s : State) (f : Fabric → Fabric) : (s.modFab f).pools = s.pools := rfl
@[simp] theorem State.modFab_ports (s : State) (f : Fabric → Fabric) : (s.modFab f).ports = s.ports := rfl
@[simp] theorem State.modFab_heldEnters (s : State) (f : Fabric → Fabric) : (s.modFab f).heldEnters = s.heldEnters := rfl
@[simp] theorem State.modFab_time (s : State) (f : Fabric → Fabric) : (s.modFab f).time = s.time := rfl
@[simp] theorem State.modFab_coded (s : State) (f : Fabric → Fabric) : (s.modFab f).coded = s.coded := rfl
@[simp] theorem State.modFab_ckpt (s : State) (f : Fabric → Fabric) : (s.modFab f).ckpt = s.ckpt := rfl
@[simp] theorem State.modFab_events (s : State) (f : Fabric → Fabric) : (s.modFab f).events = s.events := rfl
@[simp] theorem State.modFab_faultSeq (s : State) (f : Fabric → Fabric) : (s.modFab f).faultSeq = s.faultSeq := rfl
@[simp] theorem State.modFab_acc (s : State) (f : Fabric → Fabric) : (s.modFab f).acc = s.acc := rfl
@[simp] theorem State.modFab_start (s : State) (f : Fabric → Fabric) : (s.modFab f).start = s.start := rfl
@[simp] theorem State.modFab_power (s : State) (f : Fabric → Fabric) : (s.modFab f).power = s.power := rfl
@[simp] theorem State.modFab_out (s : State) (f : Fabric → Fabric) : (s.modFab f).out = s.out := rfl
@[simp] theorem State.modFab_freeCount (s : State) (f : Fabric → Fabric) : (s.modFab f).freeCount = s.freeCount := rfl
@[simp] theorem State.modFab_pending (s : State) (f : Fabric → Fabric) : (s.modFab f).pending = s.pending := rfl
@[simp] theorem State.modFab_fab (s : State) (f : Fabric → Fabric) : (s.modFab f).fab = f s.fab := rfl
@[simp] theorem State.reg_modFab (s : State) (f : Fabric → Fabric) (j : Nat) : (s.modFab f).reg j = s.reg j := rfl
@[simp] theorem State.bulkByte_modFab (s : State) (f : Fabric → Fabric) (j n : Nat) : (s.modFab f).bulkByte j n = s.bulkByte j n := rfl
@[simp] theorem State.ctx_modFab (s : State) (f : Fabric → Fabric) (d : Fin 4) : (s.modFab f).ctx d = s.ctx d := rfl
@[simp] theorem State.run_modFab (s : State) (f : Fabric → Fabric) (d : Fin 4) (n : Fin 8) : (s.modFab f).run d n = s.run d n := rfl
@[simp] theorem State.port_modFab (s : State) (f : Fabric → Fabric) (pp : Fin 16) : (s.modFab f).port pp = s.port pp := rfl
@[simp] theorem State.tick_modFab (s : State) (f : Fabric → Fabric) : (s.modFab f).tick = s.tick := rfl
@[simp] theorem State.now_modFab (s : State) (f : Fabric → Fabric) : (s.modFab f).now = s.now := rfl
@[simp] theorem State.mstate_modFab (s : State) (f : Fabric → Fabric) : (s.modFab f).mstate = s.mstate := rfl
@[simp] theorem State.cstate_modFab (s : State) (f : Fabric → Fabric) (d : Fin 4) : (s.modFab f).cstate d = s.cstate d := rfl
@[simp] theorem State.memBytes_modFab (s : State) (f : Fabric → Fabric) (adr n : Nat) : (s.modFab f).memBytes adr n = s.memBytes adr n := rfl
@[simp] theorem State.started_modFab (s : State) (f : Fabric → Fabric) : (s.modFab f).started = s.started := rfl

/-! ### modCoded -/

@[simp] theorem State.modCoded_regs (s : State) (f : Coded → Coded) : (s.modCoded f).regs = s.regs := rfl
@[simp] theorem State.modCoded_bulk (s : State) (f : Coded → Coded) : (s.modCoded f).bulk = s.bulk := rfl
@[simp] theorem State.modCoded_mem (s : State) (f : Coded → Coded) : (s.modCoded f).mem = s.mem := rfl
@[simp] theorem State.modCoded_image (s : State) (f : Coded → Coded) : (s.modCoded f).image = s.image := rfl
@[simp] theorem State.modCoded_bufBlocks (s : State) (f : Coded → Coded) : (s.modCoded f).bufBlocks = s.bufBlocks := rfl
@[simp] theorem State.modCoded_loading (s : State) (f : Coded → Coded) : (s.modCoded f).loading = s.loading := rfl
@[simp] theorem State.modCoded_ctxs (s : State) (f : Coded → Coded) : (s.modCoded f).ctxs = s.ctxs := rfl
@[simp] theorem State.modCoded_tiles (s : State) (f : Coded → Coded) : (s.modCoded f).tiles = s.tiles := rfl
@[simp] theorem State.modCoded_pools (s : State) (f : Coded → Coded) : (s.modCoded f).pools = s.pools := rfl
@[simp] theorem State.modCoded_ports (s : State) (f : Coded → Coded) : (s.modCoded f).ports = s.ports := rfl
@[simp] theorem State.modCoded_fab (s : State) (f : Coded → Coded) : (s.modCoded f).fab = s.fab := rfl
@[simp] theorem State.modCoded_heldEnters (s : State) (f : Coded → Coded) : (s.modCoded f).heldEnters = s.heldEnters := rfl
@[simp] theorem State.modCoded_time (s : State) (f : Coded → Coded) : (s.modCoded f).time = s.time := rfl
@[simp] theorem State.modCoded_ckpt (s : State) (f : Coded → Coded) : (s.modCoded f).ckpt = s.ckpt := rfl
@[simp] theorem State.modCoded_events (s : State) (f : Coded → Coded) : (s.modCoded f).events = s.events := rfl
@[simp] theorem State.modCoded_faultSeq (s : State) (f : Coded → Coded) : (s.modCoded f).faultSeq = s.faultSeq := rfl
@[simp] theorem State.modCoded_acc (s : State) (f : Coded → Coded) : (s.modCoded f).acc = s.acc := rfl
@[simp] theorem State.modCoded_start (s : State) (f : Coded → Coded) : (s.modCoded f).start = s.start := rfl
@[simp] theorem State.modCoded_power (s : State) (f : Coded → Coded) : (s.modCoded f).power = s.power := rfl
@[simp] theorem State.modCoded_out (s : State) (f : Coded → Coded) : (s.modCoded f).out = s.out := rfl
@[simp] theorem State.modCoded_freeCount (s : State) (f : Coded → Coded) : (s.modCoded f).freeCount = s.freeCount := rfl
@[simp] theorem State.modCoded_pending (s : State) (f : Coded → Coded) : (s.modCoded f).pending = s.pending := rfl
@[simp] theorem State.modCoded_coded (s : State) (f : Coded → Coded) : (s.modCoded f).coded = f s.coded := rfl
@[simp] theorem State.reg_modCoded (s : State) (f : Coded → Coded) (j : Nat) : (s.modCoded f).reg j = s.reg j := rfl
@[simp] theorem State.bulkByte_modCoded (s : State) (f : Coded → Coded) (j n : Nat) : (s.modCoded f).bulkByte j n = s.bulkByte j n := rfl
@[simp] theorem State.ctx_modCoded (s : State) (f : Coded → Coded) (d : Fin 4) : (s.modCoded f).ctx d = s.ctx d := rfl
@[simp] theorem State.run_modCoded (s : State) (f : Coded → Coded) (d : Fin 4) (n : Fin 8) : (s.modCoded f).run d n = s.run d n := rfl
@[simp] theorem State.port_modCoded (s : State) (f : Coded → Coded) (pp : Fin 16) : (s.modCoded f).port pp = s.port pp := rfl
@[simp] theorem State.tick_modCoded (s : State) (f : Coded → Coded) : (s.modCoded f).tick = s.tick := rfl
@[simp] theorem State.now_modCoded (s : State) (f : Coded → Coded) : (s.modCoded f).now = s.now := rfl
@[simp] theorem State.mstate_modCoded (s : State) (f : Coded → Coded) : (s.modCoded f).mstate = s.mstate := rfl
@[simp] theorem State.cstate_modCoded (s : State) (f : Coded → Coded) (d : Fin 4) : (s.modCoded f).cstate d = s.cstate d := rfl
@[simp] theorem State.memBytes_modCoded (s : State) (f : Coded → Coded) (adr n : Nat) : (s.modCoded f).memBytes adr n = s.memBytes adr n := rfl
@[simp] theorem State.started_modCoded (s : State) (f : Coded → Coded) : (s.modCoded f).started = s.started := rfl

/-! ### modCkpt -/

@[simp] theorem State.modCkpt_regs (s : State) (f : Ckpt → Ckpt) : (s.modCkpt f).regs = s.regs := rfl
@[simp] theorem State.modCkpt_bulk (s : State) (f : Ckpt → Ckpt) : (s.modCkpt f).bulk = s.bulk := rfl
@[simp] theorem State.modCkpt_mem (s : State) (f : Ckpt → Ckpt) : (s.modCkpt f).mem = s.mem := rfl
@[simp] theorem State.modCkpt_image (s : State) (f : Ckpt → Ckpt) : (s.modCkpt f).image = s.image := rfl
@[simp] theorem State.modCkpt_bufBlocks (s : State) (f : Ckpt → Ckpt) : (s.modCkpt f).bufBlocks = s.bufBlocks := rfl
@[simp] theorem State.modCkpt_loading (s : State) (f : Ckpt → Ckpt) : (s.modCkpt f).loading = s.loading := rfl
@[simp] theorem State.modCkpt_ctxs (s : State) (f : Ckpt → Ckpt) : (s.modCkpt f).ctxs = s.ctxs := rfl
@[simp] theorem State.modCkpt_tiles (s : State) (f : Ckpt → Ckpt) : (s.modCkpt f).tiles = s.tiles := rfl
@[simp] theorem State.modCkpt_pools (s : State) (f : Ckpt → Ckpt) : (s.modCkpt f).pools = s.pools := rfl
@[simp] theorem State.modCkpt_ports (s : State) (f : Ckpt → Ckpt) : (s.modCkpt f).ports = s.ports := rfl
@[simp] theorem State.modCkpt_fab (s : State) (f : Ckpt → Ckpt) : (s.modCkpt f).fab = s.fab := rfl
@[simp] theorem State.modCkpt_heldEnters (s : State) (f : Ckpt → Ckpt) : (s.modCkpt f).heldEnters = s.heldEnters := rfl
@[simp] theorem State.modCkpt_time (s : State) (f : Ckpt → Ckpt) : (s.modCkpt f).time = s.time := rfl
@[simp] theorem State.modCkpt_coded (s : State) (f : Ckpt → Ckpt) : (s.modCkpt f).coded = s.coded := rfl
@[simp] theorem State.modCkpt_events (s : State) (f : Ckpt → Ckpt) : (s.modCkpt f).events = s.events := rfl
@[simp] theorem State.modCkpt_faultSeq (s : State) (f : Ckpt → Ckpt) : (s.modCkpt f).faultSeq = s.faultSeq := rfl
@[simp] theorem State.modCkpt_acc (s : State) (f : Ckpt → Ckpt) : (s.modCkpt f).acc = s.acc := rfl
@[simp] theorem State.modCkpt_start (s : State) (f : Ckpt → Ckpt) : (s.modCkpt f).start = s.start := rfl
@[simp] theorem State.modCkpt_power (s : State) (f : Ckpt → Ckpt) : (s.modCkpt f).power = s.power := rfl
@[simp] theorem State.modCkpt_out (s : State) (f : Ckpt → Ckpt) : (s.modCkpt f).out = s.out := rfl
@[simp] theorem State.modCkpt_freeCount (s : State) (f : Ckpt → Ckpt) : (s.modCkpt f).freeCount = s.freeCount := rfl
@[simp] theorem State.modCkpt_pending (s : State) (f : Ckpt → Ckpt) : (s.modCkpt f).pending = s.pending := rfl
@[simp] theorem State.modCkpt_ckpt (s : State) (f : Ckpt → Ckpt) : (s.modCkpt f).ckpt = f s.ckpt := rfl
@[simp] theorem State.reg_modCkpt (s : State) (f : Ckpt → Ckpt) (j : Nat) : (s.modCkpt f).reg j = s.reg j := rfl
@[simp] theorem State.bulkByte_modCkpt (s : State) (f : Ckpt → Ckpt) (j n : Nat) : (s.modCkpt f).bulkByte j n = s.bulkByte j n := rfl
@[simp] theorem State.ctx_modCkpt (s : State) (f : Ckpt → Ckpt) (d : Fin 4) : (s.modCkpt f).ctx d = s.ctx d := rfl
@[simp] theorem State.run_modCkpt (s : State) (f : Ckpt → Ckpt) (d : Fin 4) (n : Fin 8) : (s.modCkpt f).run d n = s.run d n := rfl
@[simp] theorem State.port_modCkpt (s : State) (f : Ckpt → Ckpt) (pp : Fin 16) : (s.modCkpt f).port pp = s.port pp := rfl
@[simp] theorem State.tick_modCkpt (s : State) (f : Ckpt → Ckpt) : (s.modCkpt f).tick = s.tick := rfl
@[simp] theorem State.now_modCkpt (s : State) (f : Ckpt → Ckpt) : (s.modCkpt f).now = s.now := rfl
@[simp] theorem State.mstate_modCkpt (s : State) (f : Ckpt → Ckpt) : (s.modCkpt f).mstate = s.mstate := rfl
@[simp] theorem State.cstate_modCkpt (s : State) (f : Ckpt → Ckpt) (d : Fin 4) : (s.modCkpt f).cstate d = s.cstate d := rfl
@[simp] theorem State.memBytes_modCkpt (s : State) (f : Ckpt → Ckpt) (adr n : Nat) : (s.modCkpt f).memBytes adr n = s.memBytes adr n := rfl
@[simp] theorem State.started_modCkpt (s : State) (f : Ckpt → Ckpt) : (s.modCkpt f).started = s.started := rfl

/-! ### modAcc -/

@[simp] theorem State.modAcc_regs (s : State) (f : Access → Access) : (s.modAcc f).regs = s.regs := rfl
@[simp] theorem State.modAcc_bulk (s : State) (f : Access → Access) : (s.modAcc f).bulk = s.bulk := rfl
@[simp] theorem State.modAcc_mem (s : State) (f : Access → Access) : (s.modAcc f).mem = s.mem := rfl
@[simp] theorem State.modAcc_image (s : State) (f : Access → Access) : (s.modAcc f).image = s.image := rfl
@[simp] theorem State.modAcc_bufBlocks (s : State) (f : Access → Access) : (s.modAcc f).bufBlocks = s.bufBlocks := rfl
@[simp] theorem State.modAcc_loading (s : State) (f : Access → Access) : (s.modAcc f).loading = s.loading := rfl
@[simp] theorem State.modAcc_ctxs (s : State) (f : Access → Access) : (s.modAcc f).ctxs = s.ctxs := rfl
@[simp] theorem State.modAcc_tiles (s : State) (f : Access → Access) : (s.modAcc f).tiles = s.tiles := rfl
@[simp] theorem State.modAcc_pools (s : State) (f : Access → Access) : (s.modAcc f).pools = s.pools := rfl
@[simp] theorem State.modAcc_ports (s : State) (f : Access → Access) : (s.modAcc f).ports = s.ports := rfl
@[simp] theorem State.modAcc_fab (s : State) (f : Access → Access) : (s.modAcc f).fab = s.fab := rfl
@[simp] theorem State.modAcc_heldEnters (s : State) (f : Access → Access) : (s.modAcc f).heldEnters = s.heldEnters := rfl
@[simp] theorem State.modAcc_time (s : State) (f : Access → Access) : (s.modAcc f).time = s.time := rfl
@[simp] theorem State.modAcc_coded (s : State) (f : Access → Access) : (s.modAcc f).coded = s.coded := rfl
@[simp] theorem State.modAcc_ckpt (s : State) (f : Access → Access) : (s.modAcc f).ckpt = s.ckpt := rfl
@[simp] theorem State.modAcc_events (s : State) (f : Access → Access) : (s.modAcc f).events = s.events := rfl
@[simp] theorem State.modAcc_faultSeq (s : State) (f : Access → Access) : (s.modAcc f).faultSeq = s.faultSeq := rfl
@[simp] theorem State.modAcc_start (s : State) (f : Access → Access) : (s.modAcc f).start = s.start := rfl
@[simp] theorem State.modAcc_power (s : State) (f : Access → Access) : (s.modAcc f).power = s.power := rfl
@[simp] theorem State.modAcc_out (s : State) (f : Access → Access) : (s.modAcc f).out = s.out := rfl
@[simp] theorem State.modAcc_freeCount (s : State) (f : Access → Access) : (s.modAcc f).freeCount = s.freeCount := rfl
@[simp] theorem State.modAcc_pending (s : State) (f : Access → Access) : (s.modAcc f).pending = s.pending := rfl
@[simp] theorem State.modAcc_acc (s : State) (f : Access → Access) : (s.modAcc f).acc = f s.acc := rfl
@[simp] theorem State.reg_modAcc (s : State) (f : Access → Access) (j : Nat) : (s.modAcc f).reg j = s.reg j := rfl
@[simp] theorem State.bulkByte_modAcc (s : State) (f : Access → Access) (j n : Nat) : (s.modAcc f).bulkByte j n = s.bulkByte j n := rfl
@[simp] theorem State.ctx_modAcc (s : State) (f : Access → Access) (d : Fin 4) : (s.modAcc f).ctx d = s.ctx d := rfl
@[simp] theorem State.run_modAcc (s : State) (f : Access → Access) (d : Fin 4) (n : Fin 8) : (s.modAcc f).run d n = s.run d n := rfl
@[simp] theorem State.port_modAcc (s : State) (f : Access → Access) (pp : Fin 16) : (s.modAcc f).port pp = s.port pp := rfl
@[simp] theorem State.tick_modAcc (s : State) (f : Access → Access) : (s.modAcc f).tick = s.tick := rfl
@[simp] theorem State.now_modAcc (s : State) (f : Access → Access) : (s.modAcc f).now = s.now := rfl
@[simp] theorem State.mstate_modAcc (s : State) (f : Access → Access) : (s.modAcc f).mstate = s.mstate := rfl
@[simp] theorem State.cstate_modAcc (s : State) (f : Access → Access) (d : Fin 4) : (s.modAcc f).cstate d = s.cstate d := rfl
@[simp] theorem State.memBytes_modAcc (s : State) (f : Access → Access) (adr n : Nat) : (s.modAcc f).memBytes adr n = s.memBytes adr n := rfl
@[simp] theorem State.started_modAcc (s : State) (f : Access → Access) : (s.modAcc f).started = s.started := rfl

/-! ### modPools -/

@[simp] theorem State.modPools_regs (s : State) (f : Pools → Pools) : (s.modPools f).regs = s.regs := rfl
@[simp] theorem State.modPools_bulk (s : State) (f : Pools → Pools) : (s.modPools f).bulk = s.bulk := rfl
@[simp] theorem State.modPools_mem (s : State) (f : Pools → Pools) : (s.modPools f).mem = s.mem := rfl
@[simp] theorem State.modPools_image (s : State) (f : Pools → Pools) : (s.modPools f).image = s.image := rfl
@[simp] theorem State.modPools_bufBlocks (s : State) (f : Pools → Pools) : (s.modPools f).bufBlocks = s.bufBlocks := rfl
@[simp] theorem State.modPools_loading (s : State) (f : Pools → Pools) : (s.modPools f).loading = s.loading := rfl
@[simp] theorem State.modPools_ctxs (s : State) (f : Pools → Pools) : (s.modPools f).ctxs = s.ctxs := rfl
@[simp] theorem State.modPools_tiles (s : State) (f : Pools → Pools) : (s.modPools f).tiles = s.tiles := rfl
@[simp] theorem State.modPools_ports (s : State) (f : Pools → Pools) : (s.modPools f).ports = s.ports := rfl
@[simp] theorem State.modPools_fab (s : State) (f : Pools → Pools) : (s.modPools f).fab = s.fab := rfl
@[simp] theorem State.modPools_heldEnters (s : State) (f : Pools → Pools) : (s.modPools f).heldEnters = s.heldEnters := rfl
@[simp] theorem State.modPools_time (s : State) (f : Pools → Pools) : (s.modPools f).time = s.time := rfl
@[simp] theorem State.modPools_coded (s : State) (f : Pools → Pools) : (s.modPools f).coded = s.coded := rfl
@[simp] theorem State.modPools_ckpt (s : State) (f : Pools → Pools) : (s.modPools f).ckpt = s.ckpt := rfl
@[simp] theorem State.modPools_events (s : State) (f : Pools → Pools) : (s.modPools f).events = s.events := rfl
@[simp] theorem State.modPools_faultSeq (s : State) (f : Pools → Pools) : (s.modPools f).faultSeq = s.faultSeq := rfl
@[simp] theorem State.modPools_acc (s : State) (f : Pools → Pools) : (s.modPools f).acc = s.acc := rfl
@[simp] theorem State.modPools_start (s : State) (f : Pools → Pools) : (s.modPools f).start = s.start := rfl
@[simp] theorem State.modPools_power (s : State) (f : Pools → Pools) : (s.modPools f).power = s.power := rfl
@[simp] theorem State.modPools_out (s : State) (f : Pools → Pools) : (s.modPools f).out = s.out := rfl
@[simp] theorem State.modPools_freeCount (s : State) (f : Pools → Pools) : (s.modPools f).freeCount = s.freeCount := rfl
@[simp] theorem State.modPools_pending (s : State) (f : Pools → Pools) : (s.modPools f).pending = s.pending := rfl
@[simp] theorem State.modPools_pools (s : State) (f : Pools → Pools) : (s.modPools f).pools = f s.pools := rfl
@[simp] theorem State.reg_modPools (s : State) (f : Pools → Pools) (j : Nat) : (s.modPools f).reg j = s.reg j := rfl
@[simp] theorem State.bulkByte_modPools (s : State) (f : Pools → Pools) (j n : Nat) : (s.modPools f).bulkByte j n = s.bulkByte j n := rfl
@[simp] theorem State.ctx_modPools (s : State) (f : Pools → Pools) (d : Fin 4) : (s.modPools f).ctx d = s.ctx d := rfl
@[simp] theorem State.run_modPools (s : State) (f : Pools → Pools) (d : Fin 4) (n : Fin 8) : (s.modPools f).run d n = s.run d n := rfl
@[simp] theorem State.port_modPools (s : State) (f : Pools → Pools) (pp : Fin 16) : (s.modPools f).port pp = s.port pp := rfl
@[simp] theorem State.tick_modPools (s : State) (f : Pools → Pools) : (s.modPools f).tick = s.tick := rfl
@[simp] theorem State.now_modPools (s : State) (f : Pools → Pools) : (s.modPools f).now = s.now := rfl
@[simp] theorem State.mstate_modPools (s : State) (f : Pools → Pools) : (s.modPools f).mstate = s.mstate := rfl
@[simp] theorem State.cstate_modPools (s : State) (f : Pools → Pools) (d : Fin 4) : (s.modPools f).cstate d = s.cstate d := rfl
@[simp] theorem State.memBytes_modPools (s : State) (f : Pools → Pools) (adr n : Nat) : (s.modPools f).memBytes adr n = s.memBytes adr n := rfl
@[simp] theorem State.started_modPools (s : State) (f : Pools → Pools) : (s.modPools f).started = s.started := rfl

/-! ### modStart -/

@[simp] theorem State.modStart_regs (s : State) (f : Start → Start) : (s.modStart f).regs = s.regs := rfl
@[simp] theorem State.modStart_bulk (s : State) (f : Start → Start) : (s.modStart f).bulk = s.bulk := rfl
@[simp] theorem State.modStart_mem (s : State) (f : Start → Start) : (s.modStart f).mem = s.mem := rfl
@[simp] theorem State.modStart_image (s : State) (f : Start → Start) : (s.modStart f).image = s.image := rfl
@[simp] theorem State.modStart_bufBlocks (s : State) (f : Start → Start) : (s.modStart f).bufBlocks = s.bufBlocks := rfl
@[simp] theorem State.modStart_loading (s : State) (f : Start → Start) : (s.modStart f).loading = s.loading := rfl
@[simp] theorem State.modStart_ctxs (s : State) (f : Start → Start) : (s.modStart f).ctxs = s.ctxs := rfl
@[simp] theorem State.modStart_tiles (s : State) (f : Start → Start) : (s.modStart f).tiles = s.tiles := rfl
@[simp] theorem State.modStart_pools (s : State) (f : Start → Start) : (s.modStart f).pools = s.pools := rfl
@[simp] theorem State.modStart_ports (s : State) (f : Start → Start) : (s.modStart f).ports = s.ports := rfl
@[simp] theorem State.modStart_fab (s : State) (f : Start → Start) : (s.modStart f).fab = s.fab := rfl
@[simp] theorem State.modStart_heldEnters (s : State) (f : Start → Start) : (s.modStart f).heldEnters = s.heldEnters := rfl
@[simp] theorem State.modStart_time (s : State) (f : Start → Start) : (s.modStart f).time = s.time := rfl
@[simp] theorem State.modStart_coded (s : State) (f : Start → Start) : (s.modStart f).coded = s.coded := rfl
@[simp] theorem State.modStart_ckpt (s : State) (f : Start → Start) : (s.modStart f).ckpt = s.ckpt := rfl
@[simp] theorem State.modStart_events (s : State) (f : Start → Start) : (s.modStart f).events = s.events := rfl
@[simp] theorem State.modStart_faultSeq (s : State) (f : Start → Start) : (s.modStart f).faultSeq = s.faultSeq := rfl
@[simp] theorem State.modStart_acc (s : State) (f : Start → Start) : (s.modStart f).acc = s.acc := rfl
@[simp] theorem State.modStart_power (s : State) (f : Start → Start) : (s.modStart f).power = s.power := rfl
@[simp] theorem State.modStart_out (s : State) (f : Start → Start) : (s.modStart f).out = s.out := rfl
@[simp] theorem State.modStart_freeCount (s : State) (f : Start → Start) : (s.modStart f).freeCount = s.freeCount := rfl
@[simp] theorem State.modStart_pending (s : State) (f : Start → Start) : (s.modStart f).pending = s.pending := rfl
@[simp] theorem State.modStart_start (s : State) (f : Start → Start) : (s.modStart f).start = f s.start := rfl
@[simp] theorem State.reg_modStart (s : State) (f : Start → Start) (j : Nat) : (s.modStart f).reg j = s.reg j := rfl
@[simp] theorem State.bulkByte_modStart (s : State) (f : Start → Start) (j n : Nat) : (s.modStart f).bulkByte j n = s.bulkByte j n := rfl
@[simp] theorem State.ctx_modStart (s : State) (f : Start → Start) (d : Fin 4) : (s.modStart f).ctx d = s.ctx d := rfl
@[simp] theorem State.run_modStart (s : State) (f : Start → Start) (d : Fin 4) (n : Fin 8) : (s.modStart f).run d n = s.run d n := rfl
@[simp] theorem State.port_modStart (s : State) (f : Start → Start) (pp : Fin 16) : (s.modStart f).port pp = s.port pp := rfl
@[simp] theorem State.tick_modStart (s : State) (f : Start → Start) : (s.modStart f).tick = s.tick := rfl
@[simp] theorem State.now_modStart (s : State) (f : Start → Start) : (s.modStart f).now = s.now := rfl
@[simp] theorem State.mstate_modStart (s : State) (f : Start → Start) : (s.modStart f).mstate = s.mstate := rfl
@[simp] theorem State.cstate_modStart (s : State) (f : Start → Start) (d : Fin 4) : (s.modStart f).cstate d = s.cstate d := rfl
@[simp] theorem State.memBytes_modStart (s : State) (f : Start → Start) (adr n : Nat) : (s.modStart f).memBytes adr n = s.memBytes adr n := rfl

/-! ### modPower -/

@[simp] theorem State.modPower_regs (s : State) (f : Power → Power) : (s.modPower f).regs = s.regs := rfl
@[simp] theorem State.modPower_bulk (s : State) (f : Power → Power) : (s.modPower f).bulk = s.bulk := rfl
@[simp] theorem State.modPower_mem (s : State) (f : Power → Power) : (s.modPower f).mem = s.mem := rfl
@[simp] theorem State.modPower_image (s : State) (f : Power → Power) : (s.modPower f).image = s.image := rfl
@[simp] theorem State.modPower_bufBlocks (s : State) (f : Power → Power) : (s.modPower f).bufBlocks = s.bufBlocks := rfl
@[simp] theorem State.modPower_loading (s : State) (f : Power → Power) : (s.modPower f).loading = s.loading := rfl
@[simp] theorem State.modPower_ctxs (s : State) (f : Power → Power) : (s.modPower f).ctxs = s.ctxs := rfl
@[simp] theorem State.modPower_tiles (s : State) (f : Power → Power) : (s.modPower f).tiles = s.tiles := rfl
@[simp] theorem State.modPower_pools (s : State) (f : Power → Power) : (s.modPower f).pools = s.pools := rfl
@[simp] theorem State.modPower_ports (s : State) (f : Power → Power) : (s.modPower f).ports = s.ports := rfl
@[simp] theorem State.modPower_fab (s : State) (f : Power → Power) : (s.modPower f).fab = s.fab := rfl
@[simp] theorem State.modPower_heldEnters (s : State) (f : Power → Power) : (s.modPower f).heldEnters = s.heldEnters := rfl
@[simp] theorem State.modPower_time (s : State) (f : Power → Power) : (s.modPower f).time = s.time := rfl
@[simp] theorem State.modPower_coded (s : State) (f : Power → Power) : (s.modPower f).coded = s.coded := rfl
@[simp] theorem State.modPower_ckpt (s : State) (f : Power → Power) : (s.modPower f).ckpt = s.ckpt := rfl
@[simp] theorem State.modPower_events (s : State) (f : Power → Power) : (s.modPower f).events = s.events := rfl
@[simp] theorem State.modPower_faultSeq (s : State) (f : Power → Power) : (s.modPower f).faultSeq = s.faultSeq := rfl
@[simp] theorem State.modPower_acc (s : State) (f : Power → Power) : (s.modPower f).acc = s.acc := rfl
@[simp] theorem State.modPower_start (s : State) (f : Power → Power) : (s.modPower f).start = s.start := rfl
@[simp] theorem State.modPower_out (s : State) (f : Power → Power) : (s.modPower f).out = s.out := rfl
@[simp] theorem State.modPower_freeCount (s : State) (f : Power → Power) : (s.modPower f).freeCount = s.freeCount := rfl
@[simp] theorem State.modPower_pending (s : State) (f : Power → Power) : (s.modPower f).pending = s.pending := rfl
@[simp] theorem State.modPower_power (s : State) (f : Power → Power) : (s.modPower f).power = f s.power := rfl
@[simp] theorem State.reg_modPower (s : State) (f : Power → Power) (j : Nat) : (s.modPower f).reg j = s.reg j := rfl
@[simp] theorem State.bulkByte_modPower (s : State) (f : Power → Power) (j n : Nat) : (s.modPower f).bulkByte j n = s.bulkByte j n := rfl
@[simp] theorem State.ctx_modPower (s : State) (f : Power → Power) (d : Fin 4) : (s.modPower f).ctx d = s.ctx d := rfl
@[simp] theorem State.run_modPower (s : State) (f : Power → Power) (d : Fin 4) (n : Fin 8) : (s.modPower f).run d n = s.run d n := rfl
@[simp] theorem State.port_modPower (s : State) (f : Power → Power) (pp : Fin 16) : (s.modPower f).port pp = s.port pp := rfl
@[simp] theorem State.tick_modPower (s : State) (f : Power → Power) : (s.modPower f).tick = s.tick := rfl
@[simp] theorem State.now_modPower (s : State) (f : Power → Power) : (s.modPower f).now = s.now := rfl
@[simp] theorem State.mstate_modPower (s : State) (f : Power → Power) : (s.modPower f).mstate = s.mstate := rfl
@[simp] theorem State.cstate_modPower (s : State) (f : Power → Power) (d : Fin 4) : (s.modPower f).cstate d = s.cstate d := rfl
@[simp] theorem State.memBytes_modPower (s : State) (f : Power → Power) (adr n : Nat) : (s.modPower f).memBytes adr n = s.memBytes adr n := rfl
@[simp] theorem State.started_modPower (s : State) (f : Power → Power) : (s.modPower f).started = s.started := rfl

/-! ### modTime -/

@[simp] theorem State.modTime_regs (s : State) (f : Time → Time) : (s.modTime f).regs = s.regs := rfl
@[simp] theorem State.modTime_bulk (s : State) (f : Time → Time) : (s.modTime f).bulk = s.bulk := rfl
@[simp] theorem State.modTime_mem (s : State) (f : Time → Time) : (s.modTime f).mem = s.mem := rfl
@[simp] theorem State.modTime_image (s : State) (f : Time → Time) : (s.modTime f).image = s.image := rfl
@[simp] theorem State.modTime_bufBlocks (s : State) (f : Time → Time) : (s.modTime f).bufBlocks = s.bufBlocks := rfl
@[simp] theorem State.modTime_loading (s : State) (f : Time → Time) : (s.modTime f).loading = s.loading := rfl
@[simp] theorem State.modTime_ctxs (s : State) (f : Time → Time) : (s.modTime f).ctxs = s.ctxs := rfl
@[simp] theorem State.modTime_tiles (s : State) (f : Time → Time) : (s.modTime f).tiles = s.tiles := rfl
@[simp] theorem State.modTime_pools (s : State) (f : Time → Time) : (s.modTime f).pools = s.pools := rfl
@[simp] theorem State.modTime_ports (s : State) (f : Time → Time) : (s.modTime f).ports = s.ports := rfl
@[simp] theorem State.modTime_fab (s : State) (f : Time → Time) : (s.modTime f).fab = s.fab := rfl
@[simp] theorem State.modTime_heldEnters (s : State) (f : Time → Time) : (s.modTime f).heldEnters = s.heldEnters := rfl
@[simp] theorem State.modTime_coded (s : State) (f : Time → Time) : (s.modTime f).coded = s.coded := rfl
@[simp] theorem State.modTime_ckpt (s : State) (f : Time → Time) : (s.modTime f).ckpt = s.ckpt := rfl
@[simp] theorem State.modTime_events (s : State) (f : Time → Time) : (s.modTime f).events = s.events := rfl
@[simp] theorem State.modTime_faultSeq (s : State) (f : Time → Time) : (s.modTime f).faultSeq = s.faultSeq := rfl
@[simp] theorem State.modTime_acc (s : State) (f : Time → Time) : (s.modTime f).acc = s.acc := rfl
@[simp] theorem State.modTime_start (s : State) (f : Time → Time) : (s.modTime f).start = s.start := rfl
@[simp] theorem State.modTime_power (s : State) (f : Time → Time) : (s.modTime f).power = s.power := rfl
@[simp] theorem State.modTime_out (s : State) (f : Time → Time) : (s.modTime f).out = s.out := rfl
@[simp] theorem State.modTime_freeCount (s : State) (f : Time → Time) : (s.modTime f).freeCount = s.freeCount := rfl
@[simp] theorem State.modTime_pending (s : State) (f : Time → Time) : (s.modTime f).pending = s.pending := rfl
@[simp] theorem State.modTime_time (s : State) (f : Time → Time) : (s.modTime f).time = f s.time := rfl
@[simp] theorem State.reg_modTime (s : State) (f : Time → Time) (j : Nat) : (s.modTime f).reg j = s.reg j := rfl
@[simp] theorem State.bulkByte_modTime (s : State) (f : Time → Time) (j n : Nat) : (s.modTime f).bulkByte j n = s.bulkByte j n := rfl
@[simp] theorem State.ctx_modTime (s : State) (f : Time → Time) (d : Fin 4) : (s.modTime f).ctx d = s.ctx d := rfl
@[simp] theorem State.run_modTime (s : State) (f : Time → Time) (d : Fin 4) (n : Fin 8) : (s.modTime f).run d n = s.run d n := rfl
@[simp] theorem State.port_modTime (s : State) (f : Time → Time) (pp : Fin 16) : (s.modTime f).port pp = s.port pp := rfl
@[simp] theorem State.mstate_modTime (s : State) (f : Time → Time) : (s.modTime f).mstate = s.mstate := rfl
@[simp] theorem State.cstate_modTime (s : State) (f : Time → Time) (d : Fin 4) : (s.modTime f).cstate d = s.cstate d := rfl
@[simp] theorem State.memBytes_modTime (s : State) (f : Time → Time) (adr n : Nat) : (s.modTime f).memBytes adr n = s.memBytes adr n := rfl
@[simp] theorem State.started_modTime (s : State) (f : Time → Time) : (s.modTime f).started = s.started := rfl

/-! ### toHost -/

@[simp] theorem State.toHost_regs (s : State) (o : HostOut) : (s.toHost o).regs = s.regs := rfl
@[simp] theorem State.toHost_bulk (s : State) (o : HostOut) : (s.toHost o).bulk = s.bulk := rfl
@[simp] theorem State.toHost_mem (s : State) (o : HostOut) : (s.toHost o).mem = s.mem := rfl
@[simp] theorem State.toHost_image (s : State) (o : HostOut) : (s.toHost o).image = s.image := rfl
@[simp] theorem State.toHost_bufBlocks (s : State) (o : HostOut) : (s.toHost o).bufBlocks = s.bufBlocks := rfl
@[simp] theorem State.toHost_loading (s : State) (o : HostOut) : (s.toHost o).loading = s.loading := rfl
@[simp] theorem State.toHost_ctxs (s : State) (o : HostOut) : (s.toHost o).ctxs = s.ctxs := rfl
@[simp] theorem State.toHost_tiles (s : State) (o : HostOut) : (s.toHost o).tiles = s.tiles := rfl
@[simp] theorem State.toHost_pools (s : State) (o : HostOut) : (s.toHost o).pools = s.pools := rfl
@[simp] theorem State.toHost_ports (s : State) (o : HostOut) : (s.toHost o).ports = s.ports := rfl
@[simp] theorem State.toHost_fab (s : State) (o : HostOut) : (s.toHost o).fab = s.fab := rfl
@[simp] theorem State.toHost_heldEnters (s : State) (o : HostOut) : (s.toHost o).heldEnters = s.heldEnters := rfl
@[simp] theorem State.toHost_time (s : State) (o : HostOut) : (s.toHost o).time = s.time := rfl
@[simp] theorem State.toHost_coded (s : State) (o : HostOut) : (s.toHost o).coded = s.coded := rfl
@[simp] theorem State.toHost_ckpt (s : State) (o : HostOut) : (s.toHost o).ckpt = s.ckpt := rfl
@[simp] theorem State.toHost_events (s : State) (o : HostOut) : (s.toHost o).events = s.events := rfl
@[simp] theorem State.toHost_faultSeq (s : State) (o : HostOut) : (s.toHost o).faultSeq = s.faultSeq := rfl
@[simp] theorem State.toHost_acc (s : State) (o : HostOut) : (s.toHost o).acc = s.acc := rfl
@[simp] theorem State.toHost_start (s : State) (o : HostOut) : (s.toHost o).start = s.start := rfl
@[simp] theorem State.toHost_power (s : State) (o : HostOut) : (s.toHost o).power = s.power := rfl
@[simp] theorem State.toHost_freeCount (s : State) (o : HostOut) : (s.toHost o).freeCount = s.freeCount := rfl
@[simp] theorem State.toHost_pending (s : State) (o : HostOut) : (s.toHost o).pending = s.pending := rfl
@[simp] theorem State.reg_toHost (s : State) (o : HostOut) (j : Nat) : (s.toHost o).reg j = s.reg j := rfl
@[simp] theorem State.bulkByte_toHost (s : State) (o : HostOut) (j n : Nat) : (s.toHost o).bulkByte j n = s.bulkByte j n := rfl
@[simp] theorem State.ctx_toHost (s : State) (o : HostOut) (d : Fin 4) : (s.toHost o).ctx d = s.ctx d := rfl
@[simp] theorem State.run_toHost (s : State) (o : HostOut) (d : Fin 4) (n : Fin 8) : (s.toHost o).run d n = s.run d n := rfl
@[simp] theorem State.port_toHost (s : State) (o : HostOut) (pp : Fin 16) : (s.toHost o).port pp = s.port pp := rfl
@[simp] theorem State.tick_toHost (s : State) (o : HostOut) : (s.toHost o).tick = s.tick := rfl
@[simp] theorem State.now_toHost (s : State) (o : HostOut) : (s.toHost o).now = s.now := rfl
@[simp] theorem State.mstate_toHost (s : State) (o : HostOut) : (s.toHost o).mstate = s.mstate := rfl
@[simp] theorem State.cstate_toHost (s : State) (o : HostOut) (d : Fin 4) : (s.toHost o).cstate d = s.cstate d := rfl
@[simp] theorem State.memBytes_toHost (s : State) (o : HostOut) (adr n : Nat) : (s.toHost o).memBytes adr n = s.memBytes adr n := rfl
@[simp] theorem State.started_toHost (s : State) (o : HostOut) : (s.toHost o).started = s.started := rfl

end Sys2Proof.Machine
end

