-- ==== Sys2Proof/Laws/Sparse.lean ====
section
/-! SUPPORT. Sparse lists and byte memories: a key set reads as set, every other key as before, and every operation on a memory
keeps the canonical form. -/
namespace Sys2Proof.Machine

variable {α : Type} [DecidableEq α]

/-! ### Sparse lists -/

theorem sparseGet_sparseSet_other (l : List (Nat × α)) (k j : Nat) (v d d' : α) (h : j ≠ k) :
    sparseGet (sparseSet l k v d) j d' = sparseGet l j d' := by
  induction l with
  | nil => by_cases hv : v = d <;> simp [sparseSet, sparseGet, hv, Ne.symm h]
  | cons x t ih =>
    obtain ⟨a, y⟩ := x
    rw [sparseSet]
    split_ifs with h1 h2 h3 h4
    · rfl
    · simp [sparseGet, Ne.symm h]
    · subst h3; simp [sparseGet, Ne.symm h]
    · subst h3; simp [sparseGet, Ne.symm h]
    · simp only [sparseGet, ih]

theorem sparseWfFrom_mono (d : Nat → α) (l : List (Nat × α)) {m n : Nat} (h : m ≤ n) (hl : sparseWfFrom d n l = true) :
    sparseWfFrom d m l = true := by
  cases l with
  | nil => rfl
  | cons x t => simp only [sparseWfFrom, Bool.and_eq_true, decide_eq_true_eq] at *; exact ⟨by omega, hl.2⟩

theorem sparseGet_below (d : Nat → α) (l : List (Nat × α)) (n k : Nat) (hl : sparseWfFrom d n l = true) (hk : k < n) (e : α) :
    sparseGet l k e = e := by
  induction l generalizing n with
  | nil => rfl
  | cons x t ih =>
    simp only [sparseWfFrom, Bool.and_eq_true, decide_eq_true_eq] at hl
    rw [sparseGet, if_neg (by omega)]
    exact ih (x.1 + 1) hl.2.2 (by omega)

/-- A key set in a canonical list reads as it was set. -/
theorem sparseGet_sparseSet_same (d : Nat → α) (l : List (Nat × α)) (n k : Nat) (v : α) (hl : sparseWfFrom d n l = true) :
    sparseGet (sparseSet l k v (d k)) k (d k) = v := by
  induction l generalizing n with
  | nil => by_cases hv : v = d k <;> simp [sparseSet, sparseGet, hv]
  | cons x t ih =>
    obtain ⟨a, y⟩ := x
    simp only [sparseWfFrom, Bool.and_eq_true, decide_eq_true_eq] at hl
    rw [sparseSet]
    split_ifs with h1 h2 h3 h4
    · rw [h2, sparseGet, if_neg (by omega), sparseGet_below d t (a + 1) k hl.2.2 (by omega)]
    · simp [sparseGet]
    · subst h3; rw [h4]; exact sparseGet_below d t (k + 1) k hl.2.2 (by omega) _
    · simp [sparseGet]
    · rw [sparseGet, if_neg (fun h => h3 h.symm)]; exact ih _ hl.2.2

/-- A value that is no default reads as it was set in any list. -/
theorem sparseGet_sparseSet_ne (l : List (Nat × α)) (k : Nat) (v d e : α) (hv : v ≠ d) : sparseGet (sparseSet l k v d) k e = v := by
  induction l with
  | nil => simp [sparseSet, sparseGet, hv]
  | cons x t ih =>
    obtain ⟨a, y⟩ := x
    rw [sparseSet]
    split_ifs with h1 h3
    · simp [sparseGet]
    · simp [sparseGet]
    · rw [sparseGet, if_neg (fun h => h3 h.symm)]; exact ih

theorem sparseWfFrom_sparseSet (d : Nat → α) (l : List (Nat × α)) (n k : Nat) (v : α) (hl : sparseWfFrom d n l = true) (hk : n ≤ k) :
    sparseWfFrom d n (sparseSet l k v (d k)) = true := by
  induction l generalizing n with
  | nil => by_cases hv : v = d k <;> simp [sparseSet, sparseWfFrom, hv, hk]
  | cons x t ih =>
    obtain ⟨a, y⟩ := x
    have hl' := hl
    simp only [sparseWfFrom, Bool.and_eq_true, decide_eq_true_eq] at hl
    rw [sparseSet]
    split_ifs with h1 h2 h3 h4
    · exact hl'
    · simp only [sparseWfFrom, Bool.and_eq_true, decide_eq_true_eq]; exact ⟨hk, h2, by omega, hl.2.1, hl.2.2⟩
    · subst h3; exact sparseWfFrom_mono d t (by omega) hl.2.2
    · subst h3; simp only [sparseWfFrom, Bool.and_eq_true, decide_eq_true_eq]; exact ⟨hk, h4, hl.2.2⟩
    · simp only [sparseWfFrom, Bool.and_eq_true, decide_eq_true_eq]; exact ⟨hl.1, hl.2.1, ih _ hl.2.2 (by omega)⟩

theorem sparseWf_sparseSet (d : Nat → α) (l : List (Nat × α)) (k : Nat) (v : α) (hl : sparseWf d l = true) :
    sparseWf d (sparseSet l k v (d k)) = true := sparseWfFrom_sparseSet d l 0 k v hl (Nat.zero_le k)

theorem sparseWfFrom_filter (d : Nat → α) (p : Nat × α → Bool) (l : List (Nat × α)) (n : Nat) (hl : sparseWfFrom d n l = true) :
    sparseWfFrom d n (l.filter p) = true := by
  induction l generalizing n with
  | nil => rfl
  | cons x t ih =>
    simp only [sparseWfFrom, Bool.and_eq_true, decide_eq_true_eq] at hl
    rw [List.filter_cons]
    split_ifs
    · simp only [sparseWfFrom, Bool.and_eq_true, decide_eq_true_eq]; exact ⟨hl.1, hl.2.1, ih _ hl.2.2⟩
    · exact sparseWfFrom_mono d _ (by omega) (ih _ hl.2.2)

theorem sparseWf_filter (d : Nat → α) (p : Nat × α → Bool) (l : List (Nat × α)) (hl : sparseWf d l = true) :
    sparseWf d (l.filter p) = true := sparseWfFrom_filter d p l 0 hl

/-! ### Byte memories -/

theorem cellGet_cellSet_other (m : List Host.Cell) (a b : Nat) (v : Byte) (h : b ≠ a) : cellGet (cellSet m a v) b = cellGet m b :=
  sparseGet_sparseSet_other m a b v _ _ h

theorem cellGet_cellSet_same (m : List Host.Cell) (a : Nat) (v : Byte) (h : Memory.wf m = true) : cellGet (cellSet m a v) a = v :=
  sparseGet_sparseSet_same memDefault m 0 a v h

theorem wf_cellSet (m : List Host.Cell) (a : Nat) (v : Byte) (h : Memory.wf m = true) : Memory.wf (cellSet m a v) = true :=
  sparseWf_sparseSet memDefault m a v h

theorem wf_cellWrite (bs : List Byte) (m : List Host.Cell) (a : Nat) (h : Memory.wf m = true) : Memory.wf (cellWrite m a bs) = true := by
  induction bs generalizing m a with
  | nil => exact h
  | cons b bs ih => exact ih _ _ (wf_cellSet m a b h)

theorem wf_cellClear (m : List Host.Cell) (a n : Nat) (h : Memory.wf m = true) : Memory.wf (cellClear m a n) = true :=
  sparseWf_filter memDefault _ m h

theorem wf_foldl_cellSet {β : Type} (key : β → Nat) (val : List Host.Cell → β → Byte) (l : List β) (m : List Host.Cell)
    (h : Memory.wf m = true) : Memory.wf (l.foldl (fun m x => cellSet m (key x) (val m x)) m) = true := by
  induction l generalizing m with
  | nil => exact h
  | cons x t ih => exact ih _ (wf_cellSet m _ _ h)

/-- Bytes outside those written read as before. -/
theorem cellGet_cellWrite_outside (bs : List Byte) (m : List Host.Cell) (a b : Nat) (h : b < a ∨ a + bs.length ≤ b) :
    cellGet (cellWrite m a bs) b = cellGet m b := by
  induction bs generalizing m a with
  | nil => rfl
  | cons x bs ih =>
    simp only [List.length_cons] at h
    rw [cellWrite, ih _ _ (by omega), cellGet_cellSet_other _ _ _ _ (by omega)]

/-- Bytes written read as written. -/
theorem cellGet_cellWrite_inside (bs : List Byte) (m : List Host.Cell) (a i : Nat) (h : Memory.wf m = true) (hi : i < bs.length) :
    cellGet (cellWrite m a bs) (a + i) = bs.getD i 0 := by
  induction bs generalizing m a i with
  | nil => simp at hi
  | cons x bs ih =>
    rw [cellWrite]
    cases i with
    | zero => rw [cellGet_cellWrite_outside _ _ _ _ (by omega), Nat.add_zero, cellGet_cellSet_same _ _ _ h]; rfl
    | succ i =>
      have := ih (cellSet m a x) (a + 1) i (wf_cellSet m a x h) (by simpa using hi)
      rw [show a + (i + 1) = a + 1 + i by omega, this]; rfl

theorem cellBytes_length (m : List Host.Cell) (a n : Nat) : (cellBytes m a n).length = n := by simp [cellBytes]

/-- A range just written reads as written. -/
theorem cellBytes_cellWrite (bs : List Byte) (m : List Host.Cell) (a : Nat) (h : Memory.wf m = true) :
    cellBytes (cellWrite m a bs) a bs.length = bs := by
  apply List.ext_getElem
  · simp [cellBytes]
  · intro i h1 h2
    simp only [cellBytes, List.getElem_map, List.getElem_range]
    rw [cellGet_cellWrite_inside bs m a i h h2, List.getD_eq_getElem _ _ h2]

end Sys2Proof.Machine
end

