-- ==== Sys2Proof/Laws/Ops.lean ====
section
/-! SUPPORT. What the shared operations on registers, bulk entries, memories, events and time can do, each said once: the value a
register has after them, which registers they leave, and that they keep canonical states canonical. -/
namespace Sys2Proof.Machine
open Sys2Proof.Safety

/-! ### Registers -/

theorem reg_setReg_other (s : State) (k v j : Nat) (h : j ≠ k) : (s.setReg k v).reg j = s.reg j :=
  sparseGet_sparseSet_other s.regs k j _ _ _ h

theorem reg_setReg_same (s : State) (k v : Nat) (h : Canonical s) : (s.setReg k v).reg k = v % dictModulus k :=
  sparseGet_sparseSet_same dictDefault s.regs 0 k _ h.1

theorem reg_setReg_ne (s : State) (k v : Nat) (h : v % dictModulus k ≠ dictDefault k) : (s.setReg k v).reg k = v % dictModulus k :=
  sparseGet_sparseSet_ne s.regs k _ _ _ h

theorem onlyRegs_refl (ks : List Nat) (s : State) : OnlyRegs ks s s := fun _ _ => rfl

theorem onlyRegs_trans {ks : List Nat} {s t u : State} (h : OnlyRegs ks s t) (h' : OnlyRegs ks t u) : OnlyRegs ks s u :=
  fun k hk => (h' k hk).trans (h k hk)

theorem onlyRegs_mono {ks ks' : List Nat} {s t : State} (h : OnlyRegs ks s t) (hs : ∀ k ∈ ks, k ∈ ks') : OnlyRegs ks' s t :=
  fun k hk => h k (fun hm => hk (hs k hm))

theorem onlyRegs_setReg (s : State) (k v : Nat) (ks : List Nat) (h : k ∈ ks) : OnlyRegs ks s (s.setReg k v) :=
  fun j hj => reg_setReg_other s k v j (fun e => hj (e ▸ h))

theorem sameButRegs_refl (s : State) : SameButRegs s s := rfl

theorem sameButRegs_trans {s t u : State} (h : SameButRegs s t) (h' : SameButRegs t u) : SameButRegs s u := by
  unfold SameButRegs at *
  rw [← h, ← h']

theorem sameButRegs_setReg (s : State) (k v : Nat) : SameButRegs s (s.setReg k v) := rfl

/-- What `bump` can do: nothing, or one register set. -/
theorem bump_cases (s : State) (k n : Nat) : s.bump k n = s ∨ ∃ v, s.bump k n = s.setReg k v := by
  unfold State.bump
  split_ifs
  · exact .inl rfl
  · exact .inr ⟨_, rfl⟩
  · exact .inr ⟨_, rfl⟩

theorem onlyRegs_bump (s : State) (k n : Nat) (ks : List Nat) (h : k ∈ ks) : OnlyRegs ks s (s.bump k n) := by
  obtain e | ⟨v, e⟩ := bump_cases s k n <;> rw [e]
  · exact onlyRegs_refl ks s
  · exact onlyRegs_setReg s k v ks h

theorem sameButRegs_bump (s : State) (k n : Nat) : SameButRegs s (s.bump k n) := by
  obtain e | ⟨v, e⟩ := bump_cases s k n <;> rw [e]
  · exact sameButRegs_refl s
  · exact sameButRegs_setReg s k v

/-- A counter that does not overflow counts. -/
theorem reg_bump_same (s : State) (k n : Nat) (hn : n ≠ 0) (h : s.reg k + n < dictModulus k) (hd : dictDefault k = 0) :
    (s.bump k n).reg k = s.reg k + n := by
  have e : s.bump k n = s.setReg k (s.reg k + n) := by simp [State.bump, hn, h]
  rw [e, reg_setReg_ne _ _ _ (by rw [Nat.mod_eq_of_lt h, hd]; omega), Nat.mod_eq_of_lt h]

theorem raise_cases (s : State) (k v : Nat) : s.raise k v = s ∨ s.raise k v = s.setReg k v := by
  unfold State.raise
  split_ifs
  · exact .inr rfl
  · exact .inl rfl

/-! ### Canonical states -/

theorem canonical_setReg (s : State) (k v : Nat) (h : Canonical s) : Canonical (s.setReg k v) :=
  ⟨sparseWf_sparseSet dictDefault s.regs k _ h.1, h.2⟩

theorem canonical_bump (s : State) (k n : Nat) (h : Canonical s) : Canonical (s.bump k n) := by
  obtain e | ⟨v, e⟩ := bump_cases s k n <;> rw [e]
  · exact h
  · exact canonical_setReg s k v h

theorem canonical_raise (s : State) (k v : Nat) (h : Canonical s) : Canonical (s.raise k v) := by
  obtain e | e := raise_cases s k v <;> rw [e]
  · exact h
  · exact canonical_setReg s k v h

theorem canonical_setBulkByte (s : State) (k off : Nat) (b : Byte) (h : Canonical s) : Canonical (s.setBulkByte k off b) :=
  ⟨h.1, sparseWf_sparseSet bulkDefaultAt s.bulk _ b h.2.1, h.2.2⟩

theorem canonical_setBulk (bs : List Byte) (s : State) (k off : Nat) (h : Canonical s) : Canonical (s.setBulk k off bs) := by
  induction bs generalizing s off with
  | nil => exact h
  | cons b bs ih => exact ih _ _ (canonical_setBulkByte s k off b h)

theorem canonical_memWrite (s : State) (a : Nat) (bs : List Byte) (h : Canonical s) : Canonical (s.memWrite a bs) :=
  ⟨h.1, h.2.1, wf_cellWrite bs s.mem.cells a h.2.2.1, h.2.2.2⟩

/-- Only these five lists matter. -/
theorem canonical_congr {s t : State} (hr : t.regs = s.regs) (hb : t.bulk = s.bulk) (hc : t.mem.cells = s.mem.cells)
    (hv : t.mem.reserve = s.mem.reserve) (hf : t.mem.flash = s.mem.flash) (h : Canonical s) : Canonical t := by
  unfold Canonical at *; rw [hr, hb, hc, hv, hf]; exact h

/-- A fold of changes that each keep a property keeps it. -/
theorem forEach_induct {β : Type} (P : State → Prop) (f : State → β → State) (hf : ∀ s x, P s → P (f s x)) (l : List β) (s : State)
    (h : P s) : P (s.forEach l f) := by
  unfold State.forEach
  induction l generalizing s with
  | nil => exact h
  | cons x l ih => exact ih _ (hf s x h)

/-! ### Bulk entries -/

theorem setBulk_regs (bs : List Byte) (s : State) (k off : Nat) : (s.setBulk k off bs).regs = s.regs := by
  induction bs generalizing s off with
  | nil => rfl
  | cons b bs ih => exact (ih _ _).trans rfl

theorem setBulk_same (bs : List Byte) (s : State) (k off : Nat) : { s.setBulk k off bs with bulk := s.bulk } = s := by
  induction bs generalizing s off with
  | nil => rfl
  | cons b bs ih =>
    have := congrArg (fun t : State => { t with bulk := s.bulk }) (ih (s.setBulkByte k off b) (off + 1))
    exact this

theorem bulkByte_setBulkByte_same (s : State) (k off : Nat) (b : Byte) (h : Canonical s) : (s.setBulkByte k off b).bulkByte k off = b :=
  sparseGet_sparseSet_same bulkDefaultAt s.bulk 0 _ b h.2.1

theorem bulkByte_setBulkByte_other (s : State) (k off j o : Nat) (b : Byte) (h : j * 2 ^ 20 + o ≠ k * 2 ^ 20 + off) :
    (s.setBulkByte k off b).bulkByte j o = s.bulkByte j o :=
  sparseGet_sparseSet_other s.bulk _ _ _ _ _ h

/-! ### Events -/

/-- Writing an event record changes registers, the log, the pending bits' numbers and what has left the module, and nothing else. -/
theorem logMask_frame (s : State) (mask : Option Nat) (code sev c src cmd entry value : Nat) :
    { s.logMask mask code sev c src cmd entry value with
      regs := s.regs
      events := s.events
      faultSeq := s.faultSeq
      out := s.out } = s := by
  unfold State.logMask State.bump
  dsimp only
  cases mask <;> dsimp only <;> split_ifs <;> rfl

/-- The registers an event record may change. -/
theorem logMask_regs (s : State) (mask : Option Nat) (code sev c src cmd entry value : Nat) :
    OnlyRegs (Key.eventLogHead :: Key.eventLost :: (match mask with | some m => [maskKey m] | none => [])) s
      (s.logMask mask code sev c src cmd entry value) := by
  intro j hj
  simp only [List.mem_cons, not_or] at hj
  obtain ⟨h1, h2, h3⟩ := hj
  have h3' : ∀ m, mask = some m → j ≠ maskKey m := by rintro m rfl; simpa using h3
  unfold State.logMask State.bump
  dsimp only
  cases mask with
  | none => dsimp only; split_ifs <;> simp only [State.reg, State.setReg] <;> simp [sparseGet_sparseSet_other, h1, h2]
  | some m =>
    have := h3' m rfl
    dsimp only
    split_ifs <;> simp only [State.reg, State.setReg] <;> simp [sparseGet_sparseSet_other, h1, h2, this]

theorem canonical_logMask (s : State) (mask : Option Nat) (code sev c src cmd entry value : Nat) (h : Canonical s) :
    Canonical (s.logMask mask code sev c src cmd entry value) := by
  unfold State.logMask State.bump
  dsimp only
  cases mask <;> dsimp only <;> split_ifs <;> refine ⟨?_, h.2⟩ <;> simp only [State.setReg] <;>
    (repeat apply sparseWf_sparseSet dictDefault) <;> exact h.1

/-! ### Time -/

/-- What a port keeps through an IDLE flit: everything but its freed buffers and its count of flits. -/
def Port.exceptIdle (x y : Port) : Port := { y with freed := x.freed, sinceIdle := x.sinceIdle }

theorem Port.exceptIdle_trans {x y z : Port} (h : x.exceptIdle y = x) (h' : y.exceptIdle z = y) : x.exceptIdle z = x :=
  Eq.trans (congrArg x.exceptIdle h' : x.exceptIdle (y.exceptIdle z) = x.exceptIdle y) h

theorem port_modPort_same (s : State) (p : Fin 16) (f : Port → Port) : (s.modPort p f).port p = f (s.port p) := by
  simp [State.port, State.modPort]

theorem port_modPort_other (s : State) (p r : Fin 16) (f : Port → Port) (h : r ≠ p) : (s.modPort p f).port r = s.port r := by
  have : p.val ≠ r.val := fun e => h (Fin.ext e.symm)
  simp [State.port, State.modPort, this]

/-- What an IDLE flit can do: change freed buffers and the count of flits of its port, and leave the module. -/
theorem sendIdle_cases (s : State) (p : Fin 16) (n : Nat) :
    ∃ P I, s.sendIdle p n = { s with ports := P, out := { s.out with idle := I } } ∧
      ∀ r : Fin 16, (s.port r).exceptIdle (P[r]) = s.port r := by
  refine ⟨_, _, rfl, fun r => ?_⟩
  show (s.port r).exceptIdle ((State.modPort (s.takeReturns p n).2 p (fun x => { x with sinceIdle := 0 })).port r) = s.port r
  unfold State.takeReturns
  by_cases h : r = p
  · subst h; rw [port_modPort_same, port_modPort_same]; rfl
  · rw [port_modPort_other _ _ _ _ h, port_modPort_other _ _ _ _ h]; rfl

/-- What the IDLE flits of all ports can do. -/
theorem idlePorts_cases (s : State) :
    ∃ P I, s.idlePorts = { s with ports := P, out := { s.out with idle := I } } ∧
      ∀ r : Fin 16, (s.port r).exceptIdle (P[r]) = s.port r := by
  refine forEach_induct (fun t => ∃ P I, t = { s with ports := P, out := { s.out with idle := I } } ∧
    ∀ r : Fin 16, (s.port r).exceptIdle (P[r]) = s.port r) _ ?_ _ _ ⟨_, _, rfl, fun _ => rfl⟩
  rintro t p ⟨P, I, rfl, h⟩
  split
  · obtain ⟨P', I', e, h'⟩ := sendIdle_cases { s with ports := P, out := { s.out with idle := I } } p 16
    exact ⟨P', I', e, fun r => Port.exceptIdle_trans (h r) (h' r)⟩
  · exact ⟨_, _, rfl, h⟩

/-- What the passing of time can do: move the clocks, count in two entries, and send the IDLE flits of the ports. -/
theorem advance_cases (s : State) (dt : Nat) :
    ∃ R T P I, s.advance dt = { s with regs := R, time := T, ports := P, out := { s.out with idle := I } } ∧
      ∀ r : Fin 16, (s.port r).exceptIdle (P[r]) = s.port r := by
  unfold State.advance
  split_ifs
  · exact ⟨_, _, _, _, rfl, fun _ => rfl⟩
  · obtain ⟨R, T, e⟩ : ∃ R T, s.passTime dt = { s with regs := R, time := T } := by
      unfold State.passTime State.bump
      dsimp only
      split_ifs <;> exact ⟨_, _, rfl⟩
    rw [e]
    obtain ⟨P, I, e', h⟩ := idlePorts_cases { s with regs := R, time := T }
    exact ⟨R, T, P, I, e', h⟩

/-- A port through the passing of time. -/
theorem advance_port (s : State) (dt : Nat) (r : Fin 16) : (s.port r).exceptIdle ((s.advance dt).port r) = s.port r := by
  obtain ⟨R, T, P, I, e, h⟩ := advance_cases s dt
  rw [e]; exact h r

theorem idlePorts_regs (s : State) : s.idlePorts.regs = s.regs := by
  obtain ⟨P, I, e, -⟩ := idlePorts_cases s
  rw [e]

theorem idlePorts_time (s : State) : s.idlePorts.time = s.time := by
  obtain ⟨P, I, e, -⟩ := idlePorts_cases s
  rw [e]

theorem advance_regs (s : State) (dt : Nat) : OnlyRegs [Key.niBoundStallTicks, Key.thermalEmergencyTicks] s (s.advance dt) := by
  intro j hj
  have h1 : j ≠ Key.niBoundStallTicks := by intro e; simp [e] at hj
  have h2 : j ≠ Key.thermalEmergencyTicks := by intro e; simp [e] at hj
  unfold State.advance
  split_ifs
  · rfl
  · show (State.idlePorts _).reg j = _
    unfold State.reg
    rw [idlePorts_regs]
    unfold State.passTime State.bump
    dsimp only
    split_ifs <;> first | rfl | (simp only [State.setReg]; simp [sparseGet_sparseSet_other, h1, h2])

theorem canonical_advance (s : State) (dt : Nat) (h : Canonical s) : Canonical (s.advance dt) := by
  have hr : sparseWf dictDefault (s.advance dt).regs = true := by
    unfold State.advance
    split_ifs
    · exact h.1
    · rw [idlePorts_regs]
      unfold State.passTime State.bump
      dsimp only
      split_ifs <;> first | exact h.1 | (simp only [State.setReg]; (repeat apply sparseWf_sparseSet dictDefault); exact h.1)
  obtain ⟨R, T, P, I, e, -⟩ := advance_cases s dt
  rw [e] at hr ⊢
  exact ⟨hr, h.2⟩

theorem advance_now (s : State) (dt : Nat) : (s.advance dt).now = s.now + dt := by
  have ht : ∀ (t : Time) x, (t.run x dt).now = t.now + dt := by
    intro t x
    unfold Time.run
    split <;> rfl
  unfold State.advance
  split
  · rename_i h; simp [h]
  · refine (congrArg Time.now (idlePorts_time _)).trans ((ht _ _).trans ?_)
    unfold State.now State.bump
    split_ifs <;> rfl

end Sys2Proof.Machine
end

