-- ==== Sys2Proof/Laws/Frames.lean ====
section
/-! SUPPORT. What a counter, a bulk write, an event record and the passing of time leave, field by field. -/
namespace Sys2Proof.Machine

/-! ### bump -/

@[simp] theorem State.bump_bulk (s : State) (k n : Nat) : (s.bump k n).bulk = s.bulk := by
  unfold State.bump; split_ifs <;> rfl
@[simp] theorem State.bump_mem (s : State) (k n : Nat) : (s.bump k n).mem = s.mem := by
  unfold State.bump; split_ifs <;> rfl
@[simp] theorem State.bump_image (s : State) (k n : Nat) : (s.bump k n).image = s.image := by
  unfold State.bump; split_ifs <;> rfl
@[simp] theorem State.bump_bufBlocks (s : State) (k n : Nat) : (s.bump k n).bufBlocks = s.bufBlocks := by
  unfold State.bump; split_ifs <;> rfl
@[simp] theorem State.bump_loading (s : State) (k n : Nat) : (s.bump k n).loading = s.loading := by
  unfold State.bump; split_ifs <;> rfl
@[simp] theorem State.bump_ctxs (s : State) (k n : Nat) : (s.bump k n).ctxs = s.ctxs := by
  unfold State.bump; split_ifs <;> rfl
@[simp] theorem State.bump_tiles (s : State) (k n : Nat) : (s.bump k n).tiles = s.tiles := by
  unfold State.bump; split_ifs <;> rfl
@[simp] theorem State.bump_pools (s : State) (k n : Nat) : (s.bump k n).pools = s.pools := by
  unfold State.bump; split_ifs <;> rfl
@[simp] theorem State.bump_ports (s : State) (k n : Nat) : (s.bump k n).ports = s.ports := by
  unfold State.bump; split_ifs <;> rfl
@[simp] theorem State.bump_fab (s : State) (k n : Nat) : (s.bump k n).fab = s.fab := by
  unfold State.bump; split_ifs <;> rfl
@[simp] theorem State.bump_heldEnters (s : State) (k n : Nat) : (s.bump k n).heldEnters = s.heldEnters := by
  unfold State.bump; split_ifs <;> rfl
@[simp] theorem State.bump_time (s : State) (k n : Nat) : (s.bump k n).time = s.time := by
  unfold State.bump; split_ifs <;> rfl
@[simp] theorem State.bump_coded (s : State) (k n : Nat) : (s.bump k n).coded = s.coded := by
  unfold State.bump; split_ifs <;> rfl
@[simp] theorem State.bump_ckpt (s : State) (k n : Nat) : (s.bump k n).ckpt = s.ckpt := by
  unfold State.bump; split_ifs <;> rfl
@[simp] theorem State.bump_events (s : State) (k n : Nat) : (s.bump k n).events = s.events := by
  unfold State.bump; split_ifs <;> rfl
@[simp] theorem State.bump_faultSeq (s : State) (k n : Nat) : (s.bump k n).faultSeq = s.faultSeq := by
  unfold State.bump; split_ifs <;> rfl
@[simp] theorem State.bump_acc (s : State) (k n : Nat) : (s.bump k n).acc = s.acc := by
  unfold State.bump; split_ifs <;> rfl
@[simp] theorem State.bump_start (s : State) (k n : Nat) : (s.bump k n).start = s.start := by
  unfold State.bump; split_ifs <;> rfl
@[simp] theorem State.bump_power (s : State) (k n : Nat) : (s.bump k n).power = s.power := by
  unfold State.bump; split_ifs <;> rfl
@[simp] theorem State.bump_out (s : State) (k n : Nat) : (s.bump k n).out = s.out := by
  unfold State.bump; split_ifs <;> rfl
@[simp] theorem State.bump_freeCount (s : State) (k n : Nat) : (s.bump k n).freeCount = s.freeCount := by
  unfold State.bump; split_ifs <;> rfl
@[simp] theorem State.bump_pending (s : State) (k n : Nat) : (s.bump k n).pending = s.pending := by
  unfold State.bump; split_ifs <;> rfl
@[simp] theorem State.ctx_bump (s : State) (k n : Nat) (d : Fin 4) : (s.bump k n).ctx d = s.ctx d := by
  simp [State.ctx]
@[simp] theorem State.run_bump (s : State) (k n : Nat) (d : Fin 4) (x : Fin 8) : (s.bump k n).run d x = s.run d x := by
  simp [State.run, State.queue, State.ctx]
@[simp] theorem State.port_bump (s : State) (k n : Nat) (pp : Fin 16) : (s.bump k n).port pp = s.port pp := by
  simp [State.port]
@[simp] theorem State.tick_bump (s : State) (k n : Nat) : (s.bump k n).tick = s.tick := by
  simp [State.tick]
@[simp] theorem State.now_bump (s : State) (k n : Nat) : (s.bump k n).now = s.now := by
  simp [State.now]
@[simp] theorem State.memBytes_bump (s : State) (k n : Nat) (adr m : Nat) : (s.bump k n).memBytes adr m = s.memBytes adr m := by
  simp [State.memBytes]
@[simp] theorem State.started_bump (s : State) (k n : Nat) : (s.bump k n).started = s.started := by
  simp [State.started]

/-! ### raise -/

@[simp] theorem State.raise_bulk (s : State) (k v : Nat) : (s.raise k v).bulk = s.bulk := by
  unfold State.raise; split_ifs <;> rfl
@[simp] theorem State.raise_mem (s : State) (k v : Nat) : (s.raise k v).mem = s.mem := by
  unfold State.raise; split_ifs <;> rfl
@[simp] theorem State.raise_image (s : State) (k v : Nat) : (s.raise k v).image = s.image := by
  unfold State.raise; split_ifs <;> rfl
@[simp] theorem State.raise_bufBlocks (s : State) (k v : Nat) : (s.raise k v).bufBlocks = s.bufBlocks := by
  unfold State.raise; split_ifs <;> rfl
@[simp] theorem State.raise_loading (s : State) (k v : Nat) : (s.raise k v).loading = s.loading := by
  unfold State.raise; split_ifs <;> rfl
@[simp] theorem State.raise_ctxs (s : State) (k v : Nat) : (s.raise k v).ctxs = s.ctxs := by
  unfold State.raise; split_ifs <;> rfl
@[simp] theorem State.raise_tiles (s : State) (k v : Nat) : (s.raise k v).tiles = s.tiles := by
  unfold State.raise; split_ifs <;> rfl
@[simp] theorem State.raise_pools (s : State) (k v : Nat) : (s.raise k v).pools = s.pools := by
  unfold State.raise; split_ifs <;> rfl
@[simp] theorem State.raise_ports (s : State) (k v : Nat) : (s.raise k v).ports = s.ports := by
  unfold State.raise; split_ifs <;> rfl
@[simp] theorem State.raise_fab (s : State) (k v : Nat) : (s.raise k v).fab = s.fab := by
  unfold State.raise; split_ifs <;> rfl
@[simp] theorem State.raise_heldEnters (s : State) (k v : Nat) : (s.raise k v).heldEnters = s.heldEnters := by
  unfold State.raise; split_ifs <;> rfl
@[simp] theorem State.raise_time (s : State) (k v : Nat) : (s.raise k v).time = s.time := by
  unfold State.raise; split_ifs <;> rfl
@[simp] theorem State.raise_coded (s : State) (k v : Nat) : (s.raise k v).coded = s.coded := by
  unfold State.raise; split_ifs <;> rfl
@[simp] theorem State.raise_ckpt (s : State) (k v : Nat) : (s.raise k v).ckpt = s.ckpt := by
  unfold State.raise; split_ifs <;> rfl
@[simp] theorem State.raise_events (s : State) (k v : Nat) : (s.raise k v).events = s.events := by
  unfold State.raise; split_ifs <;> rfl
@[simp] theorem State.raise_faultSeq (s : State) (k v : Nat) : (s.raise k v).faultSeq = s.faultSeq := by
  unfold State.raise; split_ifs <;> rfl
@[simp] theorem State.raise_acc (s : State) (k v : Nat) : (s.raise k v).acc = s.acc := by
  unfold State.raise; split_ifs <;> rfl
@[simp] theorem State.raise_start (s : State) (k v : Nat) : (s.raise k v).start = s.start := by
  unfold State.raise; split_ifs <;> rfl
@[simp] theorem State.raise_power (s : State) (k v : Nat) : (s.raise k v).power = s.power := by
  unfold State.raise; split_ifs <;> rfl
@[simp] theorem State.raise_out (s : State) (k v : Nat) : (s.raise k v).out = s.out := by
  unfold State.raise; split_ifs <;> rfl
@[simp] theorem State.raise_freeCount (s : State) (k v : Nat) : (s.raise k v).freeCount = s.freeCount := by
  unfold State.raise; split_ifs <;> rfl
@[simp] theorem State.raise_pending (s : State) (k v : Nat) : (s.raise k v).pending = s.pending := by
  unfold State.raise; split_ifs <;> rfl
@[simp] theorem State.ctx_raise (s : State) (k v : Nat) (d : Fin 4) : (s.raise k v).ctx d = s.ctx d := by
  simp [State.ctx]
@[simp] theorem State.run_raise (s : State) (k v : Nat) (d : Fin 4) (x : Fin 8) : (s.raise k v).run d x = s.run d x := by
  simp [State.run, State.queue, State.ctx]
@[simp] theorem State.port_raise (s : State) (k v : Nat) (pp : Fin 16) : (s.raise k v).port pp = s.port pp := by
  simp [State.port]
@[simp] theorem State.tick_raise (s : State) (k v : Nat) : (s.raise k v).tick = s.tick := by
  simp [State.tick]
@[simp] theorem State.now_raise (s : State) (k v : Nat) : (s.raise k v).now = s.now := by
  simp [State.now]
@[simp] theorem State.memBytes_raise (s : State) (k v : Nat) (adr m : Nat) : (s.raise k v).memBytes adr m = s.memBytes adr m := by
  simp [State.memBytes]
@[simp] theorem State.started_raise (s : State) (k v : Nat) : (s.raise k v).started = s.started := by
  simp [State.started]

/-! ### setBulk -/

@[simp] theorem State.setBulk_regs (s : State) (k off : Nat) (bs : List Byte) : (s.setBulk k off bs).regs = s.regs := (congrArg State.regs (setBulk_same bs s k off) :)
@[simp] theorem State.setBulk_mem (s : State) (k off : Nat) (bs : List Byte) : (s.setBulk k off bs).mem = s.mem := (congrArg State.mem (setBulk_same bs s k off) :)
@[simp] theorem State.setBulk_image (s : State) (k off : Nat) (bs : List Byte) : (s.setBulk k off bs).image = s.image := (congrArg State.image (setBulk_same bs s k off) :)
@[simp] theorem State.setBulk_bufBlocks (s : State) (k off : Nat) (bs : List Byte) : (s.setBulk k off bs).bufBlocks = s.bufBlocks := (congrArg State.bufBlocks (setBulk_same bs s k off) :)
@[simp] theorem State.setBulk_loading (s : State) (k off : Nat) (bs : List Byte) : (s.setBulk k off bs).loading = s.loading := (congrArg State.loading (setBulk_same bs s k off) :)
@[simp] theorem State.setBulk_ctxs (s : State) (k off : Nat) (bs : List Byte) : (s.setBulk k off bs).ctxs = s.ctxs := (congrArg State.ctxs (setBulk_same bs s k off) :)
@[simp] theorem State.setBulk_tiles (s : State) (k off : Nat) (bs : List Byte) : (s.setBulk k off bs).tiles = s.tiles := (congrArg State.tiles (setBulk_same bs s k off) :)
@[simp] theorem State.setBulk_pools (s : State) (k off : Nat) (bs : List Byte) : (s.setBulk k off bs).pools = s.pools := (congrArg State.pools (setBulk_same bs s k off) :)
@[simp] theorem State.setBulk_ports (s : State) (k off : Nat) (bs : List Byte) : (s.setBulk k off bs).ports = s.ports := (congrArg State.ports (setBulk_same bs s k off) :)
@[simp] theorem State.setBulk_fab (s : State) (k off : Nat) (bs : List Byte) : (s.setBulk k off bs).fab = s.fab := (congrArg State.fab (setBulk_same bs s k off) :)
@[simp] theorem State.setBulk_heldEnters (s : State) (k off : Nat) (bs : List Byte) : (s.setBulk k off bs).heldEnters = s.heldEnters := (congrArg State.heldEnters (setBulk_same bs s k off) :)
@[simp] theorem State.setBulk_time (s : State) (k off : Nat) (bs : List Byte) : (s.setBulk k off bs).time = s.time := (congrArg State.time (setBulk_same bs s k off) :)
@[simp] theorem State.setBulk_coded (s : State) (k off : Nat) (bs : List Byte) : (s.setBulk k off bs).coded = s.coded := (congrArg State.coded (setBulk_same bs s k off) :)
@[simp] theorem State.setBulk_ckpt (s : State) (k off : Nat) (bs : List Byte) : (s.setBulk k off bs).ckpt = s.ckpt := (congrArg State.ckpt (setBulk_same bs s k off) :)
@[simp] theorem State.setBulk_events (s : State) (k off : Nat) (bs : List Byte) : (s.setBulk k off bs).events = s.events := (congrArg State.events (setBulk_same bs s k off) :)
@[simp] theorem State.setBulk_faultSeq (s : State) (k off : Nat) (bs : List Byte) : (s.setBulk k off bs).faultSeq = s.faultSeq := (congrArg State.faultSeq (setBulk_same bs s k off) :)
@[simp] theorem State.setBulk_acc (s : State) (k off : Nat) (bs : List Byte) : (s.setBulk k off bs).acc = s.acc := (congrArg State.acc (setBulk_same bs s k off) :)
@[simp] theorem State.setBulk_start (s : State) (k off : Nat) (bs : List Byte) : (s.setBulk k off bs).start = s.start := (congrArg State.start (setBulk_same bs s k off) :)
@[simp] theorem State.setBulk_power (s : State) (k off : Nat) (bs : List Byte) : (s.setBulk k off bs).power = s.power := (congrArg State.power (setBulk_same bs s k off) :)
@[simp] theorem State.setBulk_out (s : State) (k off : Nat) (bs : List Byte) : (s.setBulk k off bs).out = s.out := (congrArg State.out (setBulk_same bs s k off) :)
@[simp] theorem State.setBulk_freeCount (s : State) (k off : Nat) (bs : List Byte) : (s.setBulk k off bs).freeCount = s.freeCount := (congrArg State.freeCount (setBulk_same bs s k off) :)
@[simp] theorem State.setBulk_pending (s : State) (k off : Nat) (bs : List Byte) : (s.setBulk k off bs).pending = s.pending := (congrArg State.pending (setBulk_same bs s k off) :)
@[simp] theorem State.ctx_setBulk (s : State) (k off : Nat) (bs : List Byte) (d : Fin 4) : (s.setBulk k off bs).ctx d = s.ctx d := by
  simp [State.ctx]
@[simp] theorem State.run_setBulk (s : State) (k off : Nat) (bs : List Byte) (d : Fin 4) (x : Fin 8) : (s.setBulk k off bs).run d x = s.run d x := by
  simp [State.run, State.queue, State.ctx]
@[simp] theorem State.port_setBulk (s : State) (k off : Nat) (bs : List Byte) (pp : Fin 16) : (s.setBulk k off bs).port pp = s.port pp := by
  simp [State.port]
@[simp] theorem State.tick_setBulk (s : State) (k off : Nat) (bs : List Byte) : (s.setBulk k off bs).tick = s.tick := by
  simp [State.tick]
@[simp] theorem State.now_setBulk (s : State) (k off : Nat) (bs : List Byte) : (s.setBulk k off bs).now = s.now := by
  simp [State.now]
@[simp] theorem State.memBytes_setBulk (s : State) (k off : Nat) (bs : List Byte) (adr m : Nat) : (s.setBulk k off bs).memBytes adr m = s.memBytes adr m := by
  simp [State.memBytes]
@[simp] theorem State.started_setBulk (s : State) (k off : Nat) (bs : List Byte) : (s.setBulk k off bs).started = s.started := by
  simp [State.started]

/-! ### advance -/

@[simp] theorem State.advance_bulk (s : State) (dt : Nat) : (s.advance dt).bulk = s.bulk := by
  obtain ⟨R, T, P, I, e, -⟩ := advance_cases s dt; rw [e]
@[simp] theorem State.advance_mem (s : State) (dt : Nat) : (s.advance dt).mem = s.mem := by
  obtain ⟨R, T, P, I, e, -⟩ := advance_cases s dt; rw [e]
@[simp] theorem State.advance_image (s : State) (dt : Nat) : (s.advance dt).image = s.image := by
  obtain ⟨R, T, P, I, e, -⟩ := advance_cases s dt; rw [e]
@[simp] theorem State.advance_bufBlocks (s : State) (dt : Nat) : (s.advance dt).bufBlocks = s.bufBlocks := by
  obtain ⟨R, T, P, I, e, -⟩ := advance_cases s dt; rw [e]
@[simp] theorem State.advance_loading (s : State) (dt : Nat) : (s.advance dt).loading = s.loading := by
  obtain ⟨R, T, P, I, e, -⟩ := advance_cases s dt; rw [e]
@[simp] theorem State.advance_ctxs (s : State) (dt : Nat) : (s.advance dt).ctxs = s.ctxs := by
  obtain ⟨R, T, P, I, e, -⟩ := advance_cases s dt; rw [e]
@[simp] theorem State.advance_tiles (s : State) (dt : Nat) : (s.advance dt).tiles = s.tiles := by
  obtain ⟨R, T, P, I, e, -⟩ := advance_cases s dt; rw [e]
@[simp] theorem State.advance_pools (s : State) (dt : Nat) : (s.advance dt).pools = s.pools := by
  obtain ⟨R, T, P, I, e, -⟩ := advance_cases s dt; rw [e]
@[simp] theorem State.advance_fab (s : State) (dt : Nat) : (s.advance dt).fab = s.fab := by
  obtain ⟨R, T, P, I, e, -⟩ := advance_cases s dt; rw [e]
@[simp] theorem State.advance_heldEnters (s : State) (dt : Nat) : (s.advance dt).heldEnters = s.heldEnters := by
  obtain ⟨R, T, P, I, e, -⟩ := advance_cases s dt; rw [e]
@[simp] theorem State.advance_coded (s : State) (dt : Nat) : (s.advance dt).coded = s.coded := by
  obtain ⟨R, T, P, I, e, -⟩ := advance_cases s dt; rw [e]
@[simp] theorem State.advance_ckpt (s : State) (dt : Nat) : (s.advance dt).ckpt = s.ckpt := by
  obtain ⟨R, T, P, I, e, -⟩ := advance_cases s dt; rw [e]
@[simp] theorem State.advance_events (s : State) (dt : Nat) : (s.advance dt).events = s.events := by
  obtain ⟨R, T, P, I, e, -⟩ := advance_cases s dt; rw [e]
@[simp] theorem State.advance_faultSeq (s : State) (dt : Nat) : (s.advance dt).faultSeq = s.faultSeq := by
  obtain ⟨R, T, P, I, e, -⟩ := advance_cases s dt; rw [e]
@[simp] theorem State.advance_acc (s : State) (dt : Nat) : (s.advance dt).acc = s.acc := by
  obtain ⟨R, T, P, I, e, -⟩ := advance_cases s dt; rw [e]
@[simp] theorem State.advance_start (s : State) (dt : Nat) : (s.advance dt).start = s.start := by
  obtain ⟨R, T, P, I, e, -⟩ := advance_cases s dt; rw [e]
@[simp] theorem State.advance_power (s : State) (dt : Nat) : (s.advance dt).power = s.power := by
  obtain ⟨R, T, P, I, e, -⟩ := advance_cases s dt; rw [e]
@[simp] theorem State.advance_freeCount (s : State) (dt : Nat) : (s.advance dt).freeCount = s.freeCount := by
  obtain ⟨R, T, P, I, e, -⟩ := advance_cases s dt; rw [e]
@[simp] theorem State.advance_pending (s : State) (dt : Nat) : (s.advance dt).pending = s.pending := by
  obtain ⟨R, T, P, I, e, -⟩ := advance_cases s dt; rw [e]
@[simp] theorem State.ctx_advance (s : State) (dt : Nat) (d : Fin 4) : (s.advance dt).ctx d = s.ctx d := by
  simp [State.ctx]
@[simp] theorem State.run_advance (s : State) (dt : Nat) (d : Fin 4) (x : Fin 8) : (s.advance dt).run d x = s.run d x := by
  simp [State.run, State.queue, State.ctx]
@[simp] theorem State.memBytes_advance (s : State) (dt : Nat) (adr m : Nat) : (s.advance dt).memBytes adr m = s.memBytes adr m := by
  simp [State.memBytes]
@[simp] theorem State.started_advance (s : State) (dt : Nat) : (s.advance dt).started = s.started := by
  simp [State.started]
@[simp] theorem State.advance_out_host (s : State) (dt : Nat) : (s.advance dt).out.host = s.out.host := by
  obtain ⟨R, T, P, I, e, -⟩ := advance_cases s dt; rw [e]
@[simp] theorem State.advance_out_net (s : State) (dt : Nat) : (s.advance dt).out.net = s.out.net := by
  obtain ⟨R, T, P, I, e, -⟩ := advance_cases s dt; rw [e]
@[simp] theorem State.advance_out_link (s : State) (dt : Nat) : (s.advance dt).out.link = s.out.link := by
  obtain ⟨R, T, P, I, e, -⟩ := advance_cases s dt; rw [e]
@[simp] theorem State.advance_out_dxp (s : State) (dt : Nat) : (s.advance dt).out.dxp = s.out.dxp := by
  obtain ⟨R, T, P, I, e, -⟩ := advance_cases s dt; rw [e]
@[simp] theorem State.advance_out_aborts (s : State) (dt : Nat) : (s.advance dt).out.aborts = s.out.aborts := by
  obtain ⟨R, T, P, I, e, -⟩ := advance_cases s dt; rw [e]

/-! ### logMask -/

@[simp] theorem State.logMask_bulk (s : State) (mask : Option Nat) (code sev c src cmd entry value : Nat) : (s.logMask mask code sev c src cmd entry value).bulk = s.bulk := 
  (congrArg State.bulk (logMask_frame s mask code sev c src cmd entry value) :)
@[simp] theorem State.logMask_mem (s : State) (mask : Option Nat) (code sev c src cmd entry value : Nat) : (s.logMask mask code sev c src cmd entry value).mem = s.mem := 
  (congrArg State.mem (logMask_frame s mask code sev c src cmd entry value) :)
@[simp] theorem State.logMask_image (s : State) (mask : Option Nat) (code sev c src cmd entry value : Nat) : (s.logMask mask code sev c src cmd entry value).image = s.image := 
  (congrArg State.image (logMask_frame s mask code sev c src cmd entry value) :)
@[simp] theorem State.logMask_bufBlocks (s : State) (mask : Option Nat) (code sev c src cmd entry value : Nat) : (s.logMask mask code sev c src cmd entry value).bufBlocks = s.bufBlocks := 
  (congrArg State.bufBlocks (logMask_frame s mask code sev c src cmd entry value) :)
@[simp] theorem State.logMask_loading (s : State) (mask : Option Nat) (code sev c src cmd entry value : Nat) : (s.logMask mask code sev c src cmd entry value).loading = s.loading := 
  (congrArg State.loading (logMask_frame s mask code sev c src cmd entry value) :)
@[simp] theorem State.logMask_ctxs (s : State) (mask : Option Nat) (code sev c src cmd entry value : Nat) : (s.logMask mask code sev c src cmd entry value).ctxs = s.ctxs := 
  (congrArg State.ctxs (logMask_frame s mask code sev c src cmd entry value) :)
@[simp] theorem State.logMask_tiles (s : State) (mask : Option Nat) (code sev c src cmd entry value : Nat) : (s.logMask mask code sev c src cmd entry value).tiles = s.tiles := 
  (congrArg State.tiles (logMask_frame s mask code sev c src cmd entry value) :)
@[simp] theorem State.logMask_pools (s : State) (mask : Option Nat) (code sev c src cmd entry value : Nat) : (s.logMask mask code sev c src cmd entry value).pools = s.pools := 
  (congrArg State.pools (logMask_frame s mask code sev c src cmd entry value) :)
@[simp] theorem State.logMask_ports (s : State) (mask : Option Nat) (code sev c src cmd entry value : Nat) : (s.logMask mask code sev c src cmd entry value).ports = s.ports := 
  (congrArg State.ports (logMask_frame s mask code sev c src cmd entry value) :)
@[simp] theorem State.logMask_fab (s : State) (mask : Option Nat) (code sev c src cmd entry value : Nat) : (s.logMask mask code sev c src cmd entry value).fab = s.fab := 
  (congrArg State.fab (logMask_frame s mask code sev c src cmd entry value) :)
@[simp] theorem State.logMask_heldEnters (s : State) (mask : Option Nat) (code sev c src cmd entry value : Nat) : (s.logMask mask code sev c src cmd entry value).heldEnters = s.heldEnters := 
  (congrArg State.heldEnters (logMask_frame s mask code sev c src cmd entry value) :)
@[simp] theorem State.logMask_time (s : State) (mask : Option Nat) (code sev c src cmd entry value : Nat) : (s.logMask mask code sev c src cmd entry value).time = s.time := 
  (congrArg State.time (logMask_frame s mask code sev c src cmd entry value) :)
@[simp] theorem State.logMask_coded (s : State) (mask : Option Nat) (code sev c src cmd entry value : Nat) : (s.logMask mask code sev c src cmd entry value).coded = s.coded := 
  (congrArg State.coded (logMask_frame s mask code sev c src cmd entry value) :)
@[simp] theorem State.logMask_ckpt (s : State) (mask : Option Nat) (code sev c src cmd entry value : Nat) : (s.logMask mask code sev c src cmd entry value).ckpt = s.ckpt := 
  (congrArg State.ckpt (logMask_frame s mask code sev c src cmd entry value) :)
@[simp] theorem State.logMask_acc (s : State) (mask : Option Nat) (code sev c src cmd entry value : Nat) : (s.logMask mask code sev c src cmd entry value).acc = s.acc := 
  (congrArg State.acc (logMask_frame s mask code sev c src cmd entry value) :)
@[simp] theorem State.logMask_start (s : State) (mask : Option Nat) (code sev c src cmd entry value : Nat) : (s.logMask mask code sev c src cmd entry value).start = s.start := 
  (congrArg State.start (logMask_frame s mask code sev c src cmd entry value) :)
@[simp] theorem State.logMask_power (s : State) (mask : Option Nat) (code sev c src cmd entry value : Nat) : (s.logMask mask code sev c src cmd entry value).power = s.power := 
  (congrArg State.power (logMask_frame s mask code sev c src cmd entry value) :)
@[simp] theorem State.logMask_freeCount (s : State) (mask : Option Nat) (code sev c src cmd entry value : Nat) : (s.logMask mask code sev c src cmd entry value).freeCount = s.freeCount := 
  (congrArg State.freeCount (logMask_frame s mask code sev c src cmd entry value) :)
@[simp] theorem State.logMask_pending (s : State) (mask : Option Nat) (code sev c src cmd entry value : Nat) : (s.logMask mask code sev c src cmd entry value).pending = s.pending := 
  (congrArg State.pending (logMask_frame s mask code sev c src cmd entry value) :)
@[simp] theorem State.ctx_logMask (s : State) (mask : Option Nat) (code sev c src cmd entry value : Nat) (d : Fin 4) : (s.logMask mask code sev c src cmd entry value).ctx d = s.ctx d := by
  simp [State.ctx]
@[simp] theorem State.run_logMask (s : State) (mask : Option Nat) (code sev c src cmd entry value : Nat) (d : Fin 4) (x : Fin 8) : (s.logMask mask code sev c src cmd entry value).run d x = s.run d x := by
  simp [State.run, State.queue, State.ctx]
@[simp] theorem State.port_logMask (s : State) (mask : Option Nat) (code sev c src cmd entry value : Nat) (pp : Fin 16) : (s.logMask mask code sev c src cmd entry value).port pp = s.port pp := by
  simp [State.port]
@[simp] theorem State.tick_logMask (s : State) (mask : Option Nat) (code sev c src cmd entry value : Nat) : (s.logMask mask code sev c src cmd entry value).tick = s.tick := by
  simp [State.tick]
@[simp] theorem State.now_logMask (s : State) (mask : Option Nat) (code sev c src cmd entry value : Nat) : (s.logMask mask code sev c src cmd entry value).now = s.now := by
  simp [State.now]
@[simp] theorem State.memBytes_logMask (s : State) (mask : Option Nat) (code sev c src cmd entry value : Nat) (adr m : Nat) : (s.logMask mask code sev c src cmd entry value).memBytes adr m = s.memBytes adr m := by
  simp [State.memBytes]
@[simp] theorem State.started_logMask (s : State) (mask : Option Nat) (code sev c src cmd entry value : Nat) : (s.logMask mask code sev c src cmd entry value).started = s.started := by
  simp [State.started]

/-! ### log -/

@[simp] theorem State.log_bulk (s : State) (sev c src cmd entry value : Nat) : (s.log sev c src cmd entry value).bulk = s.bulk := State.logMask_bulk ..
@[simp] theorem State.log_mem (s : State) (sev c src cmd entry value : Nat) : (s.log sev c src cmd entry value).mem = s.mem := State.logMask_mem ..
@[simp] theorem State.log_image (s : State) (sev c src cmd entry value : Nat) : (s.log sev c src cmd entry value).image = s.image := State.logMask_image ..
@[simp] theorem State.log_bufBlocks (s : State) (sev c src cmd entry value : Nat) : (s.log sev c src cmd entry value).bufBlocks = s.bufBlocks := State.logMask_bufBlocks ..
@[simp] theorem State.log_loading (s : State) (sev c src cmd entry value : Nat) : (s.log sev c src cmd entry value).loading = s.loading := State.logMask_loading ..
@[simp] theorem State.log_ctxs (s : State) (sev c src cmd entry value : Nat) : (s.log sev c src cmd entry value).ctxs = s.ctxs := State.logMask_ctxs ..
@[simp] theorem State.log_tiles (s : State) (sev c src cmd entry value : Nat) : (s.log sev c src cmd entry value).tiles = s.tiles := State.logMask_tiles ..
@[simp] theorem State.log_pools (s : State) (sev c src cmd entry value : Nat) : (s.log sev c src cmd entry value).pools = s.pools := State.logMask_pools ..
@[simp] theorem State.log_ports (s : State) (sev c src cmd entry value : Nat) : (s.log sev c src cmd entry value).ports = s.ports := State.logMask_ports ..
@[simp] theorem State.log_fab (s : State) (sev c src cmd entry value : Nat) : (s.log sev c src cmd entry value).fab = s.fab := State.logMask_fab ..
@[simp] theorem State.log_heldEnters (s : State) (sev c src cmd entry value : Nat) : (s.log sev c src cmd entry value).heldEnters = s.heldEnters := State.logMask_heldEnters ..
@[simp] theorem State.log_time (s : State) (sev c src cmd entry value : Nat) : (s.log sev c src cmd entry value).time = s.time := State.logMask_time ..
@[simp] theorem State.log_coded (s : State) (sev c src cmd entry value : Nat) : (s.log sev c src cmd entry value).coded = s.coded := State.logMask_coded ..
@[simp] theorem State.log_ckpt (s : State) (sev c src cmd entry value : Nat) : (s.log sev c src cmd entry value).ckpt = s.ckpt := State.logMask_ckpt ..
@[simp] theorem State.log_acc (s : State) (sev c src cmd entry value : Nat) : (s.log sev c src cmd entry value).acc = s.acc := State.logMask_acc ..
@[simp] theorem State.log_start (s : State) (sev c src cmd entry value : Nat) : (s.log sev c src cmd entry value).start = s.start := State.logMask_start ..
@[simp] theorem State.log_power (s : State) (sev c src cmd entry value : Nat) : (s.log sev c src cmd entry value).power = s.power := State.logMask_power ..
@[simp] theorem State.log_freeCount (s : State) (sev c src cmd entry value : Nat) : (s.log sev c src cmd entry value).freeCount = s.freeCount := State.logMask_freeCount ..
@[simp] theorem State.log_pending (s : State) (sev c src cmd entry value : Nat) : (s.log sev c src cmd entry value).pending = s.pending := State.logMask_pending ..
@[simp] theorem State.ctx_log (s : State) (sev c src cmd entry value : Nat) (d : Fin 4) : (s.log sev c src cmd entry value).ctx d = s.ctx d := by
  simp [State.ctx]
@[simp] theorem State.run_log (s : State) (sev c src cmd entry value : Nat) (d : Fin 4) (x : Fin 8) : (s.log sev c src cmd entry value).run d x = s.run d x := by
  simp [State.run, State.queue, State.ctx]
@[simp] theorem State.port_log (s : State) (sev c src cmd entry value : Nat) (pp : Fin 16) : (s.log sev c src cmd entry value).port pp = s.port pp := by
  simp [State.port]
@[simp] theorem State.tick_log (s : State) (sev c src cmd entry value : Nat) : (s.log sev c src cmd entry value).tick = s.tick := by
  simp [State.tick]
@[simp] theorem State.now_log (s : State) (sev c src cmd entry value : Nat) : (s.log sev c src cmd entry value).now = s.now := by
  simp [State.now]
@[simp] theorem State.memBytes_log (s : State) (sev c src cmd entry value : Nat) (adr m : Nat) : (s.log sev c src cmd entry value).memBytes adr m = s.memBytes adr m := by
  simp [State.memBytes]
@[simp] theorem State.started_log (s : State) (sev c src cmd entry value : Nat) : (s.log sev c src cmd entry value).started = s.started := by
  simp [State.started]

/-! ### logCtx -/

@[simp] theorem State.logCtx_bulk (s : State) (c code sev src cmd entry value : Nat) : (s.logCtx c code sev src cmd entry value).bulk = s.bulk := State.logMask_bulk ..
@[simp] theorem State.logCtx_mem (s : State) (c code sev src cmd entry value : Nat) : (s.logCtx c code sev src cmd entry value).mem = s.mem := State.logMask_mem ..
@[simp] theorem State.logCtx_image (s : State) (c code sev src cmd entry value : Nat) : (s.logCtx c code sev src cmd entry value).image = s.image := State.logMask_image ..
@[simp] theorem State.logCtx_bufBlocks (s : State) (c code sev src cmd entry value : Nat) : (s.logCtx c code sev src cmd entry value).bufBlocks = s.bufBlocks := State.logMask_bufBlocks ..
@[simp] theorem State.logCtx_loading (s : State) (c code sev src cmd entry value : Nat) : (s.logCtx c code sev src cmd entry value).loading = s.loading := State.logMask_loading ..
@[simp] theorem State.logCtx_ctxs (s : State) (c code sev src cmd entry value : Nat) : (s.logCtx c code sev src cmd entry value).ctxs = s.ctxs := State.logMask_ctxs ..
@[simp] theorem State.logCtx_tiles (s : State) (c code sev src cmd entry value : Nat) : (s.logCtx c code sev src cmd entry value).tiles = s.tiles := State.logMask_tiles ..
@[simp] theorem State.logCtx_pools (s : State) (c code sev src cmd entry value : Nat) : (s.logCtx c code sev src cmd entry value).pools = s.pools := State.logMask_pools ..
@[simp] theorem State.logCtx_ports (s : State) (c code sev src cmd entry value : Nat) : (s.logCtx c code sev src cmd entry value).ports = s.ports := State.logMask_ports ..
@[simp] theorem State.logCtx_fab (s : State) (c code sev src cmd entry value : Nat) : (s.logCtx c code sev src cmd entry value).fab = s.fab := State.logMask_fab ..
@[simp] theorem State.logCtx_heldEnters (s : State) (c code sev src cmd entry value : Nat) : (s.logCtx c code sev src cmd entry value).heldEnters = s.heldEnters := State.logMask_heldEnters ..
@[simp] theorem State.logCtx_time (s : State) (c code sev src cmd entry value : Nat) : (s.logCtx c code sev src cmd entry value).time = s.time := State.logMask_time ..
@[simp] theorem State.logCtx_coded (s : State) (c code sev src cmd entry value : Nat) : (s.logCtx c code sev src cmd entry value).coded = s.coded := State.logMask_coded ..
@[simp] theorem State.logCtx_ckpt (s : State) (c code sev src cmd entry value : Nat) : (s.logCtx c code sev src cmd entry value).ckpt = s.ckpt := State.logMask_ckpt ..
@[simp] theorem State.logCtx_acc (s : State) (c code sev src cmd entry value : Nat) : (s.logCtx c code sev src cmd entry value).acc = s.acc := State.logMask_acc ..
@[simp] theorem State.logCtx_start (s : State) (c code sev src cmd entry value : Nat) : (s.logCtx c code sev src cmd entry value).start = s.start := State.logMask_start ..
@[simp] theorem State.logCtx_power (s : State) (c code sev src cmd entry value : Nat) : (s.logCtx c code sev src cmd entry value).power = s.power := State.logMask_power ..
@[simp] theorem State.logCtx_freeCount (s : State) (c code sev src cmd entry value : Nat) : (s.logCtx c code sev src cmd entry value).freeCount = s.freeCount := State.logMask_freeCount ..
@[simp] theorem State.logCtx_pending (s : State) (c code sev src cmd entry value : Nat) : (s.logCtx c code sev src cmd entry value).pending = s.pending := State.logMask_pending ..
@[simp] theorem State.ctx_logCtx (s : State) (c code sev src cmd entry value : Nat) (d : Fin 4) : (s.logCtx c code sev src cmd entry value).ctx d = s.ctx d := by
  simp [State.ctx]
@[simp] theorem State.run_logCtx (s : State) (c code sev src cmd entry value : Nat) (d : Fin 4) (x : Fin 8) : (s.logCtx c code sev src cmd entry value).run d x = s.run d x := by
  simp [State.run, State.queue, State.ctx]
@[simp] theorem State.port_logCtx (s : State) (c code sev src cmd entry value : Nat) (pp : Fin 16) : (s.logCtx c code sev src cmd entry value).port pp = s.port pp := by
  simp [State.port]
@[simp] theorem State.tick_logCtx (s : State) (c code sev src cmd entry value : Nat) : (s.logCtx c code sev src cmd entry value).tick = s.tick := by
  simp [State.tick]
@[simp] theorem State.now_logCtx (s : State) (c code sev src cmd entry value : Nat) : (s.logCtx c code sev src cmd entry value).now = s.now := by
  simp [State.now]
@[simp] theorem State.memBytes_logCtx (s : State) (c code sev src cmd entry value : Nat) (adr m : Nat) : (s.logCtx c code sev src cmd entry value).memBytes adr m = s.memBytes adr m := by
  simp [State.memBytes]
@[simp] theorem State.started_logCtx (s : State) (c code sev src cmd entry value : Nat) : (s.logCtx c code sev src cmd entry value).started = s.started := by
  simp [State.started]

/-! ### logModule -/

@[simp] theorem State.logModule_bulk (s : State) (code sev src entry value : Nat) : (s.logModule code sev src entry value).bulk = s.bulk := State.logMask_bulk ..
@[simp] theorem State.logModule_mem (s : State) (code sev src entry value : Nat) : (s.logModule code sev src entry value).mem = s.mem := State.logMask_mem ..
@[simp] theorem State.logModule_image (s : State) (code sev src entry value : Nat) : (s.logModule code sev src entry value).image = s.image := State.logMask_image ..
@[simp] theorem State.logModule_bufBlocks (s : State) (code sev src entry value : Nat) : (s.logModule code sev src entry value).bufBlocks = s.bufBlocks := State.logMask_bufBlocks ..
@[simp] theorem State.logModule_loading (s : State) (code sev src entry value : Nat) : (s.logModule code sev src entry value).loading = s.loading := State.logMask_loading ..
@[simp] theorem State.logModule_ctxs (s : State) (code sev src entry value : Nat) : (s.logModule code sev src entry value).ctxs = s.ctxs := State.logMask_ctxs ..
@[simp] theorem State.logModule_tiles (s : State) (code sev src entry value : Nat) : (s.logModule code sev src entry value).tiles = s.tiles := State.logMask_tiles ..
@[simp] theorem State.logModule_pools (s : State) (code sev src entry value : Nat) : (s.logModule code sev src entry value).pools = s.pools := State.logMask_pools ..
@[simp] theorem State.logModule_ports (s : State) (code sev src entry value : Nat) : (s.logModule code sev src entry value).ports = s.ports := State.logMask_ports ..
@[simp] theorem State.logModule_fab (s : State) (code sev src entry value : Nat) : (s.logModule code sev src entry value).fab = s.fab := State.logMask_fab ..
@[simp] theorem State.logModule_heldEnters (s : State) (code sev src entry value : Nat) : (s.logModule code sev src entry value).heldEnters = s.heldEnters := State.logMask_heldEnters ..
@[simp] theorem State.logModule_time (s : State) (code sev src entry value : Nat) : (s.logModule code sev src entry value).time = s.time := State.logMask_time ..
@[simp] theorem State.logModule_coded (s : State) (code sev src entry value : Nat) : (s.logModule code sev src entry value).coded = s.coded := State.logMask_coded ..
@[simp] theorem State.logModule_ckpt (s : State) (code sev src entry value : Nat) : (s.logModule code sev src entry value).ckpt = s.ckpt := State.logMask_ckpt ..
@[simp] theorem State.logModule_acc (s : State) (code sev src entry value : Nat) : (s.logModule code sev src entry value).acc = s.acc := State.logMask_acc ..
@[simp] theorem State.logModule_start (s : State) (code sev src entry value : Nat) : (s.logModule code sev src entry value).start = s.start := State.logMask_start ..
@[simp] theorem State.logModule_power (s : State) (code sev src entry value : Nat) : (s.logModule code sev src entry value).power = s.power := State.logMask_power ..
@[simp] theorem State.logModule_freeCount (s : State) (code sev src entry value : Nat) : (s.logModule code sev src entry value).freeCount = s.freeCount := State.logMask_freeCount ..
@[simp] theorem State.logModule_pending (s : State) (code sev src entry value : Nat) : (s.logModule code sev src entry value).pending = s.pending := State.logMask_pending ..
@[simp] theorem State.ctx_logModule (s : State) (code sev src entry value : Nat) (d : Fin 4) : (s.logModule code sev src entry value).ctx d = s.ctx d := by
  simp [State.ctx]
@[simp] theorem State.run_logModule (s : State) (code sev src entry value : Nat) (d : Fin 4) (x : Fin 8) : (s.logModule code sev src entry value).run d x = s.run d x := by
  simp [State.run, State.queue, State.ctx]
@[simp] theorem State.port_logModule (s : State) (code sev src entry value : Nat) (pp : Fin 16) : (s.logModule code sev src entry value).port pp = s.port pp := by
  simp [State.port]
@[simp] theorem State.tick_logModule (s : State) (code sev src entry value : Nat) : (s.logModule code sev src entry value).tick = s.tick := by
  simp [State.tick]
@[simp] theorem State.now_logModule (s : State) (code sev src entry value : Nat) : (s.logModule code sev src entry value).now = s.now := by
  simp [State.now]
@[simp] theorem State.memBytes_logModule (s : State) (code sev src entry value : Nat) (adr m : Nat) : (s.logModule code sev src entry value).memBytes adr m = s.memBytes adr m := by
  simp [State.memBytes]
@[simp] theorem State.started_logModule (s : State) (code sev src entry value : Nat) : (s.logModule code sev src entry value).started = s.started := by
  simp [State.started]

end Sys2Proof.Machine
end

