-- ==== Sys2Proof/Machine/Edge.lean ====
section
/-! DEFINITION. The module's edge as spec/22 gives it: contacts and their mating order (R430 to R433), supply ratings (R434), the host
port's options and rates (R438), what the field network answers (R439), the limits of clock, channels, coolant and mechanics (R440 to
R445), ratings and operating conditions (R446, R447), ordering codes (R448). The rows that act on supplies, pins and temperatures stand
in Startup.lean and Power.lean. -/
namespace Sys2Proof.Machine

/-! ### The connector (R430 to R433) -/

/-- Kinds of contact. -/
inductive Contact | ret | v50 | aux33 | signal | prsnt
  deriving DecidableEq, Repr

/-- Place of a contact in the order of mating; contacts break in the reverse order (R430). -/
def Contact.order : Contact → Nat
  | .ret => 1 | .v50 => 2 | .aux33 => 3 | .signal => 4 | .prsnt => 5

/-- Length offset of a contact in µm. -/
def Contact.lengthUm : Contact → Int
  | .ret => 1500 | .v50 => 1000 | .aux33 => 500 | .signal => 0 | .prsnt => -500

/-- Power blades PB1 to PB12 and auxiliary pins PA1 to PA4, with their rating in mA (R431). -/
def powerBlade (n : Nat) : Option (Contact × Nat) :=
  if 1 ≤ n ∧ n ≤ 6 then some (.v50, 10000) else if 7 ≤ n ∧ n ≤ 12 then some (.ret, 10000) else none
def powerPin (n : Nat) : Option (Contact × Nat) :=
  if 1 ≤ n ∧ n ≤ 2 then some (.aux33, 1500) else if 3 ≤ n ∧ n ≤ 4 then some (.ret, 1500) else none

/-- Rows of the signal array, A to H and J to M. -/
inductive PinRow | a | b | c | d | e | f | g | h | j | k | l | m
  deriving DecidableEq, Repr

/-- Sideband signals (R433). -/
inductive Sideband | perst | prsnt | slot0 | slot1 | slot2 | pg | alert | mcRst
  deriving DecidableEq, Repr

/-- What a position of the signal array carries; `out` seen from the module, `positive` for the first leg of a pair. -/
inductive Pin
  | ground
  | llynca (out : Bool) (port lane : Nat) (positive : Bool)
  | pcie (out : Bool) (lane : Nat) (positive : Bool)
  | refclk (positive : Bool)
  | field (out : Bool) (positive : Bool)
  | sideband (x : Sideband)
  | reserved
  deriving DecidableEq, Repr

/-- Columns 1 to 40 of the pair of rows that carries eight ports from `base`: four lanes, then ground (R432). -/
def llyncaPin (out : Bool) (base col : Nat) (positive : Bool) : Pin :=
  if (col - 1) % 5 < 4 then .llynca out (base + (col - 1) / 5) ((col - 1) % 5) positive else .ground

/-- Sideband positions G47 to G54. -/
def sidebandAt (col : Nat) : Sideband :=
  [Sideband.perst, .prsnt, .slot0, .slot1, .slot2, .pg, .alert, .mcRst].getD (col - 47) .mcRst

/-- The signal array (R432): every position not assigned is ground. -/
def pinAt (r : PinRow) (col : Nat) : Pin :=
  let port (out : Bool) (base : Nat) (positive : Bool) : Option Pin :=
    if 1 ≤ col ∧ col ≤ 40 then some (llyncaPin out base col positive) else none
  let host (out positive : Bool) : Pin := if 43 ≤ col ∧ col ≤ 58 then .pcie out (col - 43) positive else .ground
  let clock (positive : Bool) : Pin :=
    if col = 43 then .refclk positive else if col = 45 then .field true positive else .ground
  match r with
  | .a => (port true 0 true).getD (host true true)
  | .b => (port true 0 false).getD (host true false)
  | .d => (port false 0 true).getD (host false true)
  | .e => (port false 0 false).getD (host false false)
  | .g => (port true 8 true).getD
      (if 47 ≤ col ∧ col ≤ 54 then .sideband (sidebandAt col) else if 55 ≤ col ∧ col ≤ 58 then .reserved else clock true)
  | .h => (port true 8 false).getD (clock false)
  | .k => (port false 8 true).getD
      (if 47 ≤ col ∧ col ≤ 58 then .reserved else if col = 45 then .field false true else .ground)
  | .l => (port false 8 false).getD (if col = 45 then .field false false else .ground)
  | .c | .f | .j | .m => .ground

/-- Contact that a signal position is, for the order of mating: ground mates first and `PRSNT#` last. -/
def Pin.contact : Pin → Contact
  | .ground => .ret
  | .sideband .prsnt => .prsnt
  | _ => .signal

/-- Level of an output of the sideband, true for released; the others are inputs (R433). -/
def State.sidebandOut (s : State) : Sideband → Option Bool
  | .prsnt => some false
  | .pg => some s.pinPg
  | .alert => some (!s.pinAlert)
  | _ => none

/-! ### Supplies and ratings (R434, R446) -/

/-- Ratings of a supply input: voltages in mV, currents in mA, times in µs, power in mW. -/
structure SupplyRating where
  low : Nat
  high : Nat
  ripple : Nat
  current : Nat
  peak : Nat
  peakUs : Nat
  power : Nat
  inrush : Nat
  inrushUs : Nat
  lockOn : Nat
  lockOff : Nat
  overvoltage : Nat
  absolute : Nat
  deriving DecidableEq, Repr

/-- The 50 V input; its inrush time is the soft start. -/
def input50 : SupplyRating := ⟨46000, 56000, 500, 40000, 48000, 100, 1800000, 5000, 20000, 45000, 44000, 58000, 60000⟩

/-- The 3.3 V auxiliary input. -/
def input33 : SupplyRating := ⟨3135, 3465, 50, 1800, 2500, 1000, 6000, 3000, 2000, 3000, 2900, 3800, 4000⟩

/-- A voltage lies in the operating range of an input. -/
def SupplyRating.operates (r : SupplyRating) (mV : Nat) : Bool := decide (r.low ≤ mV ∧ mV ≤ r.high)

/-! ### Host port (R438) -/

/-- Rate of a PCIe generation in GT/s, and x16 payload of DMA in MB/s, typical; below 16 GT/s no link trains. -/
def pcieRate : Nat → Option (Nat × Nat)
  | 4 => some (16, 27500) | 5 => some (32, 55000) | 6 => some (64, 110000) | _ => none

/-- FLIT mode: always at 64 GT/s, below it when the host supports it. -/
def pcieFlitMode (gen : Nat) (hostFlit : Bool) : Bool := gen == 6 || hostFlit

/-- DMA payload of a link of `width` lanes, MB/s: an x8 link halves, an x4 link quarters it. -/
def pciePayload (gen width : Nat) : Nat := match pcieRate gen with | some r => r.2 * width / 16 | none => 0

/-- Base address registers of the two functions: bytes of each. -/
def pcieBar (function bar : Nat) : Option Nat :=
  match function, bar with
  | 0, 0 => some (16 * 2 ^ 20) | 1, 0 => some (128 * 2 ^ 10) | 1, 2 => some (4 * 2 ^ 50) | 1, 4 => some (4 * 2 ^ 10) | _, _ => none

/-- Doorbell of a queue in BAR0 of PF1. -/
def doorbellOffset (c q : Nat) : Nat := (c * 8 + q) * 0x1000

/-- What the module can reach and be reached at through BAR2 of `size` bytes: an offset equal to the module physical address; of 4 TiB no
remote address, bit 51 of which is set, can be formed (R250). -/
def bar2Reaches (size pa : Nat) : Bool := decide (pa < size)

/-- Payload and read request sizes supported. -/
def pciePayloadSizes : List Nat := [128, 256, 512]
def pcieReadSizes : List Nat := [128, 256, 512, 1024, 2048, 4096]

/-! ### Field network (R439) -/

/-- Packets of the field network that are answered besides DXP. -/
inductive FieldProbe | neighbourSolicitation | icmp6Echo | arp | icmpEcho
  deriving DecidableEq, Repr

/-- A probe to the module's own address is answered: over IPv4 only when `FIELD_IPV4_ENABLE` is 0x01. -/
def State.fieldAnswers (s : State) : FieldProbe → Bool
  | .neighbourSolicitation | .icmp6Echo => s.power.aux
  | .arp | .icmpEcho => s.power.aux && s.reg Key.fieldIpv4Enable == 1

/-! ### Clock, channels, coolant, mechanics (R440 to R442, R445) -/

/-- REFCLK is within its rating (20 ppm), or within what the module tolerates (200 ppm, R289); in hundredths of a ppm. -/
def refclkRated (cppm : Int) : Bool := decide (cppm.natAbs ≤ 2000)
def refclkTolerated (cppm : Int) : Bool := decide (cppm.natAbs ≤ 20000)

/-- Limits of a serial lane's channel at a rate in Gbit/s: insertion loss and return loss in dB, Nyquist in GHz, crosstalk in µV
(R441). -/
def channelLimits : Nat → Option (Nat × Nat × Nat × Nat)
  | 256 => some (28, 10, 64, 1200) | 128 => some (30, 12, 32, 1800) | 64 => some (30, 12, 32, 3000) | _ => none

/-- A channel of given losses and crosstalk is within the limits of a rate. -/
def channelOk (rate insertion return_ noise : Nat) : Bool :=
  match channelLimits rate with | some l => decide (insertion ≤ l.1 ∧ l.2.1 ≤ return_ ∧ noise ≤ l.2.2.2) | none => false

/-- Coolant at the inlet: m°C, dew point in m°C, flow in mL/min, pressure drop and inlet pressure in kPa, filter in µm. -/
structure Coolant where
  inlet : Int
  dewPoint : Int
  flow : Nat
  drop : Nat
  pressure : Nat
  filter : Nat
  deriving DecidableEq, Repr

/-- Part grades (R448). -/
inductive Grade | a0 | e0
  deriving DecidableEq, Repr

/-- The conditions of the table "Coolant" (R442); between the two flows of the table the drop is held to that of the higher (DESIGN
CHOICE, log 151). -/
def Coolant.ok (g : Grade) (c : Coolant) : Bool :=
  (match g with | .a0 => decide (15000 ≤ c.inlet ∧ c.inlet ≤ 40000) | .e0 => decide (c.inlet = 25000)) &&
  decide (c.dewPoint + 2000 ≤ c.inlet) && decide (2500 ≤ c.flow ∧ c.flow ≤ 4000) &&
  decide (c.drop ≤ if c.flow = 2500 then 35 else 75) && decide (c.pressure ≤ 350) && decide (c.filter ≤ 50)

/-- Dimensions in µm, mass in g, insertion force in N, torque of the screws in mN·m, flatness in µm, mating cycles (R445). -/
structure Mechanical where
  length : Nat
  width : Nat
  height : Nat
  mass : Nat
  screws : Nat
  torque : Nat
  force : Nat
  cycles : Nat
  flatness : Nat
  deriving DecidableEq, Repr

/-- The table "Mechanical". -/
def mechanical : Mechanical := ⟨165000, 112000, 32000, 2100, 4, 600, 180, 200, 150⟩

/-! ### Ratings, operating conditions, ordering codes (R446 to R448) -/

/-- Absolute maximum ratings at the supplies, the coolant inlet and in storage: m°C, kPa. -/
def withinAbsolute (mV50 mV33 : Int) (inlet : Int) (pressure : Nat) : Bool :=
  decide (-500 ≤ mV50 ∧ mV50 ≤ input50.absolute) && decide (-300 ≤ mV33 ∧ mV33 ≤ input33.absolute) &&
    decide (5000 ≤ inlet ∧ inlet ≤ 55000) && decide (pressure ≤ 500)

/-- Operating conditions under which the guaranteed figures hold: air in m°C, relative humidity in %, altitude in m (R447). -/
def operating (g : Grade) (mV50 mV33 : Nat) (c : Coolant) (air : Int) (humidity altitude : Nat) : Bool :=
  input50.operates mV50 && input33.operates mV33 && c.ok g &&
    match g with
    | .a0 => decide (10000 ≤ air ∧ air ≤ 45000 ∧ 8 ≤ humidity ∧ humidity ≤ 80 ∧ altitude ≤ 3000)
    | .e0 => decide (20000 ≤ air ∧ air ≤ 30000 ∧ altitude ≤ 1000)

end Sys2Proof.Machine
end

