-- ==== Sys2Proof/WellFormed.lean ====
section
/-! DEFINITION. Which commands are well formed: every operand within the width of the field that carries it
(the rows of the table give no bits; the widths are those of the chapters' field tables). -/
namespace Sys2Proof

/-- A value of `w` bits. -/
def fits (w v : Nat) : Bool := decide (v < 2 ^ w)

/-- An address: a coordinate of 16 bits and an aux field of 2 bits (R224). -/
def Addr.wf (a : Addr) : Bool := fits 16 a.coord && fits 2 a.aux

/-- Tags of an exchange delivery (R143). -/
def DelivTag.wf (t : DelivTag) : Bool := fits 2 t.ctx && fits 32 t.step && fits 32 t.cmd && fits 16 t.sender && fits 16 t.origin &&
  fits 32 t.row

/-- A packet's header fields within their widths (R228), at least one destination. -/
def Packet.wf (p : Packet) : Bool :=
  fits 12 p.tag && decide (p.tc ≤ 4) && fits 4 p.mode && p.src.wf && p.dsts.all (fun d => d.1.wf && fits 16 d.2) &&
  decide (1 ≤ p.dsts.length) && decide (p.dsts.length ≤ 16) && fits 2 p.ctx && fits 6 p.hops && fits 1 p.vc

/-- A datagram within the field widths of R393 and R394. -/
def Dgram.wf (d : Dgram) : Bool :=
  decide (d.src.length = 16) && fits 16 d.port && fits 16 d.version && fits 8 d.flags && fits 16 d.session &&
  fits 32 d.seq && fits 16 d.status &&
  d.ops.all (fun o => fits 16 o.index && fits 8 o.sub && fits 32 o.off && fits 32 o.len)

/-- One tag set slot or partition tag (R218). -/
def tagWf (t : Nat) : Bool := fits 12 t

/-- The operand formats of a lane issue are those of its shape (R65, R68); an unknown shape is the load's to refuse. -/
def LaneIssue.fmtsOk (i : LaneIssue) : Bool :=
  let f8 (f : Fmt) : Bool := f == .e4m3 || f == .e5m2
  match i.shape with
  | 0x01 | 0x11 | 0x21 => f8 i.ownFmt && f8 i.shFmt
  | 0x02 => i.ownFmt == .fp4 && f8 i.shFmt
  | 0x12 => f8 i.ownFmt && i.shFmt == .fp4
  | 0x03 | 0x13 => i.ownFmt == .fp4 && i.shFmt == .fp4
  | 0x04 | 0x14 | 0x24 => i.ownFmt == .bf16 && i.shFmt == .bf16
  | _ => true

/-- A lane issue within its fields: row, shape, the 6-bit sparse field, accumulator, logical lengths (R64, R83, R88). -/
def LaneIssue.wf (i : LaneIssue) : Bool :=
  fits 5 i.row && fits 8 i.shape && fits 6 i.sparse && fits 4 i.acc && fits 16 i.lOwn && fits 16 i.lSh && i.fmtsOk

/-- A Vector Unit issue of at most 512 elements; spans and formats of the packing operations are those of R92 (R72). -/
def VecIssue.wf (v : VecIssue) : Bool :=
  let sparse (f : Fmt) : Bool := f == .e4m3 || f == .e5m2 || f == .bf16
  decide (v.n ≤ 512) && (match v.fn with
    | .pairPack f m => sparse f && decide (1 ≤ m ∧ m ≤ 4)
    | .compact f m len first => sparse f && decide (1 ≤ m ∧ m ≤ 16) && fits 16 len && fits 16 first
    | _ => true)

/-- One issue set a CCLK, in order, below the segment's count (R73). -/
def issueOrder (count : Nat) : Option Nat → List IssueSet → Bool
  | _, [] => true
  | last, i :: t => decide (i.at_ < count) && (match last with | some n => decide (n < i.at_) | none => true) && issueOrder count (some i.at_) t

/-- An issue set within its fields: rows, accumulators, at most 512 elements for the Vector Unit, stacks (R66, R72, R73). -/
def IssueSet.wf (i : IssueSet) : Bool :=
  i.lanes.all LaneIssue.wf && i.drains.all (fun d => fits 5 d.row && fits 4 d.acc && fits 32 d.length) &&
  (match i.vec with | some v => v.wf | none => true) && i.streams.all (fun x => fits 3 x.stack) && fits 32 i.wake && fits 2 i.quiet

/-- A block schedule within its fields: tiles, row offsets of 2 bits, feather masks (R73, R78, R79). -/
def Block.wf (b : Block) : Bool :=
  fits 16 b.deadline && b.scheds.all (fun k => fits 2 k.tile && decide (k.assumed.length = 32) && k.assumed.all (fits 2) &&
    k.segs.all (fun g => fits 32 g.feather && issueOrder g.count none g.sets && g.sets.all IssueSet.wf))

/-- Credits name a (class, VC) pair, 0 to 255 buffers a flit, of at most 17 flits, in each of whose two code words at most two symbols
are corrected (R207, R208). -/
def FlitIn.wf (f : FlitIn) : Bool :=
  decide (f.cr.length ≤ 17) && f.cr.all (fun c => decide (c.1 < 10) && fits 8 c.2) && decide (f.fec ≤ 68)

/-- Operands within their fields. -/
def Instr.wf : Instr → Bool
  | .doorbell _ _ tail => fits 32 tail
  | .completionAck _ n => fits 32 n
  | .preempt m => fits 8 m
  | .resume m => fits 8 m
  | .actDetected _ _ h a => fits 32 h && fits 52 a
  | .hostMemRead a n _ => fits 52 a && decide (1 ≤ n)
  | .hostMemWrite a d _ => fits 52 a && decide (1 ≤ d.length)
  | .temperatureSample _ t => decide (-(2 ^ 31 : Int) ≤ t) && decide (t < (2 ^ 31 : Int))
  | .scrubRead c _ => fits 9 c
  | .scrubWriteback a => fits 52 a
  | .moveComplete h o _ _ => fits 32 h && decide (o ≤ 4)
  | .planDigest d => fits 64 d
  | .codecTileDone h t _ _ => fits 32 h && fits 32 t
  | .stagingHint l e => fits 16 l && fits 16 e
  | .landing _ t l k p _ f n d => t.wf && fits 16 l && fits 64 k && p.all (fits 32) && decide (f + d.length ≤ n)
  | .mergeList t l k _ _ => t.wf && fits 16 l && fits 64 k
  | .returnArrival _ t l k e f n d => t.wf && fits 16 l && fits 64 k && fits 16 e && decide (f + d.length ≤ n)
  | .mirrorArrival c l r st p _ => fits 2 c && fits 16 l && fits 16 r && fits 32 st && fits 32 p
  | .caps _ l o => l.wf && fits 16 o.version && fits 16 o.features && fits 16 o.coord && fits 8 o.port && fits 8 o.role && fits 16 o.rateMax
  | .boundary _ l t => l.wf && tagWf t
  | .boundaryAck _ l t => l.wf && tagWf t
  | .tagSet _ l t => l.wf && tagWf t
  | .tagSetAck _ l t => l.wf && tagWf t
  | .resync _ l => l.wf
  | .resyncMark _ l => l.wf
  | .latProbe _ l n h => l.wf && fits 32 n && fits 32 h
  | .latEcho _ l n h _ => l.wf && fits 32 n && fits 32 h
  | .abortFlit _ l => l.wf
  | .trainComplete _ _ _ v _ => fits 4 v
  | .flitCrcFail _ k n => fits 4 k && decide (n ≤ 4)
  | .creditSet _ l f => l.wf && decide (f.length = 16) && f.all (fits 8)
  | .orphanFlit _ l t tc vc => l.wf && fits 12 t && decide (tc ≤ 4) && fits 1 vc
  | .beacon _ l b => l.wf && fits 64 b.ticks && fits 16 b.fraction && fits 8 b.stratum && fits 8 b.state && fits 16 b.coord && fits 8 b.priority
  | .partitionJoin t => tagWf t && decide (t ≠ 0)
  | .transitTagsWrite _ ts => decide (ts.length = 8) && ts.all (fits 16)
  | .boundaryTimeout _ t _ => tagWf t
  | .packetArrival _ l p => l.wf && p.wf
  | .packetAccept p => p.wf
  | .ack a l => a.wf && l.all (fun x => fits 3 x.1 && fits 32 x.2.1 && fits 64 x.2.2)
  | .skip a tc n => a.wf && decide (tc ≤ 4) && fits 32 n
  | .linkState d p _ c => decide (d ≤ 3) && fits 8 p && fits 16 c
  | .heartbeat a t => a.wf && fits 64 t
  | .heartbeatDeclare a _ => a.wf
  | .memberLost _ a c t => a.wf && fits 8 c && fits 64 t
  | .memberLostCopy a _ => a.wf
  | .rankRemap v => fits 64 v
  | .niFailedClear v => fits 32 v
  | .load a c _ o n _ => a.wf && fits 2 c && fits 35 o && decide (1 ≤ n) && decide (n ≤ 4096)
  | .store a c _ o d _ => a.wf && fits 2 c && fits 35 o && decide (1 ≤ d.length) && decide (d.length ≤ 4096)
  | .atomic a c _ o op sz _ _ _ _ => a.wf && fits 2 c && fits 35 o && fits 8 op && (sz == 4 || sz == 8)
  | .signal a c k n => a.wf && fits 2 c && fits 16 k && fits 32 n
  | .loadData _ st d => fits 8 st && decide (d.length ≤ 4096)
  | .atomicData _ st o => fits 8 st && fits 64 o
  | .enter _ c r i a g => fits 16 c && fits 8 r && fits 32 i && fits 8 a && fits 64 g
  | .stroke _ c n st i a f _ u => fits 16 c && fits 16 n && fits 8 st && fits 32 i && fits 8 a && fits 32 f && u.all (fun x => fits 6 x.2)
  | .scan _ c r n st i a f _ => fits 16 c && fits 8 r && fits 16 n && fits 8 st && fits 32 i && fits 8 a && fits 32 f
  | .crewAbort _ c o i a k => fits 16 c && fits 16 o && fits 32 i && fits 8 a && fits 8 k
  | .hostTimeWrite t => fits 64 t
  | .ptmDialog t _ => fits 64 t
  | .parityDelta a s g sl r _ _ _ => a.wf && fits 32 s && fits 32 g && fits 8 sl && fits 8 r
  | .groupDone g i => fits 32 g && fits 8 i
  | .groupRecord g => fits 32 g
  | .groupState a b u i f => fits 32 a && fits 32 b && fits 32 u && fits 8 i && fits 8 f
  | .takeover _ r a c t => fits 16 r && a.wf && fits 8 c && fits 64 t
  | .rebuildStart g v i l _ _ => fits 32 g && fits 8 v && fits 8 i && fits 8 l
  | .codedRevert g => fits 32 g
  | .ckptRequest _ t o r c k => fits 32 t && fits 16 o && fits 8 r && fits 8 c && fits 64 k
  | .ckptXferDesc d => decide (d.length = 32)
  | .ckptRestore c => fits 32 c
  | .ckptTile s t i p d => fits 32 s && fits 32 t && fits 32 i && fits 4 p && decide (d.length = 4096)
  | .ctxStepSet _ v => fits 32 v
  | .ctxFaultAck _ w => fits 32 w
  | .moduleFaultAck w => fits 32 w
  | .eventAck w => fits 32 w
  | .registerWrite a v => fits 24 a && fits 32 v
  | .u64LowRead a => fits 24 a
  | .u64HighRead a => fits 24 a
  | .u64LowWrite a v => fits 24 a && fits 32 v
  | .u64HighWrite a v => fits 24 a && fits 32 v
  | .bulkSelect v => fits 32 v
  | .bulkApertureWrite o v => fits 20 o && fits 32 v
  | .configCrcRef v => fits 32 v
  | .dxpOpen d o _ => d.wf && fits 16 o
  | .dxpClose d => d.wf
  | .dxpKeepalive d => d.wf
  | .dxpRead d => d.wf
  | .dxpWrite d => d.wf
  | .dxpDescribe d => d.wf
  | .quoteRead d => d.wf
  | .dxpSessionTimeout n _ => fits 16 n
  | .compatLevel v => fits 8 v
  | .quoteNonce n => decide (n.length = 32)
  | .powerCap v => fits 16 v
  | .auxPowerUp _ st => fits 3 st
  | .ckptVersionRead h u => fits 32 h && fits 32 u
  | .imageLoad bs => bs.all Block.wf
  | .imageUnload | .block .. | .broadcast .. | .dispatch .. | .combine .. | .allReduce .. | .reduceScatter ..
  | .allGather .. | .collectiveBroadcast .. | .allToAll .. | .barrier .. | .copyLocal .. | .put .. | .get .. | .atomicList ..
  | .fetch .. | .commit .. | .launchTick .. | .commitPoint .. | .stepBoundary .. | .blockBudgetExpiry ..
  | .commandBudgetExpiry .. | .teardownComplete .. | .blockWaitResume .. | .nearStreamStallEnd .. | .waitFeather ..
  | .refreshSlot .. | .forcedRefresh .. | .refreshDoubledClear .. | .errorRateUpdate .. | .planComplete | .poolWaitGrant ..
  | .portEnable .. | .portDisable .. | .detectComplete .. | .verifyEnd .. | .trainAttemptTimeout ..
  | .retryWaitEnd .. | .linkMsgRepeat .. | .latencyRemeasure ..
  | .lockLost .. | .crcBurst .. | .linkSilenceEnd .. | .partitionTeardown
  | .retryTimerExpiry .. | .heartbeatSend .. | .mfResponseTimeout .. | .strokeTimeout .. | .abortSettle .. | .takeoverWait ..
  | .clockFault .. | .upstreamLost .. | .gcValueRead | .rampStart .. | .rampEnd .. | .codedReportWait .. | .decodeRead ..
  | .decodeTerm .. | .decodeData .. | .earlyWarningCheck .. | .ckptPreemptNotice | .ckptSoftwareRequest | .ckptWriteDone
  | .flashProgramFail .. | .xferComplete .. | .restoreComplete .. | .ctxResident .. | .ctxRelease .. | .ctxClear ..
  | .stateRequestConfig | .stateRequestRun | .bulkCommit | .configCrcPassEnd .. | .configCrcGrace .. | .quoteSigned
  | .startFallbackReset | .thermalEmergency .. | .thermalEmergencyEnd .. | .thermalShutdown .. | .inputInRange ..
  | .inputLoss .. | .auxLoss .. | .overvoltage .. | .mcReset .. | .perstAssert | .perstDeassert | .stageComplete ..
  | .stageBudgetExpiry .. | .bistWaveComplete .. | .startAgain .. | .imageLoadEnd .. | .flashDetached
  | .fieldNetworkLink .. | .emergencyIssueWindow .. => true

end Sys2Proof
end

