-- ==== Sys2Proof/Tests/Slice0.lean ====
section
/-! SUPPORT. Tests of single commands on small states, terms that are not well formed, and for each obligation concrete states that
meet its hypotheses. -/
namespace Sys2Proof.Tests
open Sys2Proof.Machine

/-! ### Small states -/

/-- A module in CONFIG with its host link up. -/
def cfg : State :=
  { State.reset with
    start := { Start.reset with stage := none }
    power := { Power.reset with input := true, perst := false, aux := true, railsOn := true }
    time := { Time.reset with gcRunning := true }
    regs := (((State.reset.setReg Key.moduleState stConfig).setReg Key.hostLinkGen 6).setReg Key.hostLinkWidth 16).regs }

/-- The same in RUN. -/
def run : State := cfg.setReg Key.moduleState stRun

/-- A command table entry of a kind. -/
def cmd (kind : Nat) (p : Param) : Command := ⟨kind, 0, 0, 0, [], [], [], [], p⟩

/-- An entry at the head of a queue. -/
def entry (c : Command) (p : Phase) (flags : Nat) : Run :=
  { entry := ⟨0, flags, 0, 0, 7⟩, cmd := c, phase := p, order := 0, reached := 0, waited := [], stall := none, budgetFrom := none
    issuedAt := 0, timer := 0, blockCycles := 0, grace := 0, reruns := 0, staged := [], gateKeys := [], bias := [], objs := []
    fetched := [], counts := [], sat := Sat.zero, hard := false, strict := false, repairOf := none, tiles := [], served := []
    xch := none, crew := none, abort := none, copy := none, waitSince := 0, commitSince := none }

/-- A tile of a block that has run 101 cycles. -/
def tileAt (n : Nat) : TileRun :=
  { tile := n, assumed := [], todo := [], segIndex := 0, cycles := 101, waitCclk := 0, waiting := none, hold := [], holdSince := (0, 0)
    stalled := false, gated := false, accs := [], flight := [], vecAccs := [], own := [], shadow := [], terms := [], vecFlight := []
    outs := [], streams := [], quietUntil := (0, 0), maskLayer := none, maskP := [], maskN := [], pads := 0, issued := [] }

/-- An image of one context, with a block and command budget of 100 each. -/
def img (cs : List Command) (os : List ObjRec) : Image :=
  ⟨⟨1, 0, 0, 0, 1, 1, 0, 4, 0, 1, 8, 0⟩, cs, os, [(100, 100)], [], [⟨[0, 1], 2, 1, 1, 1, 0, 100, 4⟩], [], [], []⟩

/-- Context 0 RESIDENT, with a quota of 16 frames and an entry at the head of queue 0. -/
def resident (r : Run) : State :=
  (({ run with image := some (img [r.cmd] []) }.setReg (Key.ctxState 0) cxResident).modCtx 0 (fun x => { x with quota := 16 * frameBytes })).setRun
    0 0 (some r)

/-- The next state of a command, or the state itself. -/
def after (i : Instr) (s : State) : State := match exec i s with | .next t => t | _ => s

/-- A crew command's progress at instance 5, attempt 1. -/
def crewAt : CrewRun := ⟨[], 0, 5, 1, 0, 9, [(0, 1)], 0, [], [], [], [], 0, 0⟩

/-- A context with a running command of crew 0. -/
def crewState : State :=
  resident { entry (cmd 3 (.collective ⟨opAllReduce, 0, 0, 1, 4, 0⟩)) .running 0 with crew := some crewAt }

/-! Parameter records of the kinds of command. -/

def exch (role : Nat) : Param := .exchange ⟨role, 0, 0, 0, 0, 0, 0, 0, 0, 0, 0, 0, 1⟩
def coll (op : Nat) : Param := .collective ⟨op, 0, 0, 1, 4, 0⟩
def copy (op : Nat) : Param := .copy ⟨op, 0, 0, 0, 0, 4⟩

/-- An entry with AT_TICK and launch tick 5. -/
def timed : Run := { entry (cmd 6 .none) .waiting 1 with entry := ⟨0, 1, 5, 0, 7⟩ }

/-- A packet of class TC1 that carries nothing. -/
def pkt : Packet := { tag := 1, tc := 1, mode := 0, src := ⟨0, 0⟩, dsts := [(⟨0, 0⟩, 0)], body := .skip }

/-- A tag of a delivery. -/
def dtag : DelivTag := ⟨0, 0, 0, 1, 1, 0⟩

/-! ### Terms that are not well formed -/

theorem test_wf_schedules :
    [({ row := 32, shape := 1, sparse := 0, acc := 0, own := .keep, stride := 0, shared := ⟨.served, 0, 0, 0, none⟩, ownFmt := .e4m3,
        shFmt := .e4m3, target := .served } : LaneIssue),
     { row := 0, shape := 1, sparse := 0, acc := 16, own := .keep, stride := 0, shared := ⟨.served, 0, 0, 0, none⟩, ownFmt := .e4m3,
        shFmt := .e4m3, target := .served },
     { row := 0, shape := 1, sparse := 64, acc := 0, own := .keep, stride := 0, shared := ⟨.served, 0, 0, 0, none⟩, ownFmt := .e4m3,
        shFmt := .e4m3, target := .served },
     { row := 0, shape := 4, sparse := 0, acc := 0, own := .keep, stride := 0, shared := ⟨.served, 0, 0, 0, none⟩, ownFmt := .bf16,
        shFmt := .e4m3, target := .served }].all (fun i => !i.wf) = true ∧
    ([⟨.add, 513, none, [], none⟩, ⟨.pairPack .fp4 1, 4, none, [], none⟩, ⟨.pairPack .bf16 5, 4, none, [], none⟩,
      ⟨.compact .bf16 17 4 0, 4, none, [], none⟩] : List VecIssue).all (fun v => !v.wf) = true ∧
    [[({ at_ := 4 } : IssueSet)], [{ at_ := 2 }, { at_ := 2 }], [{ at_ := 2 }, { at_ := 1 }]].all (fun l => !issueOrder 4 none l) = true ∧
    (⟨0, none, [⟨4, List.replicate 32 0, []⟩]⟩ : Block).wf = false ∧ (⟨0, none, [⟨0, [4], []⟩]⟩ : Block).wf = false := by decide

theorem test_wf_context_rows :
    [Instr.doorbell 0 0 (2 ^ 32), .completionAck 0 (2 ^ 32), .preempt 256, .resume 256, .actDetected 0 0 (2 ^ 32) 0,
     .actDetected 0 0 0 (2 ^ 52), .ctxStepSet 0 (2 ^ 32), .ctxFaultAck 0 (2 ^ 32), .moduleFaultAck (2 ^ 32), .eventAck (2 ^ 32)].all
      (fun i => !i.wf) = true := by decide

theorem test_wf_memory_rows :
    [Instr.hostMemRead (2 ^ 52) 1 [], .hostMemRead 0 0 [], .hostMemWrite (2 ^ 52) [0] [], .hostMemWrite 0 [] [],
     .temperatureSample 0 (2 ^ 31), .temperatureSample 0 (-(2 ^ 31) - 1), .scrubRead 512 [], .scrubWriteback (2 ^ 52),
     .moveComplete (2 ^ 32) 0 [] true, .moveComplete 0 5 [] true, .planDigest (2 ^ 64), .codecTileDone (2 ^ 32) 0 [] true,
     .codecTileDone 0 (2 ^ 32) [] true, .stagingHint (2 ^ 16) 0, .stagingHint 0 (2 ^ 16)].all (fun i => !i.wf) = true := by decide

theorem test_wf_exchange_rows :
    [Instr.landing 0 ⟨4, 0, 0, 0, 0, 0⟩ 0 0 [] false 0 1 [], .landing 0 dtag (2 ^ 16) 0 [] false 0 1 [], .landing 0 dtag 0 (2 ^ 64) [] false 0 1 [],
     .landing 0 dtag 0 0 [2 ^ 32] false 0 1 [], .landing 0 dtag 0 0 [] false 1 1 [0], .mergeList ⟨0, 2 ^ 32, 0, 0, 0, 0⟩ 0 0 false [],
     .mergeList dtag (2 ^ 16) 0 false [], .mergeList dtag 0 (2 ^ 64) false [], .returnArrival 0 ⟨0, 0, 2 ^ 32, 0, 0, 0⟩ 0 0 0 0 1 [],
     .returnArrival 0 ⟨0, 0, 0, 0, 2 ^ 16, 0⟩ 0 0 0 0 1 [], .returnArrival 0 ⟨0, 0, 0, 0, 0, 2 ^ 32⟩ 0 0 0 0 1 [],
     .returnArrival 0 dtag 0 0 (2 ^ 16) 0 1 [], .returnArrival 0 dtag 0 0 0 1 1 [0], .mirrorArrival 4 0 0 0 0 [],
     .mirrorArrival 0 (2 ^ 16) 0 0 0 [], .mirrorArrival 0 0 (2 ^ 16) 0 0 [], .mirrorArrival 0 0 0 (2 ^ 32) 0 [],
     .mirrorArrival 0 0 0 0 (2 ^ 32) []].all (fun i => !i.wf) = true := by decide

theorem test_wf_port_rows :
    [Instr.caps 0 {} ⟨2 ^ 16, 0, 0, 0, 0, 0⟩, .caps 0 {} ⟨0, 0, 0, 0, 256, 0⟩, .caps 0 ⟨[(10, 0)], 0⟩ ⟨0, 0, 0, 0, 0, 0⟩,
     .boundary 0 {} 4096, .boundaryAck 0 {} 4096, .tagSet 0 {} 4096, .tagSetAck 0 {} 4096, .resync 0 ⟨[], 69⟩, .resyncMark 0 ⟨[(0, 256)], 0⟩,
     .creditSet 0 {} [0], .creditSet 0 {} (256 :: List.replicate 15 0), .latProbe 0 {} (2 ^ 32) 0, .latEcho 0 {} 0 (2 ^ 32) 0,
     .abortFlit 0 ⟨[(10, 0)], 0⟩, .orphanFlit 0 {} 0 5 0, .orphanFlit 0 {} 0 0 2, .orphanFlit 0 {} 4096 0 0, .flitCrcFail 0 16 0, .flitCrcFail 0 0 5,
     .trainComplete 0 0 0 16 false, .beacon 0 {} ⟨2 ^ 64, 0, 0, 0, 0, 0⟩, .beacon 0 {} ⟨0, 2 ^ 16, 0, 0, 0, 0⟩, .partitionJoin 0,
     .partitionJoin 4096, .transitTagsWrite 0 [1], .transitTagsWrite 0 [2 ^ 16, 0, 0, 0, 0, 0, 0, 0], .boundaryTimeout 0 4096 0].all
      (fun i => !i.wf) = true := by decide

theorem test_wf_fabric_rows :
    [Instr.packetArrival 0 {} { pkt with tag := 4096 }, .packetArrival 0 {} { pkt with tc := 5 }, .packetArrival 0 {} { pkt with vc := 2 },
     .packetArrival 0 ⟨[], 69⟩ pkt, .packetAccept { pkt with src := ⟨0, 4⟩ }, .packetAccept { pkt with dsts := [] }, .ack ⟨2 ^ 16, 0⟩ [],
     .ack ⟨0, 0⟩ [(8, 0, 0)], .skip ⟨0, 4⟩ 0 0, .skip ⟨0, 0⟩ 5 0, .linkState 4 0 true 0, .heartbeat ⟨0, 4⟩ 0, .heartbeat ⟨0, 0⟩ (2 ^ 64),
     .heartbeatDeclare ⟨0, 4⟩ 0, .memberLost 0 ⟨0, 0⟩ 256 0, .memberLostCopy ⟨0, 4⟩ 0, .rankRemap (2 ^ 64), .niFailedClear (2 ^ 32)].all
      (fun i => !i.wf) = true := by decide

theorem test_wf_memory_fabric_rows :
    [Instr.load ⟨0, 0⟩ 4 0 0 1 [], .load ⟨0, 0⟩ 0 0 (2 ^ 35) 1 [], .load ⟨0, 0⟩ 0 0 0 0 [], .load ⟨0, 0⟩ 0 0 0 4097 [],
     .store ⟨0, 4⟩ 0 0 0 [0] [], .store ⟨0, 0⟩ 0 0 0 [] [], .atomic ⟨0, 0⟩ 0 0 0 1 2 false 0 0 [], .atomic ⟨0, 0⟩ 0 0 0 256 4 false 0 0 [],
     .signal ⟨0, 0⟩ 0 (2 ^ 16) 1, .signal ⟨0, 0⟩ 0 0 (2 ^ 32), .loadData 0 256 [], .atomicData 0 0 (2 ^ 64)].all (fun i => !i.wf) = true := by
  decide

theorem test_wf_collective_and_coded_rows :
    [Instr.enter 0 0 256 0 0 0, .enter 0 0 0 (2 ^ 32) 0 0, .stroke 0 0 (2 ^ 16) 0 0 0 0 [] [], .stroke 0 0 0 0 0 0 0 [] [(0, 64)],
     .scan 0 0 256 0 0 0 0 0 [], .crewAbort 0 0 0 0 256 0, .hostTimeWrite (2 ^ 64), .ptmDialog (2 ^ 64) 0, .parityDelta ⟨0, 0⟩ (2 ^ 32) 0 0 0 0 0 [],
     .parityDelta ⟨0, 0⟩ 0 0 256 0 0 0 [], .groupDone (2 ^ 32) 0, .groupDone 0 256, .groupRecord (2 ^ 32), .groupState 0 0 (2 ^ 32) 0 0,
     .takeover 0 (2 ^ 16) ⟨0, 0⟩ 0 0, .rebuildStart 0 256 0 0 [] [], .codedRevert (2 ^ 32)].all (fun i => !i.wf) = true := by decide

theorem test_wf_checkpoint_and_dictionary_rows :
    [Instr.ckptRequest 0 (2 ^ 32) 0 0 0 0, .ckptXferDesc [0], .ckptRestore (2 ^ 32), .ckptTile 0 0 0 16 [], .ckptTile 0 0 0 0 [],
     .registerWrite (2 ^ 24) 0, .registerWrite 0 (2 ^ 32), .u64LowRead (2 ^ 24), .u64HighRead (2 ^ 24), .u64LowWrite 0 (2 ^ 32),
     .u64HighWrite (2 ^ 24) 0, .bulkSelect (2 ^ 32), .bulkApertureWrite (2 ^ 20) 0, .configCrcRef (2 ^ 32), .compatLevel 256, .quoteNonce [],
     .powerCap (2 ^ 16), .auxPowerUp 0 8, .ckptVersionRead (2 ^ 32) 0, .dxpSessionTimeout (2 ^ 16) 0,
     .dxpOpen ⟨[], 0, true, 0, 0, 0, 0, 0, []⟩ 0 false, .dxpOpen ⟨List.replicate 16 0, 0, true, 0, 0, 0, 0, 0, []⟩ (2 ^ 16) false,
     .dxpRead ⟨List.replicate 16 0, 0, true, 0, 0, 0, 2 ^ 32, 0, []⟩, .dxpWrite ⟨List.replicate 16 0, 0, true, 0, 256, 0, 0, 0, []⟩,
     .dxpClose ⟨List.replicate 16 0, 2 ^ 16, true, 0, 0, 0, 0, 0, []⟩, .dxpKeepalive ⟨List.replicate 16 0, 0, true, 2 ^ 16, 0, 0, 0, 0, []⟩,
     .dxpDescribe ⟨List.replicate 16 0, 0, true, 0, 0, 2 ^ 16, 0, 0, []⟩,
     .quoteRead ⟨List.replicate 16 0, 0, true, 0, 0, 0, 0, 0, [⟨2 ^ 16, 0, 0, 0, 0, []⟩]⟩].all (fun i => !i.wf) = true := by decide

/-! ### Single commands -/

/-- No word spells a command. -/
theorem test_no_word_spells_a_command : decodeTableWord 32 0 = none := by decide

/-- Queue order (the first command runs, the second waits). -/
theorem test_step_takes_the_front :
    (match step { cfg with pending := [.eventAck 7, .eventAck 8] } with | .next t => (t.reg Key.eventAck, t.pending) | _ => (0, [])) =
      (7, [.eventAck 8]) := by decide

/-- R446: above the rating of the 50 V input the model stops. -/
theorem test_ratings : exec (.overvoltage false 60001) cfg = .fault .ratingsExceeded := rfl

/-- R374: a read-only entry refuses a write with ACCESS, code 2. -/
theorem test_readonly_refused :
    ((after (.registerWrite (wordAddr Key.moduleState) 2) cfg).reg Key.writeLastRefused,
     (after (.registerWrite (wordAddr Key.moduleState) 2) cfg).reg Key.moduleState) = (Key.moduleState * 256 + 2, stConfig) := by decide

/-- R385: two halves make one write of HOST_TIME_WRITE. -/
theorem test_wide_write :
    ((after (.hostTimeWrite (5 * 2 ^ 32 + 3)) cfg).time.pairs.map TimePair.hostTime) = [5 * 2 ^ 32 + 3] := by decide

/-- R384: the high word is that of the moment the low word was read. -/
theorem test_latch :
    (after (.u64HighRead (wordAddr Key.gcValue + 4)) { after (.u64LowRead (wordAddr Key.gcValue))
      (cfg.modTime (fun t => { t with gcTicks := 2 ^ 32 + 9 })) with time := Time.reset }).out.host =
      [.word (wordAddr Key.gcValue) 9, .word (wordAddr Key.gcValue + 4) 1] := by decide

/-- R148: bytes written are read back, the last byte of HBM among them. -/
theorem test_host_memory :
    (after (.hostMemRead (0xC000000000 - 2) 2 []) (after (.hostMemWrite (0xC000000000 - 2) [1, 2] []) cfg)).out.host =
      [.readData (0xC000000000 - 2) [1, 2] false] := by decide +kernel

/-- R250: a remote address is unsupported to the host. -/
theorem test_host_remote :
    (after (.hostMemRead 0x8000000000000 1 []) cfg).out.host = [.unsupported 0x8000000000000] := by decide

/-- R365: acknowledging clears a pending bit. -/
theorem test_fault_ack :
    let s := cfg.logCtx 0 0x22 sevWarning 0x0C none32 0 0
    (s.reg (Key.ctxFaultPending 0), (after (.ctxFaultAck 0 1) s).reg (Key.ctxFaultPending 0)) = (16, 0) := by decide

/-- R367: sequence numbers leave out 0. -/
theorem test_sequence_wraps :
    ((cfg.setReg Key.eventLogHead 0xFFFFFFFF).log sevInfo noCtx 1 none32 0 0).reg Key.eventLogHead = 1 := by decide

/-- R33: a signal that saturates the counter. -/
theorem test_signal_saturates :
    let s := (resident (entry (cmd 6 .none) .running 0)).addCounter 0 1 0xFFFFFFFE
    (after (.signal ⟨0, 0⟩ 0 1 5) s).counter 0 1 = 0xFFFFFFFF := by decide +kernel

/-- R433: PERST# drops the link. -/
theorem test_perst : ((after .perstAssert cfg).hostLink, (after .perstAssert cfg).reg Key.hostLinkGen) = (false, 0) := by decide

/-- R299: a ramp ends at its launch tick and not before. -/
theorem test_ramp_end :
    ((after (.rampEnd 4) (run.modTime (fun t => { t with ramp := some 5 }))).time.ramp,
     (after (.rampEnd 5) (run.modTime (fun t => { t with ramp := some 5 }))).time.ramp) = (some 5, none) := by decide +kernel

/-- R107: of equal biased values the smaller index ranks first. -/
theorem test_key_order :
    (topCands 2 [⟨5, 5, 3, 0⟩, ⟨9, 9, 7, 0⟩, ⟨5, 5, 1, 0⟩]).map Cand.expert = [7, 1] := by decide

/-- R240: a duplicate of an accepted number is not accepted. -/
theorem test_stream_duplicate :
    ((Stream.take ⟨⟨0, 0⟩, 1, 0, 0⟩ 0).1.map (fun y => (y.take 0).1)) = some none := by decide

/-- A buffer of pool 3. -/
def buf : Buf := ⟨3, 0, 0, 1, true, 0, 0, 0, 0, 0, [], false, false, [], dtag⟩

/-- R199: a buffer freed twice. -/
theorem test_double_free :
    let s := (cfg.modPools (fun p => { p with bufs := [buf] })).poolDrop 3 0 1
    (s.1, s.2.pools.bufs, (s.2.poolDrop 3 0 1).1, (s.2.poolDrop 3 0 1).2.reg (Key.poolDoubleFreeCount 3)) = (false, [], true, 1) := by decide

/-- FIPS 180-4 gives the SHA-384 of "abc": its first and last bytes (R21, R425). -/
theorem test_sha384 : ((sha384 [0x61, 0x62, 0x63]).head?, (sha384 [0x61, 0x62, 0x63]).getLast?) = (some 0xCB, some 0xA7) := by decide +kernel

/-- A READ of 0x1000:01 in session 3 with sequence number 2: the bytes that R393 and R394 give; its check agrees. -/
theorem test_dxp_bytes :
    let b := requestBytes 0x10 ⟨[], 0, true, 0x0100, 0, 3, 2, 0, [⟨0x1000, 1, 0, 0, 0, []⟩]⟩
    b.take 28 = [0x44, 0x58, 0x00, 0x01, 0x10, 0x00, 0x03, 0x00, 0x02, 0, 0, 0, 0x01, 0x00, 0, 0, 0x00, 0x10, 0x01, 0, 0, 0, 0, 0, 0, 0, 0, 0] ∧
      datagramGood b 12 = true := by decide +kernel

/-- The example of R432: serial lane 2 of port L11 receives on K18 and L18, and column 20 is ground. -/
theorem test_signal_array :
    (pinAt .k 18, pinAt .l 18, pinAt .k 20, pinAt .l 20, pinAt .g 54, pinAt .b 58) =
      (.llynca false 11 2 true, .llynca false 11 2 false, .ground, .ground, .sideband .mcRst, .pcie true 15 false) := by decide

/-! ### Witnesses: states and operands that meet the hypotheses of the obligations -/

theorem cfg_canonical : Safety.Canonical cfg := by unfold Safety.Canonical; decide
theorem cfg_open : Safety.RegistersOpen cfg := by unfold Safety.RegistersOpen Safety.WindowOpen; decide
theorem run_open : Safety.RegistersOpen run := by unfold Safety.RegistersOpen Safety.WindowOpen; decide

theorem witness_StepRunsTheFrontCommand : ({ cfg with pending := [.perstAssert, .perstDeassert] } : State).pending = .perstAssert :: [.perstDeassert] := rfl
theorem witness_EmptyQueueLetsOneTickPass : cfg.pending = [] := rfl
theorem witness_EveryStepKeepsMemoriesCanonical :
    Safety.Canonical { cfg with pending := [.perstAssert] } ∧ ∃ t, step { cfg with pending := [.perstAssert] } = .next t :=
  ⟨cfg_canonical, _, rfl⟩
theorem witness_CommandsLeaveTheQueueAlone : ∃ t, exec .perstAssert cfg = .next t := ⟨_, rfl⟩

/-- A ready entry of each kind of command, at the head of its queue, also with an error found on the way. -/
def ready (k : Nat) (p : Param) : Prop :=
  Safety.Ready (resident (entry (cmd k p) .waiting 0)) 0 0 (entry (cmd k p) .waiting 0) ∧ (entry (cmd k p) .waiting 0).plainIssue = true ∧
    Safety.Ready ((resident (entry (cmd k p) .waiting 0)).tellFound 0 3 [(0, .uncorrectable)]) 0 0 (entry (cmd k p) .waiting 0)

theorem witness_ready_block : ready 1 (.block 0) := by unfold ready Safety.Ready; decide
theorem witness_ready_broadcast : ready 2 (exch 1) ∧ ((cmd 2 (exch 1)).exchRec.map ExchRec.role) = some 1 := by unfold ready Safety.Ready; decide
theorem witness_ready_dispatch : ready 2 (exch 2) ∧ ((cmd 2 (exch 2)).exchRec.map ExchRec.role) = some 2 := by unfold ready Safety.Ready; decide
theorem witness_ready_combine : ready 2 (exch 3) ∧ ((cmd 2 (exch 3)).exchRec.map ExchRec.role) = some 3 := by unfold ready Safety.Ready; decide
theorem witness_ready_collectives :
    ready 3 (coll opAllReduce) ∧ ready 3 (coll opReduceScatter) ∧ ready 3 (coll opAllGather) ∧ ready 3 (coll opBroadcast) ∧
      ready 3 (coll opAllToAll) ∧ ready 3 (coll opBarrier) ∧
      ([opAllReduce, opReduceScatter, opAllGather, opBroadcast, opAllToAll, opBarrier].map (fun o => ((cmd 3 (coll o)).collRec.map CollRec.op))) =
        [some opAllReduce, some opReduceScatter, some opAllGather, some opBroadcast, some opAllToAll, some opBarrier] := by
  unfold ready Safety.Ready; decide
theorem witness_ready_copies :
    ready 4 (copy 1) ∧ ready 4 (copy 2) ∧ ready 4 (copy 3) ∧ ready 4 (copy 4) ∧
      ([1, 2, 3, 4].map (fun o => (cmd 4 (copy o)).copyRec.map CopyRec.op)) = [some 1, some 2, some 3, some 4] := by
  unfold ready Safety.Ready; decide
theorem witness_ready_fetch : ready 5 (.fetch ⟨0, 0, 0, 0⟩) ∧ (cmd 5 (.fetch ⟨0, 0, 0, 0⟩)).fetchRec.isSome = true := by
  unfold ready Safety.Ready; decide
theorem witness_ready_commit : ready 6 .none := by unfold ready Safety.Ready; decide

theorem witness_LaunchTickIssuesADueEntry :
    let u := ((resident timed).advance 5).tellFound 0 (((resident timed).advance 5).issueReader 0 0) []
    Safety.Ready u 0 0 timed ∧ bit timed.entry.flags 0 = true ∧ timed.phase = .waiting ∧ ((u.startRun 0 0 timed).run 0 0).isSome = true := by
  unfold Safety.Ready; decide +kernel
theorem witness_IssueSetsTheRunGoing : (resident timed).run 0 0 = some timed := by decide

/-- A FETCH at its commit point, and a repair of it. -/
def atCommit : Run := entry (cmd 5 (.fetch ⟨0, 0, 0, 0⟩)) .atCommit 0
theorem witness_CommitPointCommitsAFinishedCommand :
    let repair : Run := { atCommit with repairOf := some (0, 4, 0) }
    let u := (resident atCommit).tellFound 0 3 [(0, .uncorrectable)]
    u.run 0 0 = some atCommit ∧ atCommit.cmd.kind ≠ 6 ∧ atCommit.phase = .atCommit ∧ atCommit.hard = false ∧
      u.missedBudget atCommit = none ∧ u.ringRoom 0 = true ∧ u.generationHolds atCommit = false ∧
      u.lostOutputs atCommit = [] ∧ u.pinHolds atCommit = false ∧
      (resident repair).run 0 0 = some repair ∧ repair.repairOf.isSome = true ∧ (resident repair).missedBudget repair = none ∧
      (resident repair).lostOutputs repair = [] ∧ (resident repair).pinHolds repair = false := by decide +kernel
theorem witness_CompletionRecordsAdvanceHeadAndQueue :
    Safety.Canonical (cfg.setReg (Key.completionBase 3) 65536) ∧ (cfg.setReg (Key.completionBase 3) 65536).force (Key.completionBase 3) ≠ 0 ∧
      (cfg.setReg (Key.completionBase 3) 65536).force (Key.completionBase 3) + 65536 ≤ 0xC000000000 := by
  unfold Safety.Canonical; decide
theorem witness_StepBoundaryRowsEndTheStep :
    let r := entry (cmd 6 .none) .running 0
    let s := (resident r).modCtx 0 (fun x => { x with committing := some 0 })
    let u := s.tellFound 0 3 [(0, .corrected 1)]
    s.run 0 0 = some r ∧ r.cmd.kind = 6 ∧ r.running = true ∧ s.missedBudget r = none ∧ s.boundaryReady 0 0 = true ∧
      (s.ctx 0).committing = some (0 : Fin 8).val ∧ u.run 0 0 = some r ∧ u.missedBudget r = none ∧ u.boundaryReady 0 0 = true := by
  decide +kernel
theorem witness_DoorbellsAreTakenOrIgnored :
    let s := (resident timed).setReg (Key.queueDepth 0) 64
    s.hostLink = true ∧ s.image = some (img [timed.cmd] []) ∧ (7 : Fin 8).val < (img [timed.cmd] []).header.queues ∧
      s.holds 0 = true ∧ s.holds 1 = false ∧ s.force (Key.queueDepth 0) = 64 ∧
      (64 + 2 ^ 32 - (s.queue 0 0).tail) % 2 ^ 32 < 2 ^ 31 ∧ (64 + 2 ^ 32 - s.reg (Key.queueHead 0 0)) % 2 ^ 32 ≤ 64 ∧
      64 < (65 + 2 ^ 32 - s.reg (Key.queueHead 0 0)) % 2 ^ 32 ∧ 2 ^ 31 ≤ (2 ^ 32 - 1 + 2 ^ 32 - (s.queue 0 0).tail) % 2 ^ 32 ∧
      s.reg (Key.queueRefused 0) + 1 < dictModulus (Key.queueRefused 0) := by decide
theorem witness_BudgetExpiryRaisesDeadlineMiss :
    let r := entry (cmd 5 (.fetch ⟨0, 0, 0, 0⟩)) .running 0
    let h := { entry (cmd 5 (.fetch ⟨0, 0, 0, 0⟩)) .waiting 0 with budgetFrom := some 0 }
    let b := { entry (cmd 1 (.block 0)) .running 0 with tiles := [tileAt 0] }
    r.running = true ∧ ((resident r).advance 101).run 0 0 = some r ∧ ((resident r).advance 101).overCommandBudget r = true ∧
      ((resident r).advance 100).run 0 0 = some r ∧ ((resident r).advance 100).overCommandBudget r = false ∧
      h.budgetFrom.isSome = true ∧ ((resident h).advance 101).run 0 0 = some h ∧ ((resident h).advance 101).overCommandBudget h = true ∧
      b.running = true ∧ (resident b).run 0 0 = some b ∧ (resident b).overBlockBudget b = true ∧ (resident r).overBlockBudget r = false := by
  decide +kernel
theorem witness_TeardownCompletesIntoFaultedOrAbsent :
    let s (code : Nat) := (cfg.setReg (Key.ctxState 1) cxTearing).modCtx 1 (fun x => { x with teardown := some code })
    Safety.Canonical (s 0xFF) ∧ ((s 0xFF).ctx 1).teardown = some 0xFF ∧ (s 0xFF).cstate 1 = cxTearing ∧
      ((s 0x22).ctx 1).teardown = some 0x22 ∧ (s 0x22).cstate 1 = cxTearing := by unfold Safety.Canonical; decide
theorem witness_activation_of_a_staged_version :
    let r := { entry (cmd 5 (.fetch ⟨0, 0, 0, 0⟩)) .running 0 with staged := [(4, ⟨[2], none, 0, [], []⟩)] }
    let s := (resident r).modMem (fun m => { m with extents := [⟨2, 1, 1, .staged 0 0⟩] })
    let u := (s.readAt 0 (r.readerOf (2 * frameBytes)) (2 * frameBytes) .checkFail).2
    s.run 0 0 = some r ∧ r.running = true ∧ r.stagedHolds (2 * frameBytes) = true ∧
      (s.readAt 0 (r.readerOf (2 * frameBytes)) (2 * frameBytes) .checkFail).1 = .act ∧ bit r.cmd.flags 1 = false ∧
      r.reruns + 1 ≤ u.reg Key.rerunLimit ∧ r.cmd.kind ≠ 4 ∧ u.reg Key.rerunLimit < ({ r with reruns := 255 } : Run).reruns + 1 := by
  decide +kernel
theorem witness_activation_of_a_committed_version :
    let prod := cmd 5 (.fetch ⟨0, 0, 0, 0⟩)
    let v : Version := ⟨[2], some (0, 0), 0, [], []⟩
    let r := entry prod .running 0
    let s := ((resident r).modMem (fun m => { m with
      extents := [⟨2, 1, 1, .object 0 4⟩], objects := [⟨0, 4, .hot, some v, none, none, .hot, 0, 0, false⟩] }))
    let s := { s with image := some (img [prod] [⟨65536, 0, 1, 0, 0, 0, 0, 1, 3, 0, 2⟩]) }
    let u := (s.readAt 0 (r.readerOf (2 * frameBytes)) (2 * frameBytes) .checkFail).2
    let x : Run := { r with repairOf := some (9, 4, 0) }
    s.run 0 0 = some r ∧ (s.inputVersion 0 0).any (fun v => v.holds (2 * frameBytes)) = true ∧ r.stagedHolds (2 * frameBytes) = false ∧
      (s.readAt 0 (r.readerOf (2 * frameBytes)) (2 * frameBytes) .checkFail).1 = .act ∧ r.repairOf = none ∧ u.producerOf 0 0 = some (0, 0) ∧
      u.command? 0 = some prod ∧ prod.isCrew = false ∧ x.repairOf.isSome = true ∧ x.stagedHolds (2 * frameBytes) = false := by
  decide +kernel

theorem witness_TileSequencersResumeAfterWaits :
    let t (w : Option WaitPoint) (stalled : Bool) : TileRun :=
      { tileAt 2 with cycles := 0, waiting := w.map (fun w => (w, 0, 0)), stalled := stalled }
    let s (w : Option WaitPoint) (stalled : Bool) := resident { entry (cmd 1 (.block 0)) .running 0 with tiles := [t w stalled] }
    let on (x : State) (w : Option WaitPoint) (stalled : Bool) : Bool := (x.tileOf 0 0 2).any (fun y => y.2 == t w stalled)
    let met := WaitPoint.counter 1 0
    let unmet := WaitPoint.counter 1 1
    let u := ((s (some met) false).advance 3).tellFound 0 0 [(0, .uncorrectable)]
    on u (some met) false = true ∧ u.pointMet 0 0 met = true ∧
      on ((s (some (.farStream 2)) false).advance 3) (some (.farStream 2)) false = true ∧ on ((s none false).advance 3) none false = true ∧
      on ((s none true).tellFound 0 0 []) none true = true ∧
      (let v := ((s (some unmet) false).setReg Key.featherEnable 1).advance 100000
       on v (some unmet) false = true ∧ v.pointMet 0 0 unmet = false ∧ v.force Key.featherEnable = 1 ∧
         v.force Key.featherIdleMin ≤ (v.now - 0) * cclkPerTick) ∧
      (let v := (s (some unmet) false).setReg Key.featherEnable 1
       on v (some unmet) false = true ∧ ((v.advance 1).now - 0) * cclkPerTick < (v.advance 1).force Key.featherIdleMin) := by decide +kernel
theorem witness_NarrowingKeepsOrLimitsTheSum :
    let a (x : Int) : Acc := ⟨x, false, false, false⟩
    (a (2 ^ 47 - 1)).sum ≤ 2 ^ 47 - 1 ∧ (2 ^ 47 - 1 : Int) < (a (2 ^ 47)).sum ∧ (a (-(2 ^ 47))).sum < -(2 ^ 47 - 1 : Int) := by decide
theorem witness_AccumulationDoesNotDependOnOrder : ([.fin true 3 2, .nan] : List FVal).Perm [.nan, .fin true 3 2] := List.Perm.swap _ _ _
theorem witness_HostCannotReachRemoteAddresses : cfg.hostLink = true ∧ 0x8000000000000 ≤ 0x8000000000000 ∧ 0 < 1 ∧ [(0 : Byte)] ≠ [] ∧
    cfg.reg Key.mfHostRefused + 1 < dictModulus Key.mfHostRefused := by decide
theorem witness_HostAccessesOfUnpopulatedAddressesAreCounted :
    cfg.hostLink = true ∧ cfg.reg Key.hostUnmappedCount + 1 < dictModulus Key.hostUnmappedCount ∧
      regionOf 0x7FFFFFFFFFFFF = .unpopulated ∧ regionOf 0xC000000000 = .unpopulated ∧ regionOf 0x30005FFFFFF = .hub ∧
      regionOf 0x30006000000 = .unpopulated := by decide
theorem witness_HostWritesAreReadBack :
    let s := cfg.modMem (fun m => { m with poison := [0], upsets := [(0xC000000000 - 512, .uncorrectable)] })
    Safety.Canonical s ∧ s.hostLink = true ∧ [(5 : Byte)] ≠ [] ∧ (0xC000000000 - 1) + [(5 : Byte)].length ≤ 0xC000000000 ∧
      (∀ x ∈ s.mem.poison ++ s.mem.upsets.map Prod.fst,
        x / 256 * 256 + 256 ≤ 0xC000000000 - 1 ∨ 0xC000000000 - 1 + [(5 : Byte)].length ≤ x / 256 * 256) ∧
      (∀ i, i < [(5 : Byte)].length → s.stagedAddr (0xC000000000 - 1 + i) = false ∧ s.tableOffset (0xC000000000 - 1 + i) = none) := by
  unfold Safety.Canonical; decide +kernel

/-- A block running on the near tile of stacks 6 and 7, which has a segment left. -/
def blockState : State :=
  let t : TileRun := { tileAt 3 with cycles := 0, todo := [⟨⟨1, .once, 0, [], none⟩, 0, none, none⟩] }
  (resident { entry (cmd 1 (.block 0)) .running 0 with tiles := [t] }).setReg Key.refreshDoubled 0x80
theorem witness_quiet_slots :
    let v := (cfg.setReg Key.scrubEnable 0)
    (cfg.advance 1).hubUp = true ∧ (cfg.advance 1).tileStreams ((7 : Fin 8).val / 2) = false ∧
      ((State.reset.advance 1).hubUp = false ∨ (State.reset.advance 1).tileStreams ((7 : Fin 8).val / 2) = true) ∧
      v.force Key.scrubEnable = 0 ∧ (v.setReg Key.refreshDoubled 0x80).force Key.scrubEnable = 0 := by decide +kernel
theorem witness_forced_refresh :
    let s := blockState.modStack 7 (fun x => { x with sinceSlot := forcedAfter })
    let u := s.advance 0
    u.image.isSome = true ∧ u.tileRuns ((7 : Fin 8).val / 2) = true ∧ forcedAfter ≤ u.mem.chan[(7 : Fin 8)].sinceSlot ∧
      u.reg Key.forcedRefreshCount + 1 < dictModulus Key.forcedRefreshCount ∧ (cfg.advance 1).tileRuns ((7 : Fin 8).val / 2) = false ∧
      (blockState.advance 0).mem.chan[(7 : Fin 8)].sinceSlot < forcedAfter := by decide +kernel
theorem witness_refresh_doubled_clear :
    let w := blockState.modStack 7 (fun x => { x with coolSince := some 0 })
    Safety.Canonical w ∧ (w.advance 100000000).mem.chan[(7 : Fin 8)].coolSince = some 0 ∧ 0 + 100000000 ≤ (w.advance 100000000).now ∧
      bit ((w.advance 100000000).reg Key.refreshDoubled) (7 : Fin 8) = true ∧ (w.advance 100000000).reg Key.refreshDoubled < 2 ^ 8 := by
  unfold Safety.Canonical; decide +kernel
theorem witness_ScrubAndErrorRatesAdvance :
    let s := cfg.modMem (fun m => { m with scrubFix := [192] })
    cfg.hubUp = true ∧ cfg.force Key.scrubEnable ≠ 0 ∧ 255 < 256 ∧ 0 = cfg.scrubNext 255 (sparseGet cfg.mem.scrub 255 0) (cfg.mem.extents.length + 1) ∧
      0 + 1 < scrubEnd ∧ cfg.suspects (fun u _ => u / 256 * 256 == addrOfChannel 255 (0 * 256)) = [] ∧ 256 ≤ 511 ∧ s.hubUp = true ∧
      s.mem.scrubFix.contains 192 = true ∧ s.mem.scrubFix.contains 128 = false := by decide +kernel

/-- An expert object that is WARM. -/
def expertObj : ObjRec := ⟨65536, 0, 0, 0, 0, 0, 0, 1, 3, 0, 2⟩
theorem witness_plans_and_moves :
    let p : Plan := ⟨0, false, [], [], []⟩
    let m (k : Nat) : Move := ⟨k, 4, 4, .hot, 0, false, false, [], none, []⟩
    let s (k : Nat) := run.modMem (fun x => { x with plans := [p], moves := [m k] })
    (s 0).mem.plans.find? (fun p => !p.computed) = some p ∧ run.mem.plans.find? (fun p => !p.computed) = none ∧
      (s 0).mem.moves.find? (fun m => m.handle == 4 && m.owner == 4 && !m.done) = some (m 0) ∧ (s 0).codecBusy 3 = false ∧
      (s 1).mem.moves.find? (fun m => m.handle == 4 && m.owner == 4 && !m.done) = some (m 1) ∧ (s 1).codecBusy 4 = false ∧
      (s 0).hubUp = true ∧ 1 ≠ (s 0).reg Key.planDigest ∧
      (s 0).reg Key.placeDigestMismatch + 1 < dictModulus Key.placeDigestMismatch := by decide +kernel
theorem witness_staging_hint :
    let i : ObjInst := ⟨0, 4, .warm, none, some ⟨0, .warm, [], [65792], [0], [], 0, none⟩, none, .warm, 0, 0, false⟩
    let o := { expertObj with flags := 1, layer := 3, expert := 2 }
    let s := { run with image := some (img [] [o]), mem := { run.mem with objects := [i] } }
    s.hubUp = true ∧ s.expertHandle 3 2 = some 0 ∧ s.objRec 0 = some o ∧
      s.mem.objects.find? (fun i => i.handle == 0 && i.owner == 4) = some i ∧ i.hot = none ∧ i.low.isSome = true ∧
      (∀ c : Fin 4, (s.ctx c).begun.contains 3 = false) ∧ s.promoting 0 4 = false ∧ s.mem.stagings.any (fun g => g.handle == 0) = false := by
  decide +kernel
theorem witness_CodecTilesAreDelivered :
    let g : Staging := ⟨5, 0, 0, 3, 0, 0, [0, 1], [0], [7], false, [], 0⟩
    let s := { run with image := some (img [] [expertObj]), mem := { run.mem with stagings := [g] } }
    (s.mem.stagings.filter (fun g => g.handle == 0 && g.tiles.contains 1 && !g.done.contains 1)).find? (fun g => g.user != 2) = some g ∧
      s.objRec 0 = some expertObj ∧ s.codecEarlier g = false ∧ s.tilePoisoned 0 (s.ownerOf 0 g.ctx) 1 = false ∧
      (∀ (c : Fin 4) (q : Fin 8), g.ctx = c.val → g.queue = q.val → s.run c q = none) ∧
      s.reg Key.tcCheckFail + 1 < dictModulus Key.tcCheckFail := by decide +kernel

/-- A routing layer over crew 0, and a state in which context 0 runs a DISPATCH of it. -/
def layerRec : LayerRec := ⟨0, 2, 1, 8, 16, 0, 0, 0, 0, 0, 0, 0, 0, 0, 0, 0, 0, 8, 64, 0, 0, 0, 0⟩
def exchState : State :=
  let s := resident (entry (cmd 2 (exch 2)) .running 0)
  { s with image := some { img [cmd 2 (exch 2), cmd 2 (exch 3)] [] with layers := [layerRec] } }
theorem witness_deliveries :
    let t := exchState.modCtx 0 (fun x => { x with landed := [(dtag, 9, 0), (dtag, 9, 1), (dtag, 9, 2), (dtag, 9, 23)] })
    ctxIndex? dtag.ctx = some 0 ∧ exchState.holds 0 = true ∧ exchState.hasLanded 0 dtag 9 0 = false ∧
      (exchState.tagRec dtag).map ExchRec.role = some 2 ∧ [3] ≠ [] ∧ exchState.hasLanded 0 dtag 9 (if false then 2 else 1) = false ∧
      exchState.hasLanded 0 dtag 9 (if true then 2 else 1) = false ∧ t.holds 0 = true ∧ t.hasLanded 0 dtag 9 0 = true ∧
      t.hasLanded 0 dtag 9 (if false then 2 else 1) = true ∧ t.hasLanded 0 dtag 9 (if true then 2 else 1) = true ∧
      t.hasLanded 0 dtag 9 (3 + 4 * 5) = true ∧ exchState.returnMatches 0 dtag 0 9 5 = false ∧ cfg.holds 0 = false := by decide +kernel
theorem witness_return_arrival :
    let tag : DelivTag := ⟨0, 0, 1, 1, exchState.selfIndex 0, 0⟩
    let s := exchState.modCtx 0 (fun x => { x with xeQueue := [⟨9, 5, 0, 1, 1, 0, 0, exchState.selfIndex 0, 1, 0⟩] })
    ctxIndex? tag.ctx = some 0 ∧ s.holds 0 = true ∧ s.hasLanded 0 tag 9 (3 + 4 * 5) = false ∧ s.returnMatches 0 tag 0 9 5 = true ∧
      (s.combineRec 0).isSome = true := by decide +kernel
theorem witness_MirrorsFillTheOlderSlot :
    let s := (((cfg.setReg (Key.mirrorBase 2) 131072).setReg (Key.mirrorSlotSize 2) 65)).modMem (fun m => { m with
      poison := [0], upsets := [(131072 - 256, .uncorrectable)] })
    let a := s.force (Key.mirrorBase 2) + (s.ctx 2).mirrorNext % 2 * s.force (Key.mirrorSlotSize 2)
    Safety.Canonical s ∧ s.hubUp = true ∧ s.force (Key.mirrorBase 2) ≠ 0 ∧ 64 + [(1 : Byte)].length ≤ s.force (Key.mirrorSlotSize 2) ∧
      a + s.force (Key.mirrorSlotSize 2) ≤ 0xC000000000 ∧
      (∀ x ∈ s.mem.poison ++ s.mem.upsets.map Prod.fst, x / 256 * 256 + 256 ≤ a ∨ a + (64 + [(1 : Byte)].length) ≤ x / 256 * 256) ∧
      s.force (Key.mirrorSlotSize 2) < 64 + [(1 : Byte), 2].length ∧ cfg.force (Key.mirrorBase 2) = 0 := by
  unfold Safety.Canonical; decide +kernel
theorem witness_WaitingLandingsAreGrantedInOrder :
    let b : Buf := { buf with owner := 16, bytes := 4, complete := false }
    let w : PoolWait := ⟨3, 16, 2, 0, b, [(0, [1])]⟩
    let full := cfg.modPools (fun p => { p with waits := [w] })
    let free := full.modPools (fun p => { p with counts := List.replicate 16 20000, sizes := List.replicate 16 4096 })
    cfg.pools.waits.find? (fun w => w.pool == (3 : Fin 16).val) = none ∧
      full.pools.waits.find? (fun w => w.pool == (3 : Fin 16).val) = some w ∧ full.poolReserved w.owner (3 : Fin 16) = false ∧
      full.poolRoom (3 : Fin 16) = false ∧ ctxIndex? (w.owner / 8) = some 2 ∧
      free.pools.waits.find? (fun w => w.pool == (3 : Fin 16).val) = some w ∧ free.poolRoom (3 : Fin 16) = true := by decide +kernel

/-- A port in a state of training or UP. -/
def port (st : Nat) : State := cfg.setReg (Key.portState 15) st
theorem witness_PortTrainingAdvances :
    let fl : FlitIn := ⟨[(3, 255)], 68⟩
    let o : Caps := ⟨0x0100, 0, 0, 15, 4, 256⟩
    let u (s : State) := (s.setPortState 15 3).sendAwait 15 (.caps (s.ownCaps 15))
    Safety.Canonical (port 1) ∧ (port 1).reg (Key.portState 15) = 1 ∧ Safety.Canonical (port 2) ∧ (port 2).reg (Key.portState 15) = 2 ∧
      ((u (port 2)).port 15).capsSeen = none ∧ ((u ((port 2).modPort 15 (fun x => { x with capsSeen := some o }))).port 15).capsSeen = some o ∧
      Safety.Canonical (port 3) ∧ ((port 3).rxLink 15 fl).reg (Key.portState 15) = 3 ∧ Safety.Canonical (port 4) ∧
      (port 4).reg (Key.portState 15) = 4 ∧ ((port 4).advance (60 * ms1)).reg (Key.portState 15) ∈ [1, 2, 3, 4] ∧
      (((port 4).advance (60 * ms1)).port 15).started + 60 * ms1 ≤ ((port 4).advance (60 * ms1)).now ∧
      Safety.Canonical (port 7) ∧ ((port 7).advance ms1).reg (Key.portState 15) = 7 ∧
      (((port 7).advance ms1).port 15).stateSince + ms1 ≤ ((port 7).advance ms1).now := by unfold Safety.Canonical; decide +kernel

/-- A port in UP that carries tag 8, closes it, and is asked for tag 7. -/
def linked : State :=
  let x : TagState := ⟨7, true, true, false, none, false, false⟩
  let y : TagState := ⟨8, false, true, true, some 0, false, false⟩
  ((port 5).setReg (Key.portFeatures 15) 8).modPort 15 (fun p => { p with
    tags := [x, y], resync := 2, probeSeq := 1, await := [⟨.resync, 0⟩] })
theorem witness_link_messages :
    let u := linked.rxLink 15 ⟨[(3, 255)], 68⟩
    u.portUp (15 : Fin 16) = true ∧ u.tagOf 15 9 = none ∧ (u.tagOf 15 8).any (fun y => y.handshake.isSome) = true ∧
      (u.tagOf 15 7).any (fun x => x.asked && x.handshake.isNone) = true ∧ bit (u.port 15).resync 1 = true ∧ u.feature (15 : Fin 16) 3 = true ∧
      1 ≤ ((u.port 15).probeSeq + 2 ^ 32 - 0 % 2 ^ 32) % 2 ^ 32 ∧ ((u.port 15).probeSeq + 2 ^ 32 - 0 % 2 ^ 32) % 2 ^ 32 ≤ 64 ∧
      1 ≤ ((u.port 15).probeSeq + 2 ^ 32 - (2 ^ 32 - 63) % 2 ^ 32) % 2 ^ 32 ∧
      ((u.port 15).probeSeq + 2 ^ 32 - (2 ^ 32 - 63) % 2 ^ 32) % 2 ^ 32 ≤ 64 := by decide +kernel
theorem witness_link_timers :
    let u := linked.advance (100 * ms1)
    u.portUp (15 : Fin 16) = true ∧ u.feature (15 : Fin 16) 3 = true ∧ (u.port 15).lastProbe + 100 * ms1 ≤ u.now ∧
      (linked.advance 1).now < ((linked.advance 1).port 15).lastProbe + 100 * ms1 ∧
      (u.tagOf 15 8).bind TagState.handshake = some 0 ∧ 0 + us200 ≤ u.now ∧ (linked.advance 1).now < 0 + us200 ∧
      ((linked.advance 1).tagOf 15 8).bind TagState.handshake = some 0 := by decide +kernel

/-- A port in UP on which a packet arrives. -/
def arrivingPort : State :=
  (port 5).modPort 15 (fun p => { p with inPacket := some ⟨pkt, 5, [], false, false⟩, freed := List.replicate 16 0 })
theorem witness_LinkErrorsAreHandled :
    let fl : FlitIn := ⟨[(3, 255)], 68⟩
    let v := (port 5).noteCrc 15 17
    let w := arrivingPort.noteCrc 15 1
    (port 5).portUp (15 : Fin 16) = true ∧ arrivingPort.portUp (15 : Fin 16) = true ∧ v.reg (Key.portCrcDownThreshold 15) < v.recentCrc 15 ∧
      w.recentCrc 15 ≤ w.reg (Key.portCrcDownThreshold 15) ∧ (w.arriving 15).isSome = true ∧ flitBody ≠ flitIdle ∧ flitBody ≠ flitLink ∧
      (((port 5).takeIn 15 fl).bump (Key.portFlitsRx 15) 1).inProgress 15 = false ∧
      ((arrivingPort.takeIn 15 fl).bump (Key.portFlitsRx 15) 1).arriving 15 = some ⟨pkt, 5, [], false, false⟩ ∧
      ((port 5).takeIn 15 fl).inProgress 15 = false ∧ (arrivingPort.takeIn 15 fl).inProgress 15 = true ∧
      (arrivingPort.takeIn 15 fl).arriving 15 = some ⟨pkt, 5, [], false, false⟩ ∧ ¬ (pkt.tag = 2 ∧ pkt.tc = 1 ∧ pkt.vc = 0) := by
  decide +kernel
theorem witness_silence_end :
    let s := ((port 6).setReg (Key.portEnable 15) 1).setReg (Key.portRole 15) 4
    let s := s.modPort 15 (fun p => { p with silentSince := some 0, wanted := true })
    let w := s.advance ms1
    let u := w.modPort 15 (fun x => { x with silentSince := none, wanted := false })
    (w.port 15).silentSince = some 0 ∧ 0 + ms1 ≤ w.now ∧
      ((w.port 15).wanted || (w.reg (Key.portState 15) == 6 && w.reg (Key.portAutoRetrain 15) == 1)) = true ∧
      u.portUsable (15 : Fin 16) = true ∧ (s.advance 1).now < 0 + ms1 ∧
      (let z := (((port 6).setReg (Key.portAutoRetrain 15) 0).modPort 15 (fun p => { p with silentSince := some 0 })).advance ms1
       (z.port 15).silentSince = some 0 ∧ 0 + ms1 ≤ z.now ∧
         ((z.port 15).wanted || (z.reg (Key.portState 15) == 6 && z.reg (Key.portAutoRetrain 15) == 1)) = false) := by decide +kernel
theorem witness_PacketsAreAdmittedByTag :
    let fl : FlitIn := ⟨[(3, 255)], 68⟩
    let s := ((port 5).setReg Key.partitionTag 7).modPort 15 (fun p => { p with
      tags := [⟨7, true, true, true, none, true, false⟩, ⟨9, false, true, true, none, false, false⟩] })
    let v (k : Packet) : State :=
      let u := (s.takeIn 15 fl).bump (Key.portFlitsRx 15) (packetFlits k)
      u.modPort 15 (fun x => { x with
        used := listSet x.used (vcIndex k.tc k.vc) (x.used.getD (vcIndex k.tc k.vc) 0 + packetFlits k)
        inPacket := some ⟨k, u.now + (packetFlits k * u.flitTime 15 + 159) / 160, [], false, false⟩ })
    s.portUp (15 : Fin 16) = true ∧ (v { pkt with tag := 8 }).ingressOk 15 8 = false ∧ (v { pkt with tag := 9 }).ingressOk 15 9 = true ∧
      9 ≠ (v { pkt with tag := 9 }).reg Key.partitionTag ∧ (v { pkt with tag := 7 }).ingressOk 15 7 = true ∧
      7 = (v { pkt with tag := 7 }).reg Key.partitionTag ∧ pkt.mode = 0 ∧ pkt.dsts.head? = some (⟨0, 0⟩, 0) ∧ s.hubUp = true ∧ 6 ≤ 6 ∧
      (1 ≤ 1 ∧ (portDim 8).1 = 1) := by decide +kernel
theorem witness_StreamsAcceptEachNumberOnce :
    let x : Stream := ⟨⟨0, 0⟩, 1, 65535, 2 ^ 30⟩
    x.next < 2 ^ 16 ∧ x.bitmap < 2 ^ 31 ∧ (x.take 65535).1.isSome = true ∧ (x.take 1).1.isSome = true := by decide
theorem witness_NetworkInterfaceTakesAndRetries :
    let t : Txn := ⟨4, 0, 1, [(⟨9, 0⟩, 6)], 0, 0, .response, none, 0, false, false, .skip⟩
    let u : Txn := { t with id := 5, tc := 3 }
    let z : Txn := { t with attempt := 255 }
    let k : Packet := { pkt with tc := 4, src := ⟨9, 0⟩, dsts := [(cfg.ownAddr, 2)] }
    let s := cfg.modFab (fun f => { f with txns := [t, u] })
    let w := s.advance 1000000
    isRequest k.body = false ∧ isRequest ({ k with body := .signal 0 1 } : Packet).body = true ∧
      s.hubUp = true ∧ k.dsts.find? (fun d => d.1 == s.ownAddr) = some (cfg.ownAddr, 2) ∧ ((s.recvStream k.src k.tc).take 2).1.isSome = true ∧
      ((s.recvStream k.src k.tc).take 65000).1 = none ∧
      s.fab.txns.filter (fun t => t.tc == 1 && t.left.any (fun d => d.1 == ⟨9, 0⟩ && ackCovers 7 0 d.2)) = [t] ∧
      w.fab.txns.find? (fun t => t.id == 4) = some t ∧ t.left ≠ [] ∧ t.sentAt + w.reg Key.niRetryTimer ≤ w.now ∧
      t.attempt < w.reg Key.niRetryLimit ∧ w.fab.txns.find? (fun t => t.id == 5) = some u ∧ w.isOldest u = true ∧
      (let y := (cfg.modFab (fun f => { f with txns := [z] })).advance 1000000
       y.fab.txns.find? (fun t => t.id == 4) = some z ∧ y.reg Key.niRetryLimit ≤ z.attempt ∧ z.sentAt + y.reg Key.niRetryTimer ≤ y.now) := by
  decide +kernel

/-- A module of partition 7 that watches one address and has declared another lost. -/
def watching : State :=
  (run.setReg Key.partitionTag 7).modFab (fun f => { f with
    watch := [⟨9, 0⟩], heard := [(⟨9, 0⟩, 0)], declared := [(⟨8, 0⟩, 0, 0)], seen := [(0, ⟨8, 0⟩, 2)], failed := [⟨7, 0⟩], noticed := [⟨7, 0⟩] })
theorem witness_heartbeats :
    let iv := watching.reg Key.hbInterval
    let w := watching.advance iv
    w.reg Key.partitionTag ≠ 0 ∧ w.time.gcRunning = true ∧ watching.tick < w.tick / w.reg Key.hbInterval * w.reg Key.hbInterval ∧ iv ≠ 0 ∧
      watching.tick % watching.reg Key.hbInterval = 0 ∧ ¬ watching.tick < (watching.advance 1).tick / (watching.advance 1).reg Key.hbInterval *
        (watching.advance 1).reg Key.hbInterval ∧
      watching.fab.watch.contains ⟨9, 0⟩ = true ∧ watching.fab.watch.contains ⟨8, 0⟩ = false ∧
      (let v := watching.advance 1
       v.fab.heard.find? (fun h => h.1 == ⟨9, 0⟩) = some (⟨9, 0⟩, 0) ∧ v.fab.watch.contains ⟨9, 0⟩ = true ∧
         v.tick < 0 + v.reg Key.hbInterval * v.reg Key.hbMissLimit) ∧
      (let v := watching.advance (iv * 8)
       v.fab.heard.find? (fun h => h.1 == ⟨9, 0⟩) = some (⟨9, 0⟩, 0) ∧ v.fab.watch.contains ⟨9, 0⟩ = true ∧
         0 + v.reg Key.hbInterval * v.reg Key.hbMissLimit ≤ v.tick) := by decide +kernel
theorem witness_lost_members :
    let w := watching.advance us2
    w.fab.declared.find? (fun d => d.1 == ⟨8, 0⟩) = some (⟨8, 0⟩, 0, 0) ∧ 0 + us2 ≤ w.now ∧ (watching.advance 1).now < 0 + us2 ∧
      (watching.advance 1).fab.declared.find? (fun d => d.1 == ⟨8, 0⟩) = some (⟨8, 0⟩, 0, 0) ∧
      watching.fab.seen.contains (0, ⟨8, 0⟩, 2) = true ∧ watching.hubUp = true ∧ watching.fab.seen.contains (0, ⟨9, 0⟩, 1) = false ∧
      (let v (a : Addr) : State :=
         (watching.modFab (fun f => { f with seen := f.seen ++ [(0, a, 1)] })).sendLine 1 (.memberLost a 1 0)
       (v ⟨9, 0⟩).fab.noticed.contains ⟨9, 0⟩ = false ∧ (v ⟨7, 0⟩).fab.noticed.contains ⟨7, 0⟩ = true) := by decide +kernel
theorem witness_AtomicUpdatesCommute :
    (atomicNew 1 4 (2 ^ 32 - 1) 1 0, atomicNew 4 8 5 6 0, atomicNew 5 8 5 6 0) = (some 0, some 6, some 6) := by decide

/-- A context that exports handle 0 at offset 0, its version HOT in frame 2. -/
def exported : State :=
  let i : ObjInst := ⟨0, 4, .hot, some ⟨[2], none, 0, [], []⟩, none, none, .hot, 0, 0, false⟩
  let s := resident (entry (cmd 6 .none) .running 0)
  ({ s with image := some (img [cmd 6 .none] [expertObj]), mem := { s.mem with objects := [i] } }).modCtx 0 (fun x => { x with exports := [(0, 0, 0)] })
theorem witness_RemoteRequestsAreApplied :
    let src : Addr := ⟨9, 0⟩
    let held := exported.modFab (fun f => { f with held := [(src, 0, 0, .skip)] })
    let u := exported.tellFound noCtx 5 [(0, .uncorrectable)]
    let v : Version := ⟨[2], none, 0, [], []⟩
    exported.hubUp = true ∧ (held.tellFound noCtx 5 []).fab.held.any (fun z => z.1 == src) = true ∧ u.fab.held.any (fun z => z.1 == src) = false ∧
      u.exportAt 65536 1 = none ∧ u.exportAt 65528 8 = some (0, 0, 65528) ∧ u.objRec 0 = some expertObj ∧ u.exportVersion 0 0 = some v ∧
      (u.segmentRead expertObj v 65528 8).1.1 = .ok ∧
      (atomicNew 1 8 (leNat ((u.segmentRead expertObj v 65528 8).2.segmentBytes expertObj v 65528 8)) 1 0).isSome = true ∧
      held.fab.held.any (fun z => z.1 == src) = true ∧ exported.fab.held.any (fun z => z.1 == src) = false ∧ ctxIndex? 0 = some 0 ∧
      exported.holds 0 = true ∧ 0 < exported.counter 0 1 + 1 ∧ sparseWf (fun _ => 0) (exported.ctx 0).counters = true := by decide +kernel
theorem witness_RemoteResponsesAreTaken :
    let t : Txn := ⟨4, 0, 1, [], 0, 0, .response, some (0, ⟨9, 0⟩), 0, false, false, .load 0 4⟩
    let s := cfg.modFab (fun f => { f with txns := [t] })
    (s.advance 0).fab.txns.find? (fun t => t.id == 4 && awaitsResponse t.body && !t.abandoned) = some t ∧ t.acked = some (0, ⟨9, 0⟩) ∧
      (s.advance 0).now < 0 + (s.advance 0).reg Key.mfResponseTimer ∧
      (s.advance 100000000).fab.txns.find? (fun t => t.id == 4 && awaitsResponse t.body && !t.abandoned) = some t ∧
      0 + (s.advance 100000000).reg Key.mfResponseTimer ≤ (s.advance 100000000).now := by decide +kernel

theorem witness_CrewPacketsReachTheirRun :
    crewState.restoreFor 0 5 = none ∧ crewState.helpedOf 0 5 = none ∧
      (crewState.crewRun 0).map (fun x => (x.2.2.2.inst, x.2.2.2.attempt, x.2.2.1.phase, x.2.2.2.sig)) = some (5, 1, .running, 9) ∧
      instLater 6 5 = true ∧ instLater 4 5 = false ∧ 0 < 1 ∧ 1 ≤ 2 ∧ cfg.crewRun 0 = none ∧ cfg.restoreFor 0 5 = none ∧
      cfg.helpedOf 0 5 = none ∧ crewState.reg Key.rdeAdditions + 1 < dictModulus Key.rdeAdditions := by decide +kernel
theorem witness_strokes_add :
    let s := crewState.setReg (Key.crewSelfIndex 0) 0
    (s.run 0 0).bind (fun r => (r.cmd.collRec.bind (s.collJob r.cmd)).map (fun j =>
      ((s.strokeAdds (some j) crewAt 0 0 1 0 [⟨1, 0⟩] []).2, (s.strokeAdds (some j) crewAt 0 0 1 0 [⟨1, 0⟩] [(0, 0)]).2,
        j.adds 0 0, crewAt.expects 0 0 1 0, j.bf16))) = some (false, true, true, true, false) := by decide +kernel
theorem witness_CrewTimersAct :
    let k := { crewAt with stroke := 1 }
    let r := { entry (cmd 3 (coll opAllReduce)) .running 0 with crew := some k }
    let ab : AbortRun := ⟨0x22, 0, 0, false⟩
    let x := { r with abort := some ab }
    let y := { r with abort := some { ab with decided := true } }
    let u := (resident r).advance 100
    let held (n : Nat) := (((resident y).modFab (fun f => { f with failed := [⟨1, 0⟩] })).advance n).releaseReruns
    r.crew = some k ∧ u.run 0 0 = some r ∧ u.ckpt.restore = none ∧ r.xch = none ∧ r.phase = .running ∧ u.strokeExpired r.cmd.target k = true ∧
      ((resident r).advance 99).strokeExpired r.cmd.target k = false ∧ ((resident r).advance 99).run 0 0 = some r ∧
      ((resident x).advance 1000000).run 0 0 = some x ∧
      ((resident x).advance 1000000).force Key.abortSettle ≤ ((resident x).advance 1000000).now - ab.since ∧
      ((resident x).advance 0).run 0 0 = some x ∧ ((resident x).advance 0).now - ab.since < ((resident x).advance 0).force Key.abortSettle ∧
      (held 1000000000).run 0 0 = some y ∧ 0 + (held 1000000000).force Key.takeoverWait ≤ (held 1000000000).now ∧
      (held 1).run 0 0 = some y ∧ (held 1).now < 0 + (held 1).force Key.takeoverWait := by decide +kernel
theorem witness_TimingRowsAct :
    let s := ((resident timed).setReg Key.rampLead 10).setReg Key.ptmEnable 1
    let u := s.advance 1
    let w := s.advance 1000000000
    cfg.hostLink = true ∧ ((cfg.setReg Key.ptmEnable 0).advance 1).force Key.ptmEnable = 0 ∧ w.hostLink = true ∧ w.force Key.ptmEnable = 1 ∧
      w.time.lastPtm + w.force Key.ptmInterval * 100000 ≤ w.now ∧
      u.run 0 0 = some timed ∧ bit timed.entry.flags 0 = true ∧ timed.phase = .waiting ∧ u.tick < timed.entry.launch ∧
      timed.entry.launch ≤ u.tick + u.force Key.rampLead ∧ u.time.ramp = none ∧
      u.time.ramped.contains (queueNo 0 0, (u.queue 0 0).next) = false ∧ u.emergency = false ∧
      ((s.modTime (fun t => { t with ramp := some 1 })).advance 1).time.ramp = some 1 ∧
      1 ≤ ((s.modTime (fun t => { t with ramp := some 1 })).advance 1).tick ∧
      ((s.modTime (fun t => { t with ramp := some 1 })).advance 0).tick < 1 ∧ cfg.time.gcRunning = true ∧ cfg.mstate ≠ stSafe ∧
      cfg.start.stage = none := by decide +kernel

/-- Member 2 of a coded group of ranks 0 to 7 at coordinates 0 to 7. -/
def grouped : State :=
  let s := (run.setReg Key.codedGroupIndex 2).modCoded (fun c => { c with groupRanks := List.range 8 })
  s.setBulk Key.rankTable 0 ((List.range 8).flatMap (fun i => leBytes 4 (i + 2 ^ 31)))
theorem witness_coded_messages :
    let d : Delta := ⟨1, 1, 0, 0, 256, []⟩
    grouped.groupIndex ≠ 0xFF ∧ rowOf 1 grouped.groupIndex = some 1 ∧ 0 < 6 ∧ grouped.indexOfAddr ⟨dataIndex 1 0, 0⟩ = dataIndex 1 0 ∧
      grouped.coded.staging = [] ∧ grouped.deltaStale d = false ∧
      (let u := grouped.modCoded (fun c => { c with staging := [d] }); u.unitLost true (parityUnitOf u.groupIndex 1) = false) ∧
      4 ≠ none32 ∧ (grouped.setReg Key.codedOpenGen 4).reg Key.codedOpenGen = 4 ∧ grouped.reg Key.codedOpenGen ≠ 4 ∧ 7 < 8 ∧
      7 ≠ grouped.groupIndex ∧ bit 3 2 = false ∧ (grouped.noteCount 7 1).reg Key.codedState ≠ cdRebuilding ∧
      (grouped.modCoded (fun c => { c with lossSince := [(0, 0)] })).coded.lossSince ≠ [] ∧ cfg.groupIndex = 0xFF ∧
      cfg.reg Key.codedState ≠ cdRebuilding := by decide +kernel
theorem witness_coded_report_wait :
    let s := (grouped.setReg Key.codedGroupIndex 0).modCoded (fun c => { c with lossSince := [(1, 0)] })
    let u := s.advance 100000000
    u.groupIndex ≠ 0xFF ∧ u.coordinator = u.groupIndex ∧ 7 < 8 ∧ 7 ≠ u.groupIndex ∧ u.groupLost 7 = false ∧
      u.coded.reports.any (fun r => r.1 == 7) = false ∧
      u.coded.lossSince.any (fun x => decide (x.2 + u.force Key.codedReportWait ≤ u.now)) = true ∧ u.groupAddr 7 = some ⟨7, 0⟩ := by decide +kernel
theorem witness_DecodesAndTakeoversProceed :
    let a : Addr := ⟨9, 0⟩
    let s := grouped.modFab (fun f => { f with seen := [(2 + 5, a, 0)] })
    let d : Decode := ⟨3, 1, 0, 0, [], 0⟩
    let e : Decode := ⟨4, 2, 2, 1, [], 0⟩
    let t := grouped.modCoded (fun c => { c with decodes := [d, e] })
    s.fab.seen.contains (2 + 5, a, 0) = true ∧ s.hubUp = true ∧ s.fab.seen.contains (2 + 5, a, 1) = false ∧
      (grouped.setReg Key.codedState cdRebuilding).reg Key.codedState = cdRebuilding ∧
      (grouped.setReg Key.codedState cdRebuilding).reg Key.codedResumeGen = none32 ∧
      grouped.reg Key.codedState ≠ cdRebuilding ∧ grouped.groupIndex ≠ 0xFF ∧ 7 ≠ grouped.groupIndex ∧ grouped.stripeLost 1 = false ∧
      grouped.stripePoisoned 1 = false ∧ 4 < 5 ∧ 5 ≤ 5 ∧ t.coded.decodes.find? (fun d => d.req == 3 && d.stripe == 1 && d.purpose == 0) = some d ∧
      t.coded.decodes.any (fun d => d.req == 4 && d.stripe == 2 && d.purpose == 1) = true ∧
      t.coded.decodes.any (fun d => d.req == 4 && d.stripe == 3 && d.purpose == 1) = false ∧ 2 = t.groupIndex := by decide +kernel
theorem witness_frame_filled : frameBytes ≤ (([] : List Byte) ++ List.replicate 65536 0).length := by
  rw [List.length_append, List.length_replicate]; decide

theorem witness_CheckpointRequestsAndWritesProceed :
    let k : CkptRun := ⟨0, 0, 0, 0, 0, [], [], [], [], false, [], []⟩
    let s := (run.modCkpt (fun x => { x with run := some k, seen := [(1, 2, 0)] })).setReg Key.ckptState 2
    let u := cfg.advance secondTicks
    s.ckpt.seen.contains (1, 2, 0) = true ∧ s.hubUp = true ∧ s.ckpt.seen.contains (1, 2, 1) = false ∧ s.ckpt.run = some k ∧ k.toRead = [] ∧
      s.reg Key.ckptState = 2 ∧ cfg.ckpt.run = none ∧ (s.bump Key.flashProgramFails 1).ckpt.run.isSome = true ∧
      s.reg Key.flashSpareBlocks = 0 ∧ 0 < (s.setReg Key.flashSpareBlocks 8).reg Key.flashSpareBlocks ∧ (s.setReg Key.flashSpareBlocks 8).hubUp = true ∧
      (cfg.advance 5).now < (cfg.advance 5).ckpt.ewChecked + secondTicks ∧ u.hubUp = true ∧ u.ckpt.ewChecked + secondTicks ≤ u.now ∧
      (u.modCkpt (fun k => { k with ewChecked := u.now })).warnings = [] := by decide +kernel
theorem witness_early_warning :
    let u := ((cfg.setReg Key.ckptEwEnable 1).setReg (Key.portCrcRate 3) (2 ^ 32 - 1)).advance secondTicks
    let v := u.modCkpt (fun k => { k with ewChecked := u.now })
    let w := v.ewSettle v.warnings.isEmpty
    v.warnings ≠ [] ∧ w.reg Key.ckptEwEnable = 1 ∧ w.reg Key.ckptPhase = 0 ∧ w.ckpt.ewLast = none := by decide +kernel
theorem witness_transfers :
    let c : CrewRun := { crewAt with crew := none32 }
    let r : RestoreRun := ⟨none32, c, none, some 0, false, []⟩
    let s := ((run.modCkpt (fun x => { x with xfer := some (1, 0, 0, 4, 64), restore := some r })).setReg Key.ckptReplicaIndex 1).setReg Key.flashState 1
    let d := run.modCkpt (fun x => { x with restore := some { r with step := none } })
    s.ckpt.xfer = some (1, 0, 0, 4, 64) ∧ cfg.ckpt.xfer = none ∧ s.ckpt.restore = some r ∧ 0 = s.force Key.ckptShardId ∧
      s.force Key.ckptReplicaIndex ≠ 0 ∧ 15 < 16 ∧ r.step = some 0 ∧ r.got.any (fun g => g.1 == 3 && (g.2.1 == 15 || g.2.1 == tileDone)) = false ∧
      d.ckpt.restore = some { r with step := none } ∧ ({ r with step := none } : RestoreRun).step = none ∧
      cfg.ckpt.restore = none ∧ (cfg.setReg Key.flashState 1).flashAttached = true ∧ (cfg.setReg Key.flashState 1).ckpt.run = none ∧
      (cfg.setReg Key.flashState 1).ckpt.xfer = none ∧ cfg.flashAttached = false := by decide +kernel
/-- A module whose slot A holds a valid shard of step 0 without tiles, FULL as written, and a restore of it. -/
def restoring (magic : List Byte) (crc : Nat) : State :=
  let r : RestoreRun := ⟨none32, { crewAt with crew := none32 }, none, some 0, false, []⟩
  (run.modCkpt (fun x => { x with restore := some r })).modMem (fun x => { x with
    flash := cellWrite [(6, 1)] run.recordOff (magic ++ List.replicate 8 0 ++ leBytes 4 crc) })
set_option maxRecDepth 1000000 in
theorem witness_restore_completes :
    let s := restoring (leBytes 4 recordMagic) 2183589236
    s.restoreTake.ckpt.restore.isSome = true ∧ s.restoreTake.restoreSlot 0 = some 0 ∧ s.slotNat 0 6 1 = 1 ∧
      (s.restoreTake.putShard 0 (s.restoreTake.slotNat 0 0xA8 8) 0).2 = none := by decide +kernel
theorem witness_download :
    let u := ((run.modCkpt (fun k => { k with xfer := none })).setReg Key.ckptXferStatus 2).setReg Key.ckptXferBytes 1
    ((u.slotWrite 0 0 [7]).noteSlots).slotValid 0 = false := by decide +kernel

theorem witness_WindowWritesAreCheckedAndApplied :
    (dictEntry? Key.eventAck).map (fun e => (e.access, e.type.scalar, decide (e.type = .u64))) = some (.rw, true, false) ∧
      cfg.romStage = false ∧ wordAddr Key.eventAck < 0xB00000 ∧ 0x1000 ≤ Key.eventAck / 256 ∧ Key.eventAck % 256 < 64 ∧
      cfg.checkScalar Key.eventAck (2 ^ 32 - 1) = stOk ∧ cfg.checkScalar Key.moduleState 1 ≠ stOk ∧
      (dictEntry? Key.moduleState).map (fun e => (e.access, e.type.scalar, decide (e.type = .u64))) = some (.ro, true, false) ∧
      wordAddr Key.moduleState < 0xB00000 ∧ cfg.reg Key.writeRefusedCount + 1 < dictModulus Key.writeRefusedCount := by decide
theorem witness_HalvesOfWideEntriesAreOneAccess :
    (dictEntry? Key.hostTimeWrite).map DictEntry.type = some .u64 ∧ 0x1000 ≤ Key.hostTimeWrite / 256 ∧
      wordAddr Key.hostTimeWrite + 4 < 0xB00000 ∧ 0 < Key.hostTimeWrite % 256 ∧ Key.hostTimeWrite % 256 < 63 ∧
      badAccess 0xFFFFFC = false ∧ (dictEntry? 0x311006).map DictEntry.type = some .u64 ∧ dictEntry? (0x311006 + 1) = none ∧
      wordAddr 0x311006 + 4 < 0xB00000 := by decide
theorem witness_BulkValuesAreSelectedStagedAndCommitted :
    let s := (cfg.selectBulk (Key.quoteNonce * 256)).modAcc (fun a => { a with
      bulk := some ⟨Key.quoteNonce, List.replicate 32 0, List.replicate 32 1⟩ })
    let u := (cfg.selectBulk (Key.quoteNonce * 256)).modAcc (fun a => { a with
      bulk := some ⟨Key.quoteNonce, List.replicate 32 0, List.replicate 32 2⟩ })
    let e := (dictEntry? Key.quoteNonce).getD subZero
    dictEntry? Key.quoteNonce = some e ∧ Key.quoteNonce < 2 ^ 24 ∧ e.type.scalar = false ∧ e.bytes = 32 ∧ s.acc.bulk.isSome = true ∧
        0xFFFFC % 4 = 0 ∧ 0xFFFFC < 0x100000 ∧ cfg.acc.bulk = none ∧
        s.checkBulk Key.quoteNonce (List.replicate 32 1) = stOk ∧ s.readBytes Key.quoteNonce e = List.replicate 32 0 ∧
        (s.setBulk Key.quoteNonce 31 [9]).readBytes Key.quoteNonce e ≠ List.replicate 32 0 ∧ s.checkBulk Key.quoteNonce [] ≠ stOk ∧
        u.checkBulk Key.quoteNonce (List.replicate 32 2) = stOk ∧ u.readBytes Key.quoteNonce e = cfg.readBytes Key.quoteNonce e := by
  decide +kernel
theorem witness_ContextRegisterRowsAct : 15 < 16 ∧ 0 ≤ cfg.reg (Key.completionHead 3) ∧ 2 ^ 32 - 1 < 2 ^ 32 := by decide
theorem witness_ModuleRegisterRowsAct : 1 ≤ 0xFFE ∧ 600 ≤ 1800 ∧ cfg.mstate = stConfig ∧ run.mstate ≠ stConfig := by decide
theorem witness_StateRequestsMoveBetweenConfigAndRun :
    let busy (s : State) : Bool := s.loading.isSome || s.ckpt.run.isSome || s.ckpt.xfer.isSome || s.ckpt.restore.isSome
    let m := cfg.setReg Key.configCrcState crcMatch
    m.reg Key.configCrcState = crcMatch ∧ m.mstate = stConfig ∧ Safety.Canonical m ∧
      (cfg.setReg Key.configCrcState crcStale).reg Key.configCrcState ≠ crcMatch ∧
      (run.setReg Key.configCrcState crcMatch).reg Key.configCrcState = crcMatch ∧ (resident timed).anyResident = true ∧
      (resident timed).started = true ∧ run.mstate = stRun ∧ run.anyResident = false ∧ busy run = false ∧
      busy { run with loading := some 0 } = true ∧ cfg.anyResident = false ∧ busy cfg = false := by unfold Safety.Canonical; decide
theorem witness_configuration_pass :
    cfg.started = true ∧ cfg.romStage = false ∧ cfg.power.aux = true ∧ cfg.acc.crcPassArmed = false ∧
      (cfg.setReg Key.configCrcState crcStale).reg Key.configCrcState = crcStale ∧
      (cfg.setReg Key.configCrcState crcMatch).reg Key.configCrcState ≠ crcStale ∧
      (cfg.modAcc (fun a => { a with crcPassArmed := true, crcRef := some 5 })).crcReference = 5 ∧ cfg.mstate = stConfig ∧
      State.reset.started = false ∧ (cfg.setReg Key.moduleState stSafe).romStage = false ∧ (cfg.setReg Key.moduleState stSafe).mstate ≠ stConfig ∧
      (cfg.setReg Key.moduleState stSafe).mstate ≠ stRun := by decide
/-- The reference that a pass of this state finds, and one that it does not. -/
theorem witness_configuration_reference (s : State) :
    ((s.modAcc (fun a => { a with crcPassArmed := true, crcRef := some s.configCrcNow })).crcReference = s.configCrcNow) ∧
      (s.modAcc (fun a => { a with crcPassArmed := true, crcRef := some (s.configCrcNow + 1) })).crcReference ≠ s.configCrcNow := by
  constructor
  · rfl
  · exact Nat.succ_ne_self _
theorem witness_configuration_grace :
    let s := (run.setReg Key.configCrcState crcStale).modAcc (fun a => { a with staleSince := some 0 })
    let u := s.advance 100000000
    u.acc.staleSince = some 0 ∧ u.mstate = stRun ∧ u.reg Key.configCrcState = crcStale ∧ u.acc.crcArmed = false ∧
      u.acc.crcPassArmed = false ∧ 0 + u.reg Key.configCrcGrace * 100000 ≤ u.now ∧
      (s.advance 1).now < 0 + (s.advance 1).reg Key.configCrcGrace * 100000 ∧ (cfg.advance 1).acc.staleSince = none := by decide +kernel
theorem witness_DxpRequestsAreServedOnceAndAnswered :
    let d : Dgram := ⟨List.replicate 16 0, 20610, true, cfg.reg Key.dxpVersion, 0, 7, 4, 0, []⟩
    let a : Answer := ⟨0x20, 7, 4, 0, 0, false, []⟩
    let x (q : Nat) : Session := ⟨7, true, q, some a, 0, none⟩
    let s (q : Nat) := cfg.modAcc (fun y => { y with sessions := [x q] })
    let u := (s 3).advance (30 * secondTicks)
    cfg.dxpServed d = true ∧ d.good = true ∧ cfg.dxpAdmits d.src = true ∧ d.version / 256 = cfg.reg Key.dxpVersion / 256 ∧
      cfg.acc.sessions.length < 8 ∧ 2 ^ 15 / 256 ≠ cfg.reg Key.dxpVersion / 256 ∧ (s 3).session? d.session = some (x 3) ∧
      d.seq = ((x 3).seq + 1) % 2 ^ 32 ∧ (s 4).session? d.session = some (x 4) ∧ d.seq = (x 4).seq ∧ d.seq ≠ ((x 4).seq + 1) % 2 ^ 32 ∧
      (x 4).last = some a ∧ cfg.session? d.session = none ∧ cfg.dxpServed { d with good := false } = true ∧ requestSize d ≤ datagramMax ∧
      datagramMax < requestSize { d with ops := List.replicate 102 ⟨0, 0, 0, 0, 0, []⟩ } ∧
      u.session? 7 = some (x 3) ∧ (x 3).idleSince + u.reg Key.dxpSessionTimeout * secondTicks ≤ u.now ∧
      ((s 3).advance 1).session? 7 = some (x 3) ∧
      ((s 3).advance 1).now < (x 3).idleSince + ((s 3).advance 1).reg Key.dxpSessionTimeout * secondTicks ∧
      (cfg.modPower (fun p => { p with quoteNonces := [List.replicate 32 0] })).power.quoteNonces = [List.replicate 32 0] := by decide +kernel
theorem witness_TemperaturesThrottleAndShutDown :
    let s := (run.setReg Key.thermalState 1).modPower (fun p => { p with coolSince := some 0 })
    let r := run.sample 0 200000
    run.power.aux = true ∧ r.emergencyLimit 0 ≤ 200000 ∧ r.emergency = false ∧ r.power.railsOn = true ∧ r.mstate ≠ stSafe ∧
      0 < (run.sample 0 0).emergencyLimit 0 ∧ r.shutdownLimit 0 ≤ 200000 ∧ r.start.stage = none ∧ 0 < (run.sample 0 0).shutdownLimit 0 ∧
      ((run.modStart (fun x => { x with stage := some 5 })).sample 0 200000).start.stage = some 5 ∧
      (run.modPower (fun p => { p with aux := false })).power.aux = false ∧
      (s.advance 1000000).power.coolSince = some 0 ∧ (s.advance 1000000).emergency = true ∧ 0 + 1000000 ≤ (s.advance 1000000).now ∧
      (s.advance 999999).now < 0 + 1000000 ∧ (s.advance 999999).power.coolSince = some 0 ∧ (run.advance 1).power.coolSince = none ∧
      (s.advance 24).emergency = true ∧ (s.advance 24).issueWindow = true ∧ (s.advance 25).issueWindow = false ∧
      (run.advance 1).emergency = false := by decide +kernel
theorem witness_supplies :
    let off := State.reset.modPower (fun p => { p with aux := false })
    let st (n : Nat) := State.reset.modStart (fun x => { x with stage := some n })
    off.power.aux = false ∧ 2999 < 3000 ∧ State.reset.power.aux = true ∧ State.reset.power.input = false ∧ (st 1).start.abandoned = false ∧
      (st 1).start.stage = some 1 ∧ (st 1).start.againSince = none ∧
      (State.reset.modStart (fun x => { x with abandoned := true })).start.abandoned = true ∧ (cfg.advance 2000).power.aux = true ∧
      43999 < 44000 ∧ 58000 < 58001 ∧ 60000 ≤ 60000 ∧ 2899 < 2900 ∧ 3800 < 3801 ∧ 4000 ≤ 4000 ∧ (cfg.advance 1000).power.aux = true ∧
      999 < 1000 ∧ (st 7).power.perst = true ∧ (st 7).start.stage = some 7 ∧ Safety.WindowOpen cfg ∧ cfg.start.stage ≠ some 0 ∧
      cfg.romStage = false ∧ 1 ≤ cfg.reg Key.compatLevelMax := by unfold Safety.WindowOpen; decide
theorem witness_stages :
    let u := State.reset.advance (msTicks 400)
    let one := ((State.reset.modStart (fun x => { x with stage := some 1 })).modPower (fun p => { p with input := true })).advance (msTicks 400)
    let ag := (cfg.modStart (fun x => { x with againSince := some 0 })).advance 1000000
    State.reset.power.aux = true ∧ u.start.stage = some 0 ∧ u.stageWaits 0 = false ∧ u.stageLate 0 = false ∧ u.stageReady 0 [] = true ∧
      (State.reset.advance (msTicks 401)).start.stage = some 0 ∧ (State.reset.advance (msTicks 401)).stageWaits 0 = false ∧
      (State.reset.advance (msTicks 401)).stageLate 0 = true ∧ ([(3, 1)] : List (Nat × Nat)) ≠ [] ∧
      u.start.stageSince + msTicks (stageBudget 0) ≤ u.now ∧ one.start.stage = some 1 ∧ one.stageWaits 1 = false ∧ one.stageLate 1 = false ∧
      one.stageReady 1 [] = false ∧ one.power.aux = true ∧ ag.start.againSince = some 0 ∧ 0 + 1000000 ≤ ag.now ∧ ag.power.input = true := by
  decide +kernel
theorem witness_FaultEventsArePendingUntilAcknowledged :
    let s := cfg.setReg Key.eventLogHead 0xFFFFFFFF
    Safety.Canonical s ∧ s.reg Key.eventLogHead < 2 ^ 32 ∧ s.reg (Key.ctxFaultPending 3) < 2 ^ 32 ∧
      bit (s.reg (Key.ctxFaultPending 3)) (faultBit 0x90) = false ∧ (∀ x ∈ s.faultSeq, x.1 ≠ (3 : Fin 4).val) := by
  unfold Safety.Canonical; decide
theorem witness_CandidateListsAreTheFirstInKeyOrder : (([⟨5, 5, 3, 0⟩, ⟨5, 5, 1, 0⟩] : List Cand).map Cand.expert).Nodup := by decide
theorem witness_ReferencesFreeABufferOnce :
    let b : Buf := { buf with pool := 15, index := 2, refs := 2 }
    let s := cfg.modPools (fun p => { p with bufs := [b] })
    s.pools.bufs.find? (fun b => b.pool == (15 : Fin 16).val && b.index == 2) = some b ∧ 1 < b.refs ∧ b.refs < 3 ∧
      s.reg (Key.poolDoubleFreeCount (15 : Fin 16)) + 1 < dictModulus (Key.poolDoubleFreeCount (15 : Fin 16)) := by decide

end Sys2Proof.Tests
end

section
/-! SUPPORT. The proofs of the program model (spec/02): what changes of contexts, queues and memory leave, completion records, issue,
commit points and step boundaries, doorbells, budgets and activation errors. -/
namespace Sys2Proof.Machine
open Sys2Proof.Safety

/-! ### Contexts, queues and runs -/

@[simp] theorem ctx_modCtx_same (s : State) (c : Fin 4) (f : Ctx → Ctx) : (s.modCtx c f).ctx c = f (s.ctx c) := by
  simp [State.ctx, State.modCtx]

theorem ctx_modCtx_other (s : State) (c d : Fin 4) (f : Ctx → Ctx) (h : d ≠ c) : (s.modCtx c f).ctx d = s.ctx d := by
  have : c.val ≠ d.val := fun e => h (Fin.ext e.symm)
  simp [State.ctx, State.modCtx, this]

/-- A field of a context that a change leaves alone reads as before in every context. -/
theorem ctx_modCtx_field {β : Type} (s : State) (c d : Fin 4) (f : Ctx → Ctx) (g : Ctx → β) (h : ∀ x, g (f x) = g x) :
    g ((s.modCtx c f).ctx d) = g (s.ctx d) := by
  by_cases e : d = c
  · subst e; rw [ctx_modCtx_same, h]
  · rw [ctx_modCtx_other s c d f e]

@[simp] theorem queue_modQueue_same (s : State) (c : Fin 4) (q : Fin 8) (f : Queue → Queue) :
    (s.modQueue c q f).queue c q = f (s.queue c q) := by
  simp [State.queue, State.modQueue]

theorem queue_modQueue_other (s : State) (c d : Fin 4) (q n : Fin 8) (f : Queue → Queue) (h : (d, n) ≠ (c, q)) :
    (s.modQueue c q f).queue d n = s.queue d n := by
  unfold State.queue State.modQueue
  by_cases e : d = c
  · subst e
    have : q.val ≠ n.val := fun e => h (by rw [Fin.ext e])
    simp [this]
  · rw [ctx_modCtx_other s c d _ e]

@[simp] theorem run_setRun_same (s : State) (c : Fin 4) (q : Fin 8) (r : Option Run) : (s.setRun c q r).run c q = r := by
  simp [State.run, State.setRun]

theorem run_setRun_other (s : State) (c d : Fin 4) (q n : Fin 8) (r : Option Run) (h : (d, n) ≠ (c, q)) :
    (s.setRun c q r).run d n = s.run d n := by
  rw [State.run, State.setRun, queue_modQueue_other s c d q n _ h, State.run]

@[simp] theorem issued_setRun (s : State) (c d : Fin 4) (q : Fin 8) (r : Option Run) :
    ((s.setRun c q r).ctx d).issued = (s.ctx d).issued :=
  ctx_modCtx_field s c d _ Ctx.issued (fun _ => rfl)

/-! ### Writes through the memory controllers (R153, R159) -/

theorem onlyRegs_forEach_bump {β : Type} (l : List β) (key : β → Nat) (ks : List Nat) (s : State) (h : ∀ x ∈ l, key x ∈ ks) :
    OnlyRegs ks s (s.forEach l (fun s x => s.bump (key x) 1)) := by
  unfold State.forEach
  induction l generalizing s with
  | nil => exact onlyRegs_refl ks s
  | cons x l ih =>
    exact onlyRegs_trans (onlyRegs_bump s _ 1 ks (h x (by simp))) (ih _ fun y hy => h y (by simp [hy]))

/-- The read-modify-writes that a write to HBM counts, by stack (R153). -/
def State.countRmw (s : State) (a n : Nat) : State :=
  s.forEach (partialUnits a n) (fun s u => s.bump (Key.hbmRmwCount (stackOfAddr u)) 1)

/-- Counting read-modify-writes changes registers only. -/
theorem countRmw_cases (s : State) (a n : Nat) : ∃ R, s.countRmw a n = { s with regs := R } := by
  refine forEach_induct (fun t => ∃ R, t = { s with regs := R }) _ ?_ _ s ⟨_, rfl⟩
  rintro t u ⟨R, rfl⟩
  obtain e | ⟨v, e⟩ := bump_cases { s with regs := R } (Key.hbmRmwCount (stackOfAddr u)) 1 <;> exact ⟨_, e⟩

theorem canonical_countRmw (s : State) (a n : Nat) (h : Canonical s) : Canonical (s.countRmw a n) :=
  forEach_induct Canonical _ (fun t _ ht => canonical_bump t _ 1 ht) _ s h

/-- What a write to HBM can do: count read-modify-writes, store its bytes, and clear marks of the words written. -/
theorem busWrite_hbm (s : State) (a : Nat) (bs : List Byte) (h : regionOf a = .hbm) :
    ∃ m, s.busWrite a bs = { s.countRmw a bs.length with mem := m } ∧ m.cells = cellWrite s.mem.cells a bs ∧
      m.reserve = s.mem.reserve ∧ m.flash = s.mem.flash := by
  obtain ⟨R, e⟩ := countRmw_cases s a bs.length
  rw [State.busWrite, h]
  change ∃ m, State.memWrite ((((s.countRmw a bs.length).modMem _).clearPoison a bs.length).clearUpsets a bs.length) a bs = _ ∧ _
  rw [e]
  exact ⟨_, rfl, rfl, rfl, rfl⟩

/-- A write through the memory controllers changes counters and the memories, and nothing else. -/
theorem busWrite_cases (s : State) (a : Nat) (bs : List Byte) : ∃ R m, s.busWrite a bs = { s with regs := R, mem := m } := by
  cases h : regionOf a with
  | hbm =>
    obtain ⟨m, e, -⟩ := busWrite_hbm s a bs h
    obtain ⟨R, e'⟩ := countRmw_cases s a bs.length
    exact ⟨R, m, by rw [e, e']⟩
  | _ => rw [State.busWrite, h]; exact ⟨_, _, rfl⟩

@[simp] theorem State.busWrite_ctxs (s : State) (a : Nat) (bs : List Byte) : (s.busWrite a bs).ctxs = s.ctxs := by
  obtain ⟨R, m, e⟩ := busWrite_cases s a bs; rw [e]
@[simp] theorem State.busWrite_image (s : State) (a : Nat) (bs : List Byte) : (s.busWrite a bs).image = s.image := by
  obtain ⟨R, m, e⟩ := busWrite_cases s a bs; rw [e]
@[simp] theorem State.busWrite_ports (s : State) (a : Nat) (bs : List Byte) : (s.busWrite a bs).ports = s.ports := by
  obtain ⟨R, m, e⟩ := busWrite_cases s a bs; rw [e]
@[simp] theorem State.busWrite_time (s : State) (a : Nat) (bs : List Byte) : (s.busWrite a bs).time = s.time := by
  obtain ⟨R, m, e⟩ := busWrite_cases s a bs; rw [e]
@[simp] theorem State.busWrite_out (s : State) (a : Nat) (bs : List Byte) : (s.busWrite a bs).out = s.out := by
  obtain ⟨R, m, e⟩ := busWrite_cases s a bs; rw [e]

theorem regionOf_hbm {a : Nat} (h : a < 0xC000000000) : regionOf a = .hbm := by
  unfold regionOf
  rw [if_neg (by omega), if_pos h]

/-- The units a write covers in part begin before its end. -/
theorem partialUnits_lt {a n u : Nat} (h : u ∈ partialUnits a n) : u < a + n := by
  simp only [partialUnits, List.mem_filter, List.mem_map, List.mem_range] at h
  obtain ⟨⟨i, hi, rfl⟩, -⟩ := h
  omega

/-- A write within HBM counts in the read-modify-write entries of the eight stacks and in no other. -/
theorem onlyRegs_countRmw (s : State) (a n : Nat) (h : a + n ≤ 0xC000000000) :
    OnlyRegs ((List.range 8).map Key.hbmRmwCount) s (s.countRmw a n) := by
  refine onlyRegs_forEach_bump _ _ _ s fun u hu => ?_
  have hu := partialUnits_lt hu
  have hs : stackOfAddr u < 8 := by
    rw [stackOfAddr, Nat.div_lt_iff_lt_mul (by decide)]
    exact lt_of_lt_of_le hu h
  exact List.mem_map_of_mem (List.mem_range.mpr hs)

theorem canonical_busWrite_hbm (s : State) (a : Nat) (bs : List Byte) (h : Canonical s) (ha : regionOf a = .hbm) :
    Canonical (s.busWrite a bs) := by
  obtain ⟨m, e, hc, hr, hf⟩ := busWrite_hbm s a bs ha
  have hregs := (canonical_countRmw s a bs.length h).1
  obtain ⟨R, e'⟩ := countRmw_cases s a bs.length
  obtain ⟨-, hbulk, hcells, hres, hflash⟩ := h
  rw [e]
  rw [e'] at hregs ⊢
  exact ⟨hregs, hbulk, hc ▸ wf_cellWrite bs _ _ hcells, hr ▸ hres, hf ▸ hflash⟩

/-! ### Completion records (R29) -/

@[simp] theorem leBytes_length (n v : Nat) : (leBytes n v).length = n := by
  induction n generalizing v with
  | zero => rfl
  | succ n ih => simp [leBytes, ih]

theorem reg_advanceCount_same (s : State) (k : Nat) (h : Canonical s) (hk : dictModulus k = 2 ^ 32) :
    (s.advanceCount k).reg k = (s.reg k + 1) % 2 ^ 32 := by
  rw [State.advanceCount, reg_setReg_same _ _ _ h, hk, Nat.mod_mod]

theorem reg_advanceCount_other (s : State) (k j : Nat) (h : j ≠ k) : (s.advanceCount k).reg j = s.reg j :=
  reg_setReg_other s k _ j h

theorem canonical_advanceCount (s : State) (k : Nat) (h : Canonical s) : Canonical (s.advanceCount k) :=
  canonical_setReg s k _ h

theorem onlyRegs_advanceCount (s : State) (k : Nat) (ks : List Nat) (h : k ∈ ks) : OnlyRegs ks s (s.advanceCount k) :=
  onlyRegs_setReg s k _ ks h

theorem dictModulus_completionHead : ∀ c : Fin 4, dictModulus (Key.completionHead c) = 2 ^ 32 := by decide

theorem dictModulus_queueHead : ∀ (c : Fin 4) (q : Fin 8), dictModulus (Key.queueHead c q) = 2 ^ 32 := by decide

/-- The 16 bytes of a completion record in a slot of a pass (R29). -/
def recordBytes (r : Record) (phase : Nat) : List Byte :=
  leBytes 8 r.hostTag ++ leBytes 4 r.command ++ leBytes 1 r.status ++ leBytes 1 r.reruns ++ leBytes 2 phase

@[simp] theorem recordBytes_length (r : Record) (phase : Nat) : (recordBytes r phase).length = 16 := by simp [recordBytes]

/-- The slot of the ring that the next completion record of a context takes (R29). -/
def State.recordSlot (s : State) (c : Fin 4) : Nat := s.force (Key.completionBase c) + 16 * (s.reg (Key.completionHead c) % 4096)

/-- The phase that the slots of the present pass over the ring carry (R29). -/
def State.recordPhase (s : State) (c : Fin 4) : Nat := if s.reg (Key.completionHead c) / 4096 % 2 = 0 then 1 else 0

/-- A record is written to its slot and the interrupt raised (R29, R438). -/
def State.writeRecord (s : State) (c : Fin 4) (r : Record) : State :=
  (s.busWrite (s.recordSlot c) (recordBytes r (s.recordPhase c))).toHost (.msix c)

/-- With a ring, a record is written and both heads advance. -/
theorem postRecord_of_ring (s : State) (c : Fin 4) (r : Record) (h : s.force (Key.completionBase c) ≠ 0) :
    s.postRecord c r = ((s.writeRecord c r).advanceCount (Key.completionHead c)).advanceCount (Key.queueHead c r.queue) :=
  congrArg (fun t : State => (t.advanceCount (Key.completionHead c)).advanceCount (Key.queueHead c r.queue)) (if_neg h)

theorem recordSlot_end_le (s : State) (c : Fin 4) (h : s.force (Key.completionBase c) + 65536 ≤ 0xC000000000) :
    s.recordSlot c + 16 ≤ 0xC000000000 := by
  have := Nat.mod_lt (s.reg (Key.completionHead c)) (show 0 < 4096 by decide)
  unfold State.recordSlot
  omega

@[simp] theorem writeRecord_ctxs (s : State) (c : Fin 4) (r : Record) : (s.writeRecord c r).ctxs = s.ctxs :=
  State.busWrite_ctxs s _ _

theorem writeRecord_host (s : State) (c : Fin 4) (r : Record) : (s.writeRecord c r).out.host = s.out.host ++ [.msix c] :=
  congrArg (fun o : Outputs => o.host ++ [HostOut.msix c]) (State.busWrite_out s _ _)

section
variable (s : State) (c : Fin 4) (r : Record) (h : s.recordSlot c + 16 ≤ 0xC000000000)
include h

theorem writeRecord_cells :
    (s.writeRecord c r).mem.cells = cellWrite s.mem.cells (s.recordSlot c) (recordBytes r (s.recordPhase c)) := by
  obtain ⟨m, e, hc, -⟩ := busWrite_hbm s _ (recordBytes r (s.recordPhase c)) (regionOf_hbm (by omega : s.recordSlot c < _))
  exact (congrArg (fun x : State => x.mem.cells) e).trans hc

theorem onlyRegs_writeRecord : OnlyRegs ((List.range 8).map Key.hbmRmwCount) s (s.writeRecord c r) := by
  obtain ⟨m, e, -⟩ := busWrite_hbm s _ (recordBytes r (s.recordPhase c)) (regionOf_hbm (by omega : s.recordSlot c < _))
  intro k hk
  have hr := onlyRegs_countRmw s (s.recordSlot c) (recordBytes r (s.recordPhase c)).length (by simpa using h) k hk
  exact (congrArg (fun x : State => x.reg k) e).trans hr

theorem canonical_writeRecord (hs : Canonical s) : Canonical (s.writeRecord c r) :=
  canonical_congr rfl rfl rfl rfl rfl (canonical_busWrite_hbm s _ _ hs (regionOf_hbm (by omega)))

end

theorem completionHead_not_rmw : ∀ c : Fin 4, Key.completionHead c ∉ (List.range 8).map Key.hbmRmwCount := by decide

theorem queueHead_not_rmw : ∀ (c : Fin 4) (q : Fin 8), Key.queueHead c q ∉ (List.range 8).map Key.hbmRmwCount := by decide

theorem queueHead_ne_completionHead (c q : Nat) : Key.queueHead c q ≠ Key.completionHead c := by
  unfold Key.queueHead Key.completionHead
  omega

/-- Settles O12: the record is a write to HBM followed by the two counts, and neither count is an entry that the write changes. -/
theorem completionRecordsAdvanceHeadAndQueue : Obligations.CompletionRecordsAdvanceHeadAndQueue := by
  unfold Obligations.CompletionRecordsAdvanceHeadAndQueue
  intro s c q tag cmd status reruns hs hbase htop
  have hslot := recordSlot_end_le s c htop
  rw [postRecord_of_ring s c _ hbase]
  generalize hr : (⟨q, tag, cmd, status, reruns⟩ : Record) = r
  have hcells := writeRecord_cells s c r hslot
  have hregs := onlyRegs_writeRecord s c r hslot
  have hcan := canonical_writeRecord s c r hslot hs
  have hq : r.queue = q.val := by rw [← hr]
  have hne := queueHead_ne_completionHead c q
  rw [hq]
  refine ⟨?_, ?_, ?_, ?_, ?_, ?_, ?_⟩
  · have hread := cellBytes_cellWrite (recordBytes r (s.recordPhase c)) s.mem.cells (s.recordSlot c) hs.2.2.1
    rw [← hcells, recordBytes_length, ← hr] at hread
    rw [← hr]
    exact hread
  · intro b hb
    have hout := cellGet_cellWrite_outside (recordBytes r (s.recordPhase c)) s.mem.cells (s.recordSlot c) b
      (by rwa [recordBytes_length])
    rwa [← hcells] at hout
  · rw [reg_advanceCount_other _ _ _ hne.symm, reg_advanceCount_same _ _ hcan (dictModulus_completionHead c),
      hregs _ (completionHead_not_rmw c)]
  · rw [reg_advanceCount_same _ _ (canonical_advanceCount _ _ hcan) (dictModulus_queueHead c q),
      reg_advanceCount_other _ _ _ hne, hregs _ (queueHead_not_rmw c q)]
  · have hwrite : OnlyRegs (Key.completionHead c :: Key.queueHead c q :: (List.range 8).map Key.hbmRmwCount) s (s.writeRecord c r) :=
      onlyRegs_mono hregs fun k hk => List.mem_cons_of_mem _ (List.mem_cons_of_mem _ hk)
    have hhead := onlyRegs_trans hwrite (onlyRegs_advanceCount _ (Key.completionHead c) _ List.mem_cons_self)
    exact onlyRegs_trans hhead (onlyRegs_advanceCount _ (Key.queueHead c q) _ (List.mem_cons_of_mem _ List.mem_cons_self))
  · exact writeRecord_host s c r
  · exact writeRecord_ctxs s c r

/-! ### Issue (R27, R36, R38) -/

/-- The runs of every queue, the image, the ports and the clocks are as before, and `n` more commands have issued in a context. -/
structure KeepsRuns (c : Fin 4) (n : Nat) (s t : State) : Prop where
  queues : ∀ d, (t.ctx d).queues = (s.ctx d).queues
  issued : (t.ctx c).issued = (s.ctx c).issued + n
  image : t.image = s.image
  ports : t.ports = s.ports
  time : t.time = s.time

namespace KeepsRuns

variable {c : Fin 4} {s t u : State}

theorem of_ctxs (hc : t.ctxs = s.ctxs) (hi : t.image = s.image) (hp : t.ports = s.ports) (ht : t.time = s.time) :
    KeepsRuns c 0 s t :=
  ⟨fun d => congrArg (fun v => (v[d]).queues) hc, congrArg (fun v => (v[c]).issued) hc, hi, hp, ht⟩

theorem refl (s : State) : KeepsRuns c 0 s s := of_ctxs rfl rfl rfl rfl

theorem trans {m n : Nat} (h : KeepsRuns c m s t) (h' : KeepsRuns c n t u) : KeepsRuns c (m + n) s u where
  queues d := (h'.queues d).trans (h.queues d)
  issued := by rw [h'.issued, h.issued, Nat.add_assoc]
  image := h'.image.trans h.image
  ports := h'.ports.trans h.ports
  time := h'.time.trans h.time

theorem trans_zero {n : Nat} (h : KeepsRuns c 0 s t) (h' : KeepsRuns c n t u) : KeepsRuns c n s u := by
  simpa using h.trans h'

theorem run {n : Nat} (h : KeepsRuns c n s t) (d : Fin 4) (q : Fin 8) : t.run d q = s.run d q := by
  unfold State.run State.queue
  rw [h.queues]

theorem tick {n : Nat} (h : KeepsRuns c n s t) : t.tick = s.tick := congrArg Time.gcTicks h.time

theorem now {n : Nat} (h : KeepsRuns c n s t) : t.now = s.now := congrArg Time.now h.time

theorem bump (s : State) (k n : Nat) : KeepsRuns c 0 s (s.bump k n) := of_ctxs (by simp) (by simp) (by simp) (by simp)

theorem raise (s : State) (k v : Nat) : KeepsRuns c 0 s (s.raise k v) := of_ctxs (by simp) (by simp) (by simp) (by simp)

theorem busWrite (s : State) (a : Nat) (bs : List Byte) : KeepsRuns c 0 s (s.busWrite a bs) :=
  of_ctxs (by simp) (by simp) (by simp) (by simp)

/-- A change of a context that leaves its queues and its count of issued commands alone. -/
theorem modCtx (s : State) (d : Fin 4) (f : Ctx → Ctx) (hq : ∀ x, (f x).queues = x.queues) (hi : ∀ x, (f x).issued = x.issued) :
    KeepsRuns c 0 s (s.modCtx d f) :=
  ⟨fun e => ctx_modCtx_field s d e f Ctx.queues hq, ctx_modCtx_field s d c f Ctx.issued hi, rfl, rfl, rfl⟩

/-- A wait record is a write to memory; what it leaves open comes from the free values. -/
theorem writeWait (s : State) (d : Fin 4) (cmd start dur : Nat) (obj : Option Nat) (kind tile : Nat) (value : Option Nat) (seg : Nat) :
    KeepsRuns c 0 s (s.writeWait d cmd start dur obj kind tile value seg) := by
  unfold State.writeWait
  dsimp only
  split
  · exact refl s
  · refine trans_zero ?_ ((busWrite _ _ _).trans_zero (bump _ _ _))
    cases obj <;> cases value <;> exact of_ctxs rfl rfl rfl rfl

theorem closeStall (s : State) (d : Fin 4) (r : Run) : KeepsRuns c 0 s (s.closeStall d r) := by
  unfold State.closeStall
  split
  · exact refl s
  · dsimp only
    split
    · exact (writeWait ..).trans_zero (bump _ _ _)
    · exact writeWait ..

theorem atTickIssue (s : State) (d : Fin 4) (r : Run) : KeepsRuns c 0 s (s.atTickIssue d r) := by
  unfold State.atTickIssue
  dsimp only
  split
  · exact writeWait ..
  · have hlog (u : State) (v : Nat) : KeepsRuns c 0 u (u.log sevWarning d 0x0D r.entry.command Key.gcState v) :=
      of_ctxs (by simp) (by simp) (by simp) (by simp)
    exact (writeWait ..).trans_zero ((hlog _ _).trans_zero (modCtx _ _ _ (fun _ => rfl) (fun _ => rfl)))

theorem takeObject {o : ObjRec} {h : Holder} {fs : List Nat} (e : s.takeObject o h = some (fs, t)) : KeepsRuns c 0 s t := by
  unfold State.takeObject at e
  split at e
  · cases e
  · cases e
    exact of_ctxs (by simp) (by simp) (by simp) (by simp)

theorem stageOutputs (d : Fin 4) (q : Fin 8) (hs : List Nat) (s : State) : KeepsRuns c 0 s (s.stageOutputs d q hs).1 := by
  induction hs generalizing s with
  | nil => exact refl s
  | cons h hs ih =>
    unfold State.stageOutputs
    split
    · exact ih s
    · split
      · exact ih s
      · next e => exact (takeObject e).trans_zero (ih _)

theorem stageWorking (s : State) (d : Fin 4) (q : Fin 8) (cmd : Command) (l : List (Nat × Version)) :
    KeepsRuns c 0 s (s.stageWorking d q cmd l).1 := by
  unfold State.stageWorking
  split
  · exact refl s
  · split
    · exact refl s
    · exact of_ctxs rfl rfl rfl rfl

theorem noteHbm (s : State) (d : Fin 4) : KeepsRuns c 0 s (s.noteHbm d) :=
  trans_zero (t := s.setReg _ _) (of_ctxs rfl rfl rfl rfl) (raise _ _ _)

end KeepsRuns

/-- Ticks by which the first issue of an AT_TICK entry is late (R28). -/
def Run.lateness (r : Run) (s : State) : Nat := if r.phase == .waiting && bit r.entry.flags 0 then s.tick - r.entry.launch else 0

/-- The run as its issue leaves it, with the versions staged for it (R24, R36, R38). -/
def Run.atIssue (r : Run) (s : State) (c : Fin 4) (staged : List (Nat × Version)) : Run :=
  { r with
    phase := if r.repairOf.isSome then .repair else .running
    order := if r.phase == .waiting then (s.ctx c).issued else r.order
    issuedAt := if r.lateness s = 0 then r.budgetFrom.getD s.now else s.now
    timer := r.lateness s
    stall := none
    budgetFrom := none
    staged := staged
    reruns := if r.phase == .waiting ∨ r.repairOf.isSome then r.reruns else r.reruns + 1 }

/-- What an issue counts once the run stands in its queue (R27, R33, R359). -/
def State.countIssue (s : State) (c : Fin 4) (q : Fin 8) (r : Run) : State :=
  let s := if r.phase == .waiting then s.modCtx c (fun x => { x with issued := x.issued + 1 }) else s.bump Key.rerunCount 1
  let s := if r.cmd.kind = 6 then s.modCtx c (fun x => { x with committing := some q.val }) else s
  s.noteHbm c

/-- What an issue does before the run changes: the records of its waits, then its staging. -/
def State.prepareIssue (s : State) (c : Fin 4) (q : Fin 8) (r : Run) : State × List (Nat × Version) :=
  let s := s.closeStall c r
  let s := if r.phase == .waiting && bit r.entry.flags 0 then s.atTickIssue c r else s
  let st := s.stageOutputs c q r.cmd.usedOutputs
  st.1.stageWorking c q r.cmd st.2

/-- An issue in its three parts: what precedes the change of the run, the change, and what it counts. -/
theorem startRun_eq (s : State) (c : Fin 4) (q : Fin 8) (r : Run) :
    s.startRun c q r =
      ((s.prepareIssue c q r).1.setRun c q (some (r.atIssue (s.prepareIssue c q r).1 c (s.prepareIssue c q r).2))).countIssue c q r :=
  rfl

theorem KeepsRuns.prepareIssue (s : State) (c : Fin 4) (q : Fin 8) (r : Run) : KeepsRuns c 0 s (s.prepareIssue c q r).1 := by
  unfold State.prepareIssue
  dsimp only
  refine (closeStall s c r).trans_zero (trans_zero ?_ ((stageOutputs _ _ _ _).trans_zero (stageWorking _ _ _ _ _)))
  split
  · exact atTickIssue _ _ _
  · exact refl _

/-- Only the first issue of a command is counted as one (R27). -/
theorem KeepsRuns.countIssue (s : State) (c : Fin 4) (q : Fin 8) (r : Run) :
    KeepsRuns c (if r.phase = .waiting then 1 else 0) s (s.countIssue c q r) := by
  unfold State.countIssue
  dsimp only
  have hcount : KeepsRuns c (if r.phase = .waiting then 1 else 0) s
      (if r.phase == .waiting then s.modCtx c (fun x => { x with issued := x.issued + 1 }) else s.bump Key.rerunCount 1) := by
    by_cases h : r.phase = .waiting
    · rw [if_pos h, if_pos (by simp [h])]
      exact ⟨fun d => ctx_modCtx_field s c d _ Ctx.queues (fun _ => rfl), by simp, rfl, rfl, rfl⟩
    · rw [if_neg h, if_neg (by simp [h])]
      exact bump s _ _
  have hcommit (t : State) : KeepsRuns c 0 t (if r.cmd.kind = 6 then t.modCtx c (fun x => { x with committing := some q.val }) else t) := by
    split
    · exact modCtx _ _ _ (fun _ => rfl) (fun _ => rfl)
    · exact refl t
  exact (hcount.trans (hcommit _)).trans (noteHbm _ c)

theorem Run.lateness_eq (r : Run) (s : State) :
    r.lateness s = if r.phase = .waiting ∧ bit r.entry.flags 0 = true then s.tick - r.entry.launch else 0 := by
  simp [Run.lateness]

theorem KeepsRuns.lateness {c : Fin 4} {n : Nat} {s t : State} (h : KeepsRuns c n s t) (r : Run) : r.lateness t = r.lateness s := by
  unfold Run.lateness
  rw [h.tick]

/-- The run that has issued stands where it stood. -/
theorem run_startRun (s : State) (c : Fin 4) (q : Fin 8) (r : Run) :
    (s.startRun c q r).run c q = some (r.atIssue (s.prepareIssue c q r).1 c (s.prepareIssue c q r).2) := by
  rw [startRun_eq, (KeepsRuns.countIssue _ c q r).run, run_setRun_same]

theorem run_startRun_other (s : State) (c d : Fin 4) (q n : Fin 8) (r : Run) (h : (d, n) ≠ (c, q)) :
    (s.startRun c q r).run d n = s.run d n := by
  rw [startRun_eq, (KeepsRuns.countIssue _ c q r).run, run_setRun_other _ _ _ _ _ _ h, (KeepsRuns.prepareIssue s c q r).run]

/-- Settles O10: what precedes the change of the run and what follows it leave every queue alone. -/
theorem issueSetsTheRunGoing : Obligations.IssueSetsTheRunGoing := by
  unfold Obligations.IssueSetsTheRunGoing
  intro s c q r _
  have hp := KeepsRuns.prepareIssue s c q r
  have hc := KeepsRuns.countIssue
    ((s.prepareIssue c q r).1.setRun c q (some (r.atIssue (s.prepareIssue c q r).1 c (s.prepareIssue c q r).2))) c q r
  rw [← startRun_eq] at hc
  intro late
  have hlate : r.lateness (s.prepareIssue c q r).1 = late := (hp.lateness r).trans (r.lateness_eq s)
  refine ⟨⟨_, run_startRun s c q r, rfl, hlate, ?_, rfl, rfl, rfl, ?_⟩, ?_, ?_, hc.image.trans hp.image, hc.ports.trans hp.ports,
    hc.time.trans hp.time⟩
  · rw [Run.atIssue, hlate, hp.now]
  · simp [Run.atIssue]
  · rw [hc.issued, issued_setRun, hp.issued, Nat.add_zero]
  · exact fun d n h => run_startRun_other s c d q n r h

/-! ### Entries that may issue -/

section
variable {s : State} {c : Fin 4} {q : Fin 8} {r : Run}

/-- An entry that may issue has not issued, or was killed (R38). -/
theorem not_running_of_ready (h : Ready s c q r) : r.phase ≠ .running := by
  obtain ⟨-, h, -⟩ := h
  intro e
  simp [State.readyToIssue, e] at h

/-- A first issue of an AT_TICK entry waits for its launch tick (R28). -/
theorem launch_le_of_ready (h : Ready s c q r) (hb : bit r.entry.flags 0 = true) (hw : r.phase = .waiting) : r.entry.launch ≤ s.tick := by
  obtain ⟨-, h, -⟩ := h
  simp only [State.readyToIssue, Bool.and_eq_true] at h
  obtain ⟨⟨-, hl⟩, -⟩ := h
  simpa [hb, hw] using hl

/-- An entry that may issue does so in a row that serves it. -/
theorem issue_of_ready (h : Ready s c q r) {ok : Run → Bool} (hok : ok r = true) : s.issue c q ok = (s.startRun c q r, true) := by
  obtain ⟨hrun, hready, hwin, hbound⟩ := h
  simp [State.issue, hrun, hready, hok, hwin, hbound]

/-- A row that issues a command and then carries out the start of its kind. -/
theorem issueRow_of_ready (h : Ready s c q r) {ok : Run → Bool} (hok : ok r = true) (start : State → State) :
    (let x := s.issue c q ok
     if x.2 then start x.1 else x.1) = start (s.startRun c q r) := by
  rw [issue_of_ready h hok]
  rfl

theorem collRow_of_ready {p : CollRec} {op : Nat} (h : Ready s c q r) (hplain : r.plainIssue = true) (hp : r.cmd.collRec = some p)
    (ho : p.op = op) : s.collRow c q op = (s.startRun c q r).collStart c q := by
  have hi := issue_of_ready h (ok := isColl op) (by simp [isColl, hplain, hp, ho])
  simp [State.collRow, h.1, hp, ho, not_running_of_ready h, hi]

theorem copyRow_of_ready {p : CopyRec} {op : Nat} (h : Ready s c q r) (hplain : r.plainIssue = true) (hp : r.cmd.copyRec = some p)
    (ho : p.op = op) : s.copyRow c q op = (s.startRun c q r).copyStart c q := by
  have hi := issue_of_ready h (ok := isCopy op) (by simp [isCopy, hplain, hp, ho])
  simp [State.copyRow, hi]

theorem isExchange_of_role {e : ExchRec} {role : Nat} (hplain : r.plainIssue = true) (he : r.cmd.exchRec = some e) (ho : e.role = role) :
    isExchange role r = true := by
  simp [isExchange, hplain, he, ho]

end

/-- Settles O8, kind by kind: a ready entry issues in the row of its kind, and the row then carries out the kind's start. -/
theorem readyCommandsIssueAndStart : Obligations.ReadyCommandsIssueAndStart := by
  unfold Obligations.ReadyCommandsIssueAndStart
  intro s c q r found hplain
  refine ⟨?block, ?found, ?plain⟩
  case block =>
    intro u h hk
    exact congrArg Host.Outcome.next (issueRow_of_ready h (by simp [hk, hplain]) (fun s => s.blockStart c q))
  case found =>
    intro u h
    refine ⟨fun e he => ?_, fun p hp => ?_, fun p hp => ?_⟩
    · refine ⟨fun ho => ?_, fun ho => ?_, fun ho => ?_⟩
      · exact congrArg Host.Outcome.next (issueRow_of_ready h (isExchange_of_role hplain he ho)
          (fun s => ((s.exchangeInit c q).broadcastStart c q).drainFails))
      · exact congrArg Host.Outcome.next (issueRow_of_ready h (isExchange_of_role hplain he ho)
          (fun s => (((s.exchangeInit c q).dispatchBegins c q).dispatchStart c q).drainFails))
      · exact congrArg Host.Outcome.next (issueRow_of_ready h (isExchange_of_role hplain he ho) (fun s => s.exchangeInit c q))
    · refine ⟨?_, ?_, ?_, ?_, ?_⟩ <;> exact fun ho => congrArg Host.Outcome.next (collRow_of_ready h hplain hp ho)
    · refine ⟨?_, ?_, ?_⟩ <;> exact fun ho => congrArg Host.Outcome.next (copyRow_of_ready h hplain hp ho)
  case plain =>
    intro h
    refine ⟨fun p hp ho => ?_, fun p hp ho => ?_, fun hf => ?_, fun hk => ?_⟩
    · exact congrArg Host.Outcome.next (collRow_of_ready h hplain hp ho)
    · exact congrArg Host.Outcome.next (copyRow_of_ready h hplain hp ho)
    · exact congrArg Host.Outcome.next (issueRow_of_ready h (by simp [hf, hplain]) (fun s => s.fetchStart c q))
    · have hi := issue_of_ready h (ok := fun r => r.cmd.kind == 6 && r.plainIssue) (by simp [hk, hplain])
      exact congrArg (fun x : State × Bool => Host.Outcome.next x.1) hi

/-- Settles O9: a ready AT_TICK entry has reached its launch tick, and LAUNCH_TICK issues it and starts its kind. -/
theorem launchTickIssuesADueEntry : Obligations.LaunchTickIssuesADueEntry := by
  unfold Obligations.LaunchTickIssuesADueEntry
  intro s c q dt found r r' u h hb hw hrun
  refine ⟨launch_le_of_ready h hb hw, ?_⟩
  have hi := issue_of_ready h (ok := fun r => bit r.entry.flags 0 && r.phase == .waiting) (by simp [hb, hw])
  change execLaunchTick c q dt found s = _
  simp only [execLaunchTick]
  rw [hi]
  cases hc : (u.startRun c q r).rampCovers r' <;> simp [hrun, hc]

/-! ### Commit points and step boundaries -/

theorem exec_commitPoint_of_run {s : State} {c : Fin 4} {q : Fin 8} {found : List (Nat × Finding)} {r : Run}
    (hr : (s.tellFound c 3 found).run c q = some r) :
    exec (.commitPoint c q found) s =
      .next (if r.cmd.kind = 6 then (s.tellFound c 3 found).stepBoundary c q else (s.tellFound c 3 found).commitPoint c q) := by
  change execCommitPoint c q found s = _
  simp only [execCommitPoint, hr]

theorem exec_stepBoundary_of_committing {s : State} {c : Fin 4} {q : Fin 8} (hc : (s.ctx c).committing = some q.val) :
    exec (.stepBoundary c) s = .next (s.stepBoundary c q) := by
  change execStepBoundary c s = _
  simp [execStepBoundary, hc]

theorem reachCommit_of_atCommit {s : State} {c : Fin 4} {q : Fin 8} {r : Run} (hr : s.run c q = some r) (hp : r.phase = .atCommit) :
    s.reachCommit c q = s := by
  simp [State.reachCommit, hr, hp]

/-- Settles O11: nothing that R31 names refuses or holds the command, so its commit point commits it. -/
theorem commitPointCommitsAFinishedCommand : Obligations.CommitPointCommitsAFinishedCommand := by
  unfold Obligations.CommitPointCommitsAFinishedCommand
  intro s c q found r u hr hk hp hh hb hroom hg hl hpin
  have hring : (r.repairOf.isNone && !u.ringRoom c) = false := by
    obtain h | h := hroom
    · simp [Option.isSome_iff_ne_none.mp h]
    · simp [h]
  have hcommit : u.commitPoint c q = ((((u.commitNow c q r).settlePreempt c).exchangePump c).copyPumpAll).settle := by
    simp [State.commitPoint, reachCommit_of_atCommit hr hp, hr, hp, hh, hb, hring, hg, hl, hpin]
  rw [exec_commitPoint_of_run hr, if_neg hk, ← hcommit]

/-- A COMMIT that runs in time and whose boundary is ready performs it (R33). -/
theorem stepBoundary_of_ready {s : State} {c : Fin 4} {q : Fin 8} {r : Run} (hr : s.run c q = some r) (hk : r.cmd.kind = 6)
    (hrun : r.running = true) (hb : s.missedBudget r = none) (hready : s.boundaryReady c q = true) :
    s.stepBoundary c q = ((((((s.boundary c).sendSignals c r.cmd.signals).modCtx c (fun y => { y with committing := none })).finishEntry c q
      r).drainFails).settlePreempt c).settle := by
  simp [State.stepBoundary, hr, hk, hrun, hb, hready]

/-- Settles O13: both rows come to the step boundary of the COMMIT, which nothing holds. -/
theorem stepBoundaryRowsEndTheStep : Obligations.StepBoundaryRowsEndTheStep := by
  unfold Obligations.StepBoundaryRowsEndTheStep
  intro s c q found r due done
  have hdone (x : State) (h : due x) : x.stepBoundary c q = done x := by
    obtain ⟨hr, hk, hrun, hb, hready⟩ := h
    exact stepBoundary_of_ready hr hk hrun hb hready
  refine ⟨fun h => ?_, fun h hc => ?_⟩
  · rw [← hdone _ h]
    obtain ⟨hr, hk, -⟩ := h
    rw [exec_commitPoint_of_run hr, if_pos hk]
  · rw [exec_stepBoundary_of_committing hc, hdone _ h]

/-! ### Doorbells -/

theorem dictDefault_queueRefused : ∀ c : Fin 4, dictDefault (Key.queueRefused c) = 0 := by decide

/-- An event record stands in front of those before it. -/
theorem logMask_events (s : State) (mask : Option Nat) (code sev c src cmd entry value : Nat) :
    ∃ e : Event, (s.logMask mask code sev c src cmd entry value).events = (e :: s.events).take 4096 ∧ e.severity = sev ∧ e.context = c := by
  unfold State.logMask State.bump
  dsimp only
  cases mask <;> dsimp only <;> split_ifs <;> exact ⟨_, rfl, rfl, rfl⟩

/-- The newest event of the log after a record is the one written. -/
theorem logMask_newest (s : State) (mask : Option Nat) (code sev c src cmd entry value : Nat) :
    ∃ e, (s.logMask mask code sev c src cmd entry value).events.head? = some e ∧ e.severity = sev ∧ e.context = c := by
  obtain ⟨e, he, hsev, hc⟩ := logMask_events s mask code sev c src cmd entry value
  exact ⟨e, by rw [he]; rfl, hsev, hc⟩

/-- A doorbell that is refused leaves all but its count and the event log (R30). -/
theorem doorbellRefused_frame (s : State) (c : Fin 4) (q : Fin 8) (tail : Nat) :
    (s.doorbellRefused c q tail).ctxs = s.ctxs ∧ (s.doorbellRefused c q tail).mem = s.mem ∧
      (s.doorbellRefused c q tail).pools = s.pools ∧ (s.doorbellRefused c q tail).ports = s.ports ∧
      (s.doorbellRefused c q tail).image = s.image := by
  simp [State.doorbellRefused]

theorem onlyRegs_log (s : State) (sev c src cmd entry value : Nat) :
    OnlyRegs [Key.eventLogHead, Key.eventLost] s (s.log sev c src cmd entry value) :=
  logMask_regs s none 0 sev c src cmd entry value

theorem queueRefused_not_event : ∀ c : Fin 4, Key.queueRefused c ∉ [Key.eventLogHead, Key.eventLost] := by decide

theorem reg_doorbellRefused (s : State) (c : Fin 4) (q : Fin 8) (tail : Nat)
    (h : s.reg (Key.queueRefused c) + 1 < dictModulus (Key.queueRefused c)) :
    (s.doorbellRefused c q tail).reg (Key.queueRefused c) = s.reg (Key.queueRefused c) + 1 := by
  unfold State.doorbellRefused
  rw [onlyRegs_log _ _ _ _ _ _ _ _ (queueRefused_not_event c), reg_bump_same _ _ _ one_ne_zero h (dictDefault_queueRefused c)]

theorem onlyRegs_doorbellRefused (s : State) (c : Fin 4) (q : Fin 8) (tail : Nat) :
    OnlyRegs [Key.queueRefused c, Key.eventLogHead, Key.eventLost] s (s.doorbellRefused c q tail) :=
  onlyRegs_trans (onlyRegs_bump s _ 1 _ List.mem_cons_self)
    (onlyRegs_mono (onlyRegs_log _ _ _ _ _ _ _) fun _ h => List.mem_cons_of_mem _ h)

theorem exec_doorbell_of_hostLink {s : State} {c : Fin 4} {q : Fin 8} {tail : Nat} (hlink : s.hostLink = true) (htail : tail < 2 ^ 32) :
    exec (.doorbell c q tail) s = .next (s.ringDoorbell c q tail) := by
  change execDoorbell c q tail s = _
  rw [execDoorbell, if_pos hlink, Nat.mod_eq_of_lt htail]

/-- Settles O14: the conditions of R30 are the doorbell's own, and a refused one is a count and an event. -/
theorem doorbellsAreTakenOrIgnored : Obligations.DoorbellsAreTakenOrIgnored := by
  unfold Obligations.DoorbellsAreTakenOrIgnored
  intro s c q tail im hlink htail him
  rw [exec_doorbell_of_hostLink hlink htail]
  refine ⟨fun hq hh hahead hdepth => ?taken, fun hbad => ?ignored⟩
  case taken =>
    unfold State.ringDoorbell
    simp only [him]
    rw [if_neg (by simpa [hh] using hq), if_neg (not_or.mpr ⟨Nat.not_le.mpr hahead, Nat.not_lt.mpr hdepth⟩), Nat.mod_eq_of_lt htail]
  case ignored =>
    have hring : s.ringDoorbell c q tail = s.doorbellRefused c q tail := by
      unfold State.ringDoorbell
      simp only [him]
      split
      · rfl
      · next hok =>
        obtain h | h | h | h := hbad
        · exact absurd (.inl h) hok
        · exact absurd (.inr (by simp [h])) hok
        · rw [if_pos (.inl h)]
        · rw [if_pos (.inr h)]
    obtain ⟨hctxs, hmem, hpools, hports, himage⟩ := doorbellRefused_frame s c q tail
    exact ⟨_, congrArg Host.Outcome.next hring, hctxs, hmem, hpools, hports, himage, reg_doorbellRefused s c q tail,
      logMask_newest _ _ _ _ _ _ _ _ _, onlyRegs_doorbellRefused s c q tail⟩

/-! ### Budgets (R36, R37) -/

theorem exec_commandBudgetExpiry_of_run {s : State} {c : Fin 4} {q : Fin 8} {dt : Nat} {r : Run} (hr : (s.advance dt).run c q = some r) :
    exec (.commandBudgetExpiry c q dt) s = .next (if (r.running = true ∨ r.budgetFrom.isSome = true) ∧
      (s.advance dt).overCommandBudget r = true then (s.advance dt).deadlineMiss c r ((s.advance dt).budgets r.cmd).2
      else s.advance dt) := by
  change execCommandBudgetExpiry c q dt s = _
  simp only [execCommandBudgetExpiry, hr]

theorem exec_blockBudgetExpiry_of_run {s : State} {c : Fin 4} {q : Fin 8} {r : Run} (hr : s.run c q = some r) :
    exec (.blockBudgetExpiry c q) s =
      .next (if (r.running && s.overBlockBudget r) = true then s.deadlineMiss c r (s.budgets r.cmd).1 else s) := by
  change execBlockBudgetExpiry c q s = _
  simp only [execBlockBudgetExpiry, hr]

/-- Settles O15: either budget is exceeded, and the row raises DEADLINE_MISS, or it is not. -/
theorem budgetExpiryRaisesDeadlineMiss : Obligations.BudgetExpiryRaisesDeadlineMiss := by
  unfold Obligations.BudgetExpiryRaisesDeadlineMiss
  intro s c q dt r
  refine ⟨fun hr hrun hover => ?_, fun hr hover => ?_, fun hr hrun hover => ?_, fun hr hover => ?_⟩
  · rw [exec_commandBudgetExpiry_of_run hr, if_pos ⟨hrun, hover⟩, State.deadlineMiss]
  · rw [exec_commandBudgetExpiry_of_run hr, if_neg (by simp [hover])]
  · rw [exec_blockBudgetExpiry_of_run hr, if_pos (by simp [hrun, hover]), State.deadlineMiss]
  · rw [exec_blockBudgetExpiry_of_run hr, if_neg (by simp [hover])]

/-! ### Activation errors (R38, R41) -/

@[simp] theorem State.memError_ctxs (s : State) (addr kind reader c symbol channel entry : Nat) :
    (s.memError addr kind reader c symbol channel entry).ctxs = s.ctxs := by
  unfold State.memError State.advanceCount
  dsimp only
  split <;> simp

@[simp] theorem State.countCe_ctxs (s : State) (st : Nat) : (s.countCe st).ctxs = s.ctxs := by
  unfold State.countCe
  dsimp only
  split <;> simp

/-- A read leaves every context alone, whatever its check finds (R156 to R160). -/
@[simp] theorem State.readAt_ctxs (s : State) (c reader addr : Nat) (f : Finding) : (s.readAt c reader addr f).2.ctxs = s.ctxs := by
  unfold State.readAt
  cases regionOf addr with
  | hbm =>
    dsimp only
    split_ifs
    · cases f <;> simp
    · split
      · split_ifs <;> simp
      · simp
    · cases f with
      | uncorrectable =>
        dsimp only
        split
        · split_ifs <;> simp [State.poisonWord]
        · simp [State.poisonWord]
      | _ => simp
  | reserve off => cases f <;> simp
  | store => cases f <;> simp
  | hub => cases f <;> simp
  | unpopulated => rfl
  | remote => rfl

theorem run_readAt (s : State) (c reader addr : Nat) (f : Finding) (d : Fin 4) (q : Fin 8) :
    (s.readAt c reader addr f).2.run d q = s.run d q := by
  simp [State.run, State.queue, State.ctx]

section
variable {s : State} {c : Fin 4} {q : Fin 8} {h addr : Nat} {r : Run} (hr : s.run c q = some r) (hrun : r.running = true)
include hr hrun

/-- A command that may not rerun, and a repair run whose damaged version is not its own, tear the context down (R41). -/
theorem actDetected_of_no_rerun (hno : bit r.cmd.flags 1 = true ∨ s.reg Key.rerunLimit < r.reruns + 1 ∨
    (r.repairOf.isSome = true ∧ r.stagedHolds addr = false)) :
    s.actDetected c q h addr = s.ctxFault c 0x11 r.entry.command 0x06 Key.killCount (addr / 4096) := by
  unfold State.actDetected
  obtain hflag | hlimit | ⟨hrepair, hstaged⟩ := hno
  · simp [hr, hrun, hflag]
  · simp [hr, hrun, hlimit]
  · simp [hr, hrun, hrepair, hstaged]

variable (hflag : bit r.cmd.flags 1 = false) (hlimit : r.reruns + 1 ≤ s.reg Key.rerunLimit) (hkind : r.cmd.kind ≠ 4)
include hflag hlimit hkind

/-- A damaged version that the command staged itself: the command is killed, to run again (R41). -/
theorem actDetected_of_staged (hstaged : r.stagedHolds addr = true) :
    s.actDetected c q h addr =
      ((s.logCtx c 0x11 sevRecovered 0x06 r.entry.command Key.killCount (addr / 4096)).killRun c q).settlePreempt c := by
  unfold State.actDetected
  simp [hr, hrun, hflag, Nat.not_lt.mpr hlimit, hkind, hstaged]

/-- A damaged committed version: the command is killed and its place taken by a repair run of the producer (R41). -/
theorem actDetected_of_committed {p : Nat × Nat} {prod : Command} (hstaged : r.stagedHolds addr = false) (hrepair : r.repairOf = none)
    (hp : s.producerOf h c = some p) (hprod : s.command? p.1 = some prod) (hcrew : prod.isCrew = false) :
    s.actDetected c q h addr =
      (let u := (s.logCtx c 0x11 sevRecovered 0x06 r.entry.command Key.killCount (addr / 4096)).killRun c q
       (u.modRun c q (fun x => { x with cmd := prod, repairOf := some (h, u.ownerOf h c, p.1) })).settlePreempt c) := by
  unfold State.actDetected
  simp [hr, hrun, hflag, Nat.not_lt.mpr hlimit, hkind, hstaged, hrepair, hp, hprod, hcrew]

end

/-- A CHECK failure found at an address that a running command reads, or has staged, is acted on. -/
theorem exec_actDetected_of_read {s : State} {c : Fin 4} {q : Fin 8} {h addr : Nat} {r : Run} (hr : s.run c q = some r)
    (hrun : r.running = true) (hreads : r.stagedHolds addr = true ∨ ∃ v, s.inputVersion h c = some v ∧ v.holds addr = true)
    (hact : (s.readAt c (r.readerOf addr) addr .checkFail).1 = .act) :
    exec (.actDetected c q h addr) s = .next ((s.readAt c (r.readerOf addr) addr .checkFail).2.actDetected c q h addr) := by
  change execActDetected c q h addr s = _
  unfold execActDetected
  obtain hstaged | ⟨v, hv, hholds⟩ := hreads
  · simp [hr, hrun, hact, hstaged]
  · simp [hr, hrun, hact, hv, hholds]

/-- Settles O17: the read's check fails, so the row comes to what a detected error of a running command does. -/
theorem activationErrorsAreRepairedOrTearDown : Obligations.ActivationErrorsAreRepairedOrTearDown := by
  unfold Obligations.ActivationErrorsAreRepairedOrTearDown
  intro s c q h addr r hr hrun hreads hact u logged
  have hu : u.run c q = some r := (run_readAt s c _ addr .checkFail c q).trans hr
  rw [exec_actDetected_of_read hr hrun hreads hact]
  refine ⟨fun hno => ?_, fun hflag hlimit hkind => ⟨fun hstaged => ?_, fun p prod hstaged hrepair hp hprod hcrew => ?_⟩⟩
  · exact congrArg Host.Outcome.next (actDetected_of_no_rerun hu hrun hno)
  · exact congrArg Host.Outcome.next (actDetected_of_staged hu hrun hflag hlimit hkind hstaged)
  · exact congrArg Host.Outcome.next (actDetected_of_committed hu hrun hflag hlimit hkind hstaged hrepair hp hprod hcrew)

end Sys2Proof.Machine
end

section
/-! SUPPORT. The proofs of numerics (spec/03): terms that enter an accumulator in any order, and narrowing. -/
namespace Sys2Proof.Machine

/-! ### Order-free accumulation (R49, R56) -/

theorem Sat.add_left_comm (a b c : Sat) : a.add (b.add c) = b.add (a.add c) := by
  simp [Sat.add, Nat.add_left_comm]

theorem Acc.merge_right_comm (a b c : Acc) : (a.merge b).merge c = (a.merge c).merge b := by
  simp [Acc.merge, Int.add_right_comm, Bool.or_right_comm]

/-- What a term adds to an accumulator, and what it counts, does not depend on what has entered before (R49). -/
theorem Acc.enter_eq_merge (acc : Acc) (v : FVal) (anchor : Int) :
    acc.enter v anchor = (acc.merge (Acc.zero.enter v anchor).1, (Acc.zero.enter v anchor).2) := by
  cases v with
  | nan => simp [Acc.enter, Acc.merge, Acc.zero]
  | inf neg => cases neg <;> simp [Acc.enter, Acc.merge, Acc.zero]
  | fin neg m e => simp [Acc.enter, Acc.merge, Acc.zero]

theorem Acc.enterAll_cons (acc : Acc) (anchor : Int) (v : FVal) (vs : List FVal) :
    acc.enterAll anchor (v :: vs) = (((acc.enter v anchor).1.enterAll anchor vs).1,
      (acc.enter v anchor).2.add ((acc.enter v anchor).1.enterAll anchor vs).2) := rfl

/-- Two terms that enter one after the other may change places. -/
theorem Acc.enterAll_swap (acc : Acc) (anchor : Int) (v w : FVal) (vs : List FVal) :
    acc.enterAll anchor (v :: w :: vs) = acc.enterAll anchor (w :: v :: vs) := by
  have hacc : ((acc.enter v anchor).1.enter w anchor).1 = ((acc.enter w anchor).1.enter v anchor).1 := by
    simp only [Acc.enter_eq_merge acc, Acc.enter_eq_merge (acc.merge _), Acc.merge_right_comm acc]
  have hsat (x y : FVal) : ((acc.enter x anchor).1.enter y anchor).2 = (acc.enter y anchor).2 := by
    rw [Acc.enter_eq_merge _ y, Acc.enter_eq_merge acc y]
  simp only [Acc.enterAll_cons, hacc, hsat, Sat.add_left_comm]

/-- Settles O20, by induction on the permutation: it comes down to two neighbouring terms changing places. -/
theorem accumulationDoesNotDependOnOrder : Obligations.AccumulationDoesNotDependOnOrder := by
  unfold Obligations.AccumulationDoesNotDependOnOrder
  intro a anchor xs ys hperm
  induction hperm generalizing a with
  | nil => rfl
  | cons v _ ih => rw [Acc.enterAll_cons, Acc.enterAll_cons, ih]
  | swap v w vs => exact Acc.enterAll_swap a anchor w v vs
  | trans _ _ ih₁ ih₂ => exact (ih₁ a).trans (ih₂ a)

/-! ### Narrowing (R50) -/

theorem Acc.narrow_of_within {a : Acc} (hlo : -(2 ^ 47 - 1) ≤ a.sum) (hhi : a.sum ≤ 2 ^ 47 - 1) :
    a.narrow = (⟨a.sum, a.flagBits⟩, Sat.zero) :=
  (if_neg (Int.not_lt.mpr hhi)).trans (if_neg (Int.not_lt.mpr hlo))

theorem Acc.narrow_of_above {a : Acc} (h : 2 ^ 47 - 1 < a.sum) : a.narrow = (⟨2 ^ 47 - 1, a.flagBits⟩, Sat.oneWire) :=
  if_pos h

theorem Acc.narrow_of_below {a : Acc} (h : a.sum < -(2 ^ 47 - 1)) : a.narrow = (⟨-(2 ^ 47 - 1), a.flagBits⟩, Sat.oneWire) :=
  (if_neg (by omega)).trans (if_pos h)

/-- Settles O19: the three branches of the narrowing are the three ranges of the sum. -/
theorem narrowingKeepsOrLimitsTheSum : Obligations.NarrowingKeepsOrLimitsTheSum := by
  unfold Obligations.NarrowingKeepsOrLimitsTheSum
  refine fun a => ⟨fun ⟨hlo, hhi⟩ => ?_, fun habove => ?_, fun hbelow => ?_⟩
  · simp [Acc.narrow_of_within hlo hhi]
  · simp [Acc.narrow_of_above habove]
  · simp [Acc.narrow_of_below hbelow]

end Sys2Proof.Machine
end

section
/-! SUPPORT. The proofs of waits and stalls of the Tile Sequencer (spec/04): each of the three rows reads what the tile holds,
and its branches are the clauses of the obligation. -/
namespace Sys2Proof.Machine

/-! ### Waits and stalls of the Tile Sequencer (R73, R74, R80, R81) -/

section
variable {s : State} {c : Fin 4} {q : Fin 8} {tile : Fin 4} {dt : Nat} {found : List (Nat × Finding)} {r : Run} {t : TileRun}
variable {w : WaitPoint} {start tick : Nat}

/-- A tile waits at a point that is satisfied, or whose end the row itself tells (R34, R74). -/
theorem exec_blockWaitResume_of_waiting (ht : ((s.advance dt).tellFound c 0 found).tileOf c q tile = some (r, t))
    (hw : t.waiting = some (w, start, tick))
    (hend : ((s.advance dt).tellFound c 0 found).pointMet c q w = true ∨ ((∀ i n, w ≠ .counter i n) ∧ ∀ h, w ≠ .fetch h)) :
    exec (.blockWaitResume c q tile dt found) s =
      .next ((((s.advance dt).tellFound c 0 found).endWait c q r t w start tick).runTile c q tile blockFuel) := by
  change execBlockWaitResume c q tile dt found s = _
  simp only [execBlockWaitResume, ht, hw]
  refine congrArg Host.Outcome.next (if_pos ((Bool.or_eq_true _ _).mpr ?_))
  obtain hmet | ⟨hcounter, hfetch⟩ := hend
  · exact .inr hmet
  · cases w with
    | counter i n => exact absurd rfl (hcounter i n)
    | fetch h => exact absurd rfl (hfetch h)
    | farStream _ | codec _ | fabric _ => exact .inl rfl

/-- A tile that waits at no point replays on. -/
theorem exec_blockWaitResume_of_not_waiting (ht : ((s.advance dt).tellFound c 0 found).tileOf c q tile = some (r, t))
    (hw : t.waiting = none) :
    exec (.blockWaitResume c q tile dt found) s = .next (((s.advance dt).tellFound c 0 found).runTile c q tile blockFuel) := by
  change execBlockWaitResume c q tile dt found s = _
  simp only [execBlockWaitResume, ht, hw]

/-- The segment that stalled runs, and the tile replays on where it let it (R73). -/
theorem exec_nearStreamStallEnd_of_stalled (ht : (s.tellFound c 0 found).tileOf c q tile = some (r, t)) (hstall : t.stalled = true) :
    exec (.nearStreamStallEnd c q tile found) s =
      let x := ((s.tellFound c 0 found).setTile c q { t with stalled := false }).seqStep c q tile true
      .next (if x.2 then x.1.runTile c q tile blockFuel else x.1) := by
  change execNearStreamStallEnd c q tile found s = _
  simp only [execNearStreamStallEnd, ht]
  exact congrArg Host.Outcome.next (if_neg (by simp [hstall]))

/-- Only a wait gates a tile: it is feathered when enabled, after its time, and while unsatisfied (R80, R81). -/
theorem exec_waitFeather_of_waiting (ht : (s.advance dt).tileOf c q tile = some (r, t)) (hw : t.waiting = some (w, start, tick)) :
    exec (.waitFeather c q tile dt) s =
      .next (if (s.advance dt).force Key.featherEnable ≠ 1 ∨
          ((s.advance dt).now - start) * cclkPerTick < (s.advance dt).force Key.featherIdleMin ∨ (s.advance dt).pointMet c q w = true
        then s.advance dt else (s.advance dt).setTile c q { t with gated := true }) := by
  change execWaitFeather c q tile dt s = _
  simp only [execWaitFeather, ht, hw]

end

/-- Settles O18: each clause is a branch of its row on what the tile holds. -/
theorem tileSequencersResumeAfterWaits : Obligations.TileSequencersResumeAfterWaits := by
  unfold Obligations.TileSequencersResumeAfterWaits
  intro s c q tile dt found r t
  refine ⟨fun ht => ⟨fun w start tick hw hend => ?met, fun hw => ?noPoint⟩, fun ht hstall => ?stalled,
    fun w start tick ht hw => ⟨fun hon hlong hunmet => ?gated, fun hidle => ?onlyTime⟩⟩
  case met => exact exec_blockWaitResume_of_waiting ht hw hend
  case noPoint => exact exec_blockWaitResume_of_not_waiting ht hw
  case stalled => exact exec_nearStreamStallEnd_of_stalled ht hstall
  case gated => rw [exec_waitFeather_of_waiting ht hw, if_neg (by simp [hon, Nat.not_lt.mpr hlong, hunmet])]
  case onlyTime => rw [exec_waitFeather_of_waiting ht hw, if_pos (hidle.imp_right .inl)]

end Sys2Proof.Machine
end

section
/-! SUPPORT. The proofs of expert routing (spec/06): the model's sort is the library's insertion sort, key order is a strict order
that is total on distinct experts, and a candidate list is the front of the sorted candidates. -/
namespace Sys2Proof.Machine

/-! ### Sorting -/

section
variable {α : Type} {le : α → α → Bool}

theorem insertBy_eq_orderedInsert (x : α) (l : List α) : insertBy le x l = l.orderedInsert (fun a b => le a b = true) x := by
  induction l with
  | nil => rfl
  | cons y t ih => rw [insertBy, ih, List.orderedInsert_cons]

theorem sortBy_eq_insertionSort (l : List α) : sortBy le l = l.insertionSort (fun a b => le a b = true) := by
  induction l with
  | nil => rfl
  | cons x t ih => rw [sortBy, ih, insertBy_eq_orderedInsert, List.insertionSort_cons]

theorem sortBy_perm (l : List α) : (sortBy le l).Perm l := by
  rw [sortBy_eq_insertionSort]
  exact List.perm_insertionSort _ l

theorem mem_insertBy {x y : α} {l : List α} : y ∈ insertBy le x l ↔ y = x ∨ y ∈ l := by
  rw [insertBy_eq_orderedInsert, List.mem_orderedInsert]

variable (htrans : ∀ a b c, le a b = true → le b c = true → le a c = true)
include htrans

/-- The order need not be reflexive or total: it only has to compare the new element with those of the list. -/
theorem insertBy_pairwise {x : α} {l : List α} (hl : l.Pairwise (fun a b => le a b = true))
    (hx : ∀ y ∈ l, le x y = true ∨ le y x = true) : (insertBy le x l).Pairwise (fun a b => le a b = true) := by
  induction l with
  | nil => exact List.pairwise_singleton _ x
  | cons y t ih =>
    obtain ⟨hy, ht⟩ := List.pairwise_cons.mp hl
    obtain ⟨hxy, hxt⟩ := List.forall_mem_cons.mp hx
    by_cases h : le x y = true
    · rw [insertBy, if_pos h]
      exact hl.cons (List.forall_mem_cons.mpr ⟨h, fun z hz => htrans x y z h (hy z hz)⟩)
    · rw [insertBy, if_neg h]
      refine (ih ht hxt).cons fun z hz => ?_
      obtain rfl | hz := mem_insertBy.mp hz
      · exact hxy.resolve_left h
      · exact hy z hz

theorem sortBy_pairwise {l : List α} (hl : l.Pairwise (fun a b => le a b = true ∨ le b a = true)) :
    (sortBy le l).Pairwise (fun a b => le a b = true) := by
  induction l with
  | nil => exact .nil
  | cons x t ih =>
    obtain ⟨hx, ht⟩ := List.pairwise_cons.mp hl
    exact insertBy_pairwise htrans (ih ht) fun y hy => hx y ((sortBy_perm t).mem_iff.mp hy)

end

/-! ### Key order (R107) -/

/-- The branches of `candBefore` as one lexicographic condition. -/
theorem candBefore_iff {a b : Cand} : candBefore a b = true ↔
    (rankValues b).1 < (rankValues a).1 ∨ (rankValues a).1 = (rankValues b).1 ∧
      ((rankValues b).2 < (rankValues a).2 ∨ (rankValues a).2 = (rankValues b).2 ∧ a.expert < b.expert) := by
  rw [candBefore]
  split_ifs with h₁ h₂
  all_goals rw [decide_eq_true_iff]; omega

theorem candBefore_trans (a b c : Cand) (hab : candBefore a b = true) (hbc : candBefore b c = true) :
    candBefore a c = true := by
  rw [candBefore_iff] at *
  omega

theorem candBefore_asymm {a b : Cand} (hab : candBefore a b = true) : ¬ candBefore b a = true := by
  rw [candBefore_iff] at *
  omega

/-- Equal ranking values leave the expert index to decide, so distinct experts never tie. -/
theorem candBefore_total {a b : Cand} (h : a.expert ≠ b.expert) : candBefore a b = true ∨ candBefore b a = true := by
  rw [candBefore_iff, candBefore_iff]
  omega

/-! ### Candidate lists (R109, R132) -/

theorem sortBy_candBefore_pairwise {l : List Cand} (h : (l.map Cand.expert).Nodup) :
    (sortBy candBefore l).Pairwise (fun a b => candBefore a b = true) :=
  sortBy_pairwise candBefore_trans ((List.pairwise_map.mp h).imp candBefore_total)

/-- Key order decides the sorted list: two orders of the same candidates sort to the same one. -/
theorem sortBy_candBefore_congr {l l' : List Cand} (h : (l.map Cand.expert).Nodup) (hperm : l.Perm l') :
    sortBy candBefore l = sortBy candBefore l' :=
  have h' : (l'.map Cand.expert).Nodup := (hperm.map Cand.expert).nodup_iff.mp h
  ((sortBy_perm l).trans (hperm.trans (sortBy_perm l').symm)).eq_of_pairwise
    (fun _ _ _ _ hab hba => absurd hba (candBefore_asymm hab)) (sortBy_candBefore_pairwise h) (sortBy_candBefore_pairwise h')

theorem length_topCands (n : Nat) (l : List Cand) : (topCands n l).length = min n l.length := by
  rw [topCands, List.length_take, (sortBy_perm l).length_eq]

theorem mem_of_mem_topCands {n : Nat} {l : List Cand} {a : Cand} (ha : a ∈ topCands n l) : a ∈ l :=
  (sortBy_perm l).mem_iff.mp (List.mem_of_mem_take ha)

/-- A candidate left off stands in the rest of the sorted list. -/
theorem mem_drop_of_not_mem_topCands {n : Nat} {l : List Cand} {b : Cand} (hb : b ∈ l) (hoff : b ∉ topCands n l) :
    b ∈ (sortBy candBefore l).drop n := by
  have hsorted : b ∈ (sortBy candBefore l).take n ++ (sortBy candBefore l).drop n := by
    rw [List.take_append_drop]
    exact (sortBy_perm l).mem_iff.mpr hb
  exact (List.mem_append.mp hsorted).resolve_left hoff

/-- Settles O59: the candidates sort to one list in key order, which the candidate list cuts at `n`. -/
theorem candidateListsAreTheFirstInKeyOrder : Obligations.CandidateListsAreTheFirstInKeyOrder := by
  unfold Obligations.CandidateListsAreTheFirstInKeyOrder
  intro n l h
  have hcut := sortBy_candBefore_pairwise h
  rw [← List.take_append_drop n (sortBy candBefore l), List.pairwise_append] at hcut
  obtain ⟨hkept, -, hacross⟩ := hcut
  refine ⟨length_topCands n l, fun _ => mem_of_mem_topCands, hkept, fun a ha b hb hoff => ?leftOff, fun l' hperm => ?anyOrder⟩
  case leftOff => exact hacross a ha b (mem_drop_of_not_mem_topCands hb hoff)
  case anyOrder => exact congrArg (List.take n) (sortBy_candBefore_congr h hperm).symm

end Sys2Proof.Machine
end

section
/-! SUPPORT. The proofs of the expert exchange (spec/07): writes of the channels where no word is in error, mirrors, and deliveries that
land or are discarded. -/
namespace Sys2Proof.Machine
open Sys2Proof.Safety

@[simp] theorem ctxIndex?_val (c : Fin 4) : ctxIndex? c.val = some c := dif_pos c.isLt

/-! ### Writes through the channels (R153) -/

/-- No word of the 256-byte units that `n` bytes from `a` on reach is in error. -/
def State.UnitsClean (s : State) (a n : Nat) : Prop :=
  ∀ x ∈ s.mem.poison ++ s.mem.upsets.map Prod.fst, x / 256 * 256 + 256 ≤ a ∨ a + n ≤ x / 256 * 256

/-- The units a write covers in part end after its beginning. -/
theorem lt_end_of_mem_partialUnits {a n u : Nat} (h : u ∈ partialUnits a n) : a < u + 256 := by
  simp only [partialUnits, List.mem_filter, List.mem_map, List.mem_range] at h
  obtain ⟨⟨i, -, rfl⟩, -⟩ := h
  omega

/-- A code word and a CHECK unit in error lie in the 256-byte unit of the address (R156, R157). -/
theorem errorUnit_block (s : State) (x : Nat) : (s.errorUnit x).1 / 256 * 256 = x / 256 * 256 := by
  unfold State.errorUnit
  split <;> dsimp only <;> omega

theorem suspects_eq_nil {s : State} {hit : Nat → Nat → Bool}
    (h : ∀ x ∈ s.mem.poison ++ s.mem.upsets.map Prod.fst, hit (s.errorUnit x).1 (s.errorUnit x).2 = false) : s.suspects hit = [] := by
  have hnone : ((s.mem.poison ++ s.mem.upsets.map Prod.fst).map s.errorUnit).filter (fun u => hit u.1 u.2) = [] := by
    refine List.filter_eq_nil_iff.mpr fun u hu => ?_
    obtain ⟨x, hx, rfl⟩ := List.mem_map.mp hu
    simp [h x hx]
  rw [State.suspects, hnone]
  rfl

section
variable {s : State} {a n : Nat} (h : s.UnitsClean a n)
include h

theorem State.UnitsClean.not_mem_partialUnits {x : Nat} (hx : x ∈ s.mem.poison ++ s.mem.upsets.map Prod.fst) :
    x / 256 * 256 ∉ partialUnits a n := fun hu => by
  have hlo := lt_end_of_mem_partialUnits hu
  have hhi := partialUnits_lt hu
  obtain hx | hx := h x hx <;> omega

/-- Where no word is in error, the reading half of a read-modify-write finds nothing and leaves nothing poisoned. -/
theorem rmwRead_of_clean (c reader : Nat) : s.rmwRead c reader a n = s := by
  have hsus : s.suspects (fun u _ => (partialUnits a n).contains (u / 256 * 256)) = [] :=
    suspects_eq_nil fun x hx => by simpa [errorUnit_block] using h.not_mem_partialUnits hx
  have hbad : (partialUnits a n).filter (fun v => s.mem.poison.any (fun p => p / 256 * 256 == v)) = [] := by
    refine List.filter_eq_nil_iff.mpr fun v hv hany => ?_
    obtain ⟨p, hp, hpv⟩ := List.any_eq_true.mp hany
    exact h.not_mem_partialUnits (List.mem_append_left _ hp) (beq_iff_eq.mp hpv ▸ hv)
  unfold State.rmwRead
  dsimp only
  split
  · rfl
  · rw [hsus]
    exact congrArg (fun l => s.forEach l _) hbad

end

theorem chanWrite_of_clean {s : State} {a : Nat} {bs : List Byte} (h : s.UnitsClean a bs.length) (c reader : Nat) :
    s.chanWrite c reader a bs = s.busWrite a bs := by
  rw [State.chanWrite, rmwRead_of_clean h]

theorem busWrite_hbm_cells (s : State) {a : Nat} (bs : List Byte) (ha : a < 0xC000000000) :
    (s.busWrite a bs).mem.cells = cellWrite s.mem.cells a bs := by
  obtain ⟨m, e, hc, -⟩ := busWrite_hbm s a bs (regionOf_hbm ha)
  rw [e]
  exact hc

theorem onlyRegs_busWrite_hbm (s : State) {a : Nat} {bs : List Byte} (ha : a < 0xC000000000) (hend : a + bs.length ≤ 0xC000000000) :
    OnlyRegs ((List.range 8).map Key.hbmRmwCount) s (s.busWrite a bs) := by
  obtain ⟨m, e, -⟩ := busWrite_hbm s a bs (regionOf_hbm ha)
  rw [e]
  exact onlyRegs_countRmw s a bs.length hend

/-! ### Mirrors (R142) -/

/-- A mirror as it stands in its slot: the 64-byte header, then the rows (R142). -/
def mirrorBytes (layer rows st pass : Nat) (data : List Byte) : List Byte :=
  leBytes 2 layer ++ leBytes 2 rows ++ leBytes 4 st ++ leBytes 4 data.length ++ leBytes 4 pass ++ List.replicate 48 0 ++ data

@[simp] theorem mirrorBytes_length (layer rows st pass : Nat) (data : List Byte) :
    (mirrorBytes layer rows st pass data).length = 64 + data.length := by
  simp [mirrorBytes]
  omega

/-- Where the slot not written last begins (R142). -/
def State.mirrorAddr (s : State) (c : Fin 4) : Nat :=
  s.force (Key.mirrorBase c) + (s.ctx c).mirrorNext % 2 * s.force (Key.mirrorSlotSize c)

/-- A context whose mirror slot `slot` holds the newest valid mirror; the other slot takes the next one. -/
def Ctx.noteMirror (x : Ctx) (slot st layer : Nat) : Ctx :=
  { x with mirrors := ⟨slot, st, layer, true⟩ :: x.mirrors.filter (fun m => m.slot != slot), mirrorNext := 1 - slot }

/-- A mirror just written becomes the newest valid one and is reported (R142, R145). -/
def State.validMirror (s : State) (c : Fin 4) (slot st layer : Nat) : State :=
  ((s.modCtx c (fun x => x.noteMirror slot st layer)).setReg (Key.mirrorValidStep c) st).setReg (Key.mirrorValidLayer c) layer

theorem dictModulus_mirrorValidStep : ∀ c : Fin 4, dictModulus (Key.mirrorValidStep c) = 2 ^ 32 := by decide

theorem dictModulus_mirrorValidLayer : ∀ c : Fin 4, dictModulus (Key.mirrorValidLayer c) = 2 ^ 16 := by decide

theorem mirrorValidStep_ne_mirrorValidLayer (c : Nat) : Key.mirrorValidStep c ≠ Key.mirrorValidLayer c := by
  unfold Key.mirrorValidStep Key.mirrorValidLayer
  omega

section
variable (s : State) (c : Fin 4) (slot st layer : Nat)

theorem mirrorNext_validMirror : ((s.validMirror c slot st layer).ctx c).mirrorNext = 1 - slot := by
  simp [State.validMirror, Ctx.noteMirror]

theorem onlyRegs_validMirror : OnlyRegs [Key.mirrorValidStep c, Key.mirrorValidLayer c] s (s.validMirror c slot st layer) :=
  onlyRegs_trans (onlyRegs_setReg (s.modCtx c _) _ st _ (by simp)) (onlyRegs_setReg _ _ layer _ (by simp))

variable (hs : Canonical s)
include hs

theorem reg_mirrorValidLayer_validMirror (h : layer < 2 ^ 16) : (s.validMirror c slot st layer).reg (Key.mirrorValidLayer c) = layer := by
  have hstep : Canonical ((s.modCtx c (fun x => x.noteMirror slot st layer)).setReg (Key.mirrorValidStep c) st) := canonical_setReg _ _ _ hs
  rw [State.validMirror, reg_setReg_same _ _ _ hstep, dictModulus_mirrorValidLayer, Nat.mod_eq_of_lt h]

theorem reg_mirrorValidStep_validMirror (h : st < 2 ^ 32) : (s.validMirror c slot st layer).reg (Key.mirrorValidStep c) = st := by
  have hctx : Canonical (s.modCtx c (fun x => x.noteMirror slot st layer)) := hs
  rw [State.validMirror, reg_setReg_other _ _ _ _ (mirrorValidStep_ne_mirrorValidLayer c), reg_setReg_same _ _ _ hctx,
    dictModulus_mirrorValidStep, Nat.mod_eq_of_lt h]

end

section
variable {s : State} {c : Fin 4} (layer rows st pass : Nat) {data : List Byte} (hup : s.hubUp = true)
include hup

theorem exec_mirrorArrival_of_no_room (h : s.force (Key.mirrorBase c) = 0 ∨ s.force (Key.mirrorSlotSize c) < 64 + data.length) :
    exec (.mirrorArrival c layer rows st pass data) s = .next (s.log sevWarning c 0x05 none32 (Key.mirrorBase c) layer) := by
  change execMirrorArrival c layer rows st pass data s = _
  simp [execMirrorArrival, hup, h]

theorem exec_mirrorArrival_of_room (hbase : s.force (Key.mirrorBase c) ≠ 0)
    (hsize : 64 + data.length ≤ s.force (Key.mirrorSlotSize c)) (hclean : s.UnitsClean (s.mirrorAddr c) (64 + data.length)) :
    exec (.mirrorArrival c layer rows st pass data) s =
      .next ((s.busWrite (s.mirrorAddr c) (mirrorBytes layer rows st pass data)).validMirror c ((s.ctx c).mirrorNext % 2) st layer) := by
  have hroom : ¬ (s.force (Key.mirrorBase c) = 0 ∨ s.force (Key.mirrorSlotSize c) < 64 + data.length) := by omega
  rw [← chanWrite_of_clean (by rwa [mirrorBytes_length]) c 3]
  change execMirrorArrival c layer rows st pass data s = _
  simp only [execMirrorArrival, ctxIndex?_val, hup, Bool.not_true, Bool.false_eq_true, if_false, hroom]
  rfl

end

/-- Settles O29: with no word in error the write of the slot is a plain write to HBM, and what follows it touches two entries and
the context's own account of its mirrors. -/
theorem mirrorsFillTheOlderSlot : Obligations.MirrorsFillTheOlderSlot := by
  unfold Obligations.MirrorsFillTheOlderSlot
  intro s c layer rows st pass data hs hup hlayer hst base size a
  refine ⟨fun hbase hsize hend hclean => ?room, exec_mirrorArrival_of_no_room layer rows st pass hup⟩
  have hlen := mirrorBytes_length layer rows st pass data
  have ha : a < 0xC000000000 := by omega
  have hlast : a + (mirrorBytes layer rows st pass data).length ≤ 0xC000000000 := by omega
  have hcells := busWrite_hbm_cells s (mirrorBytes layer rows st pass data) ha
  have hregs := onlyRegs_busWrite_hbm s ha hlast
  have hcan := canonical_busWrite_hbm s a (mirrorBytes layer rows st pass data) hs (regionOf_hbm ha)
  refine ⟨_, exec_mirrorArrival_of_room layer rows st pass hup hbase hsize hclean, ?_⟩
  refine ⟨?bytes, fun b hb => ?others, reg_mirrorValidStep_validMirror _ c _ st layer hcan hst,
    reg_mirrorValidLayer_validMirror _ c _ st layer hcan hlayer, ?slot, ?entries⟩
  case bytes =>
    have hread := cellBytes_cellWrite (mirrorBytes layer rows st pass data) s.mem.cells a hs.2.2.1
    rwa [← hcells, hlen] at hread
  case others =>
    have hout := cellGet_cellWrite_outside (mirrorBytes layer rows st pass data) s.mem.cells a b (by rwa [hlen])
    rwa [← hcells] at hout
  case slot =>
    rw [mirrorNext_validMirror]
    omega
  case entries =>
    exact onlyRegs_trans (onlyRegs_mono hregs fun k hk => List.mem_cons_of_mem _ (List.mem_cons_of_mem _ hk))
      (onlyRegs_mono (onlyRegs_validMirror _ c _ st layer) fun k hk => List.mem_append_left _ hk)

/-! ### Discarded deliveries (R143) -/

/-- Freeing input buffers changes a port and nothing else. -/
theorem freeBuffers_cases (s : State) (p idx n : Nat) : ∃ P, s.freeBuffers p idx n = { s with ports := P } := by
  unfold State.freeBuffers
  split <;> exact ⟨_, rfl⟩

/-- Ingress credits given back change ports and what the fabric keeps, and nothing else. -/
theorem freeKept_cases (s : State) (tag : DelivTag) (key kind : Nat) : ∃ F P, s.freeKept tag key kind = { s with fab := F, ports := P } := by
  refine forEach_induct (fun t => ∃ F P, t = { s with fab := F, ports := P }) _ ?_ _ _ ⟨_, _, rfl⟩
  rintro t x ⟨F, P, rfl⟩
  split
  · exact ⟨F, P, rfl⟩
  · obtain ⟨P', e⟩ := freeBuffers_cases { s with fab := F, ports := P } x.1 (vcIndex x.2.tc x.2.vc) (packetFlits x.2)
    exact ⟨F, P', e⟩

/-- Staging an exchange count changes contexts and nothing else. -/
theorem xchCount_cases (s : State) (c : Fin 4) (layer k n : Nat) : ∃ C, s.xchCount c layer k n = { s with ctxs := C } := by
  unfold State.xchCount
  split
  · exact ⟨_, rfl⟩
  · split <;> exact ⟨_, rfl⟩

/-- A discard changes ports, the fabric and contexts, and nothing else. -/
theorem discardLanding_cases (s : State) (c : Nat) (tag : DelivTag) (key kind layer first : Nat) (counted : Bool) :
    ∃ F P C, s.discardLanding c tag key kind layer first counted = { s with fab := F, ports := P, ctxs := C } := by
  obtain ⟨F, P, e⟩ := freeKept_cases s tag key kind
  unfold State.discardLanding
  rw [e]
  split
  · next d _ =>
    dsimp only
    split
    · obtain ⟨C, e'⟩ := xchCount_cases { s with fab := F, ports := P } d layer (Key.xchDupDropped d) 1
      exact ⟨F, P, C, e'⟩
    · exact ⟨F, P, _, rfl⟩
  · exact ⟨F, P, _, rfl⟩

/-! ### Deliveries that arrive (R132, R133, R141) -/

section
variable {s : State} {c : Fin 4} {tag : DelivTag} (hc : ctxIndex? tag.ctx = some c)
include hc

section
variable (port : Fin 16) (layer key : Nat) (experts : List Nat) (relay : Bool) (first total : Nat) (row : List Byte)

theorem exec_landing_of_not_holds (hh : s.holds c = false) :
    exec (.landing port tag layer key experts relay first total row) s = .next (s.discardLanding c tag key 0 layer first false) := by
  change execLanding port tag layer key experts relay first total row s = _
  simp [execLanding, hc, hh]

theorem exec_landing_of_landed (hh : s.holds c = true) (hl : s.hasLanded c tag key 0 = true) :
    exec (.landing port tag layer key experts relay first total row) s = .next (s.discardLanding c tag key 0 layer first true) := by
  change execLanding port tag layer key experts relay first total row s = _
  simp [execLanding, hc, hh, hl]

theorem exec_landing_of_new {e : ExchRec} (hh : s.holds c = true) (hl : s.hasLanded c tag key 0 = false) (he : s.tagRec tag = some e)
    (hserved : e.role = 1 ∨ experts ≠ []) :
    exec (.landing port tag layer key experts relay first total row) s =
      .next (((s.land c (landingBuf e c tag layer key experts relay total) port first row).relayPump c).exchangePump c) := by
  have hpairs : ¬ (e.role ≠ 1 ∧ experts.isEmpty = true) := by
    rw [List.isEmpty_iff]
    exact fun ⟨hrole, hnone⟩ => hserved.elim hrole fun hsome => hsome hnone
  change execLanding port tag layer key experts relay first total row s = _
  simp only [execLanding, hc, hh, hl, he, if_neg hpairs, Bool.not_true, Bool.false_eq_true, if_false]

end

section
variable (layer key : Nat) (down : Bool) (cands : List Cand)

theorem exec_mergeList_of_not_holds (hh : s.holds c = false) :
    exec (.mergeList tag layer key down cands) s = .next (s.discardLanding c tag key (if down then 2 else 1) layer 0 false) := by
  change execMergeList tag layer key down cands s = _
  simp [execMergeList, hc, hh]

theorem exec_mergeList_of_landed (hh : s.holds c = true) (hl : s.hasLanded c tag key (if down then 2 else 1) = true) :
    exec (.mergeList tag layer key down cands) s = .next (s.discardLanding c tag key (if down then 2 else 1) layer 0 true) := by
  change execMergeList tag layer key down cands s = _
  simp [execMergeList, hc, hh, hl]

theorem exec_mergeList_of_new (hh : s.holds c = true) (hl : s.hasLanded c tag key (if down then 2 else 1) = false) :
    exec (.mergeList tag layer key down cands) s =
      .next ((s.land c (s.listBuf c tag layer key down cands.length) 16 0 (mergeBytes cands)).exchangePump c) := by
  change execMergeList tag layer key down cands s = _
  simp [execMergeList, hc, hh, hl]

end

section
variable (port : Fin 16) (layer key expert first total : Nat) (row : List Byte)

theorem exec_returnArrival_of_not_holds (hh : s.holds c = false) :
    exec (.returnArrival port tag layer key expert first total row) s =
      .next (s.discardLanding c tag key (3 + 4 * expert) layer first false) := by
  change execReturnArrival port tag layer key expert first total row s = _
  simp [execReturnArrival, hc, hh]

theorem exec_returnArrival_of_duplicate (hh : s.holds c = true)
    (hdup : s.hasLanded c tag key (3 + 4 * expert) = true ∨ s.returnMatches c tag layer key expert = false) :
    exec (.returnArrival port tag layer key expert first total row) s =
      .next (s.discardLanding c tag key (3 + 4 * expert) layer first true) := by
  change execReturnArrival port tag layer key expert first total row s = _
  simp [execReturnArrival, hc, hh, hdup]

theorem exec_returnArrival_of_match {x : Nat} {e : ExchRec} (hh : s.holds c = true) (hl : s.hasLanded c tag key (3 + 4 * expert) = false)
    (hm : s.returnMatches c tag layer key expert = true) (he : s.combineRec layer = some (x, e)) :
    exec (.returnArrival port tag layer key expert first total row) s =
      .next (s.land c (returnBuf e c tag layer key expert total) port first row) := by
  change execReturnArrival port tag layer key expert first total row s = _
  simp [execReturnArrival, hc, hh, hl, hm, he]

end
end

/-- Settles O28: each row tests whether the context holds its resources, then whether the delivery has landed, and a discard
reaches neither the pools nor memory. -/
theorem deliveriesLandOnce : Obligations.DeliveriesLandOnce := by
  unfold Obligations.DeliveriesLandOnce
  intro s c port tag layer key expert first total experts relay down row cands hc
  refine ⟨fun hh => ⟨?_, ?_, ?_, ?_, ?_, ?_⟩, fun hh => ⟨?_, ?_, ?_⟩, fun kind counted => ?_⟩
  · exact fun _ => exec_landing_of_new hc port layer key experts relay first total row hh
  · exact exec_landing_of_landed hc port layer key experts relay first total row hh
  · exact exec_mergeList_of_new hc layer key down cands hh
  · exact exec_mergeList_of_landed hc layer key down cands hh
  · exact fun _ _ => exec_returnArrival_of_match hc port layer key expert first total row hh
  · exact exec_returnArrival_of_duplicate hc port layer key expert first total row hh
  · exact exec_landing_of_not_holds hc port layer key experts relay first total row hh
  · exact exec_mergeList_of_not_holds hc layer key down cands hh
  · exact exec_returnArrival_of_not_holds hc port layer key expert first total row hh
  · obtain ⟨F, P, C, e⟩ := discardLanding_cases s c tag key kind layer first counted
    rw [e]
    exact ⟨rfl, rfl⟩

end Sys2Proof.Machine
end

section
/-! SUPPORT. The proofs of the memory channels (spec/08): host accesses, quiet slots and forced refreshes, the patrol scrubber and the
error rates. -/
namespace Sys2Proof.Machine
open Sys2Proof.Safety

/-! ### Host accesses of HBM (R148, R153) -/

theorem noteFound_nil (s : State) : s.noteFound [] = s := by
  simp [State.noteFound, State.modMem]

theorem sameRegion_hbm {a n : Nat} (ha : a < 0xC000000000) (hend : a + n ≤ 0xC000000000) : sameRegion a n = true := by
  simp [sameRegion, regionOf_hbm ha, regionOf_hbm (show a + n - 1 < 0xC000000000 by omega)]

/-- A code word or CHECK unit in error lies within the 256-byte unit of the address (R156, R157). -/
theorem errorUnit_within (s : State) (x : Nat) :
    x / 256 * 256 ≤ (s.errorUnit x).1 ∧ (s.errorUnit x).1 + (s.errorUnit x).2 ≤ x / 256 * 256 + 256 := by
  unfold State.errorUnit
  split <;> dsimp only <;> omega

/-- A read that reaches no unit with a word in error is served and changes nothing. -/
theorem readRange_of_clean {s : State} {a n : Nat} (h : s.UnitsClean a n) (c reader : Nat) :
    s.readRange c reader a n = ((.ok, 0), s) := by
  have hnone : s.suspects (fun u k => decide (u < a + n ∧ a < u + k)) = [] := suspects_eq_nil fun x hx => by
    obtain ⟨hlo, hhi⟩ := errorUnit_within s x
    have := h x hx
    exact decide_eq_false (by omega)
  rw [State.readRange, hnone, State.readWords]

section
variable {s : State} {a n : Nat} (h : s.UnitsClean a n)
include h

theorem clearPoison_of_clean : s.clearPoison a n = s := by
  have hkeep : s.mem.poison.filter (fun p => !(decide (a ≤ p) && decide (p + 64 ≤ a + n))) = s.mem.poison :=
    List.filter_eq_self.mpr fun p hp => by
      have := h p (List.mem_append_left _ hp)
      simp only [Bool.not_eq_true', Bool.and_eq_false_iff, decide_eq_false_iff_not]
      omega
  simp only [State.clearPoison, State.modMem, hkeep]

theorem clearUpsets_of_clean : s.clearUpsets a n = s := by
  have hkeep : s.mem.upsets.filter (fun x => decide (x.1 / 256 * 256 + 256 ≤ a) || decide (a + n ≤ x.1 / 256 * 256)) = s.mem.upsets :=
    List.filter_eq_self.mpr fun x hx => by
      simpa using h x.1 (List.mem_append_right _ (List.mem_map_of_mem hx))
  simp only [State.clearUpsets, State.modMem, hkeep]

end

/-- A write to units with no word in error changes counts, its bytes and the list of words to write back, and nothing else. -/
theorem busWrite_of_clean {s : State} {a : Nat} {bs : List Byte} (h : s.UnitsClean a bs.length) (ha : a < 0xC000000000) :
    ∃ R fix, s.busWrite a bs =
      { s with regs := R, mem := { s.mem with cells := cellWrite s.mem.cells a bs, scrubFix := fix } } := by
  obtain ⟨R, e⟩ := countRmw_cases s a bs.length
  have hclean (fix : List Nat) : ({ s with regs := R, mem := { s.mem with scrubFix := fix } } : State).UnitsClean a bs.length := h
  rw [State.busWrite, regionOf_hbm ha]
  change ∃ R fix, State.memWrite ((((s.countRmw a bs.length).modMem _).clearPoison a bs.length).clearUpsets a bs.length) a bs = _
  rw [e]
  exact ⟨R, _, congrArg (State.memWrite · a bs) ((congrArg (State.clearUpsets · a bs.length) (clearPoison_of_clean (hclean _))).trans
    (clearUpsets_of_clean (hclean _)))⟩

/-- A host read of HBM outside staged versions and unit tables delivers what memory holds. -/
theorem hostBytes_hbm {s : State} {a n : Nat} (ha : a < 0xC000000000)
    (h : ∀ i, i < n → s.stagedAddr (a + i) = false ∧ s.tableOffset (a + i) = none) : s.hostBytes a n = s.memBytes a n := by
  rw [State.hostBytes, regionOf_hbm ha]
  refine List.map_congr_left fun i hi => ?_
  obtain ⟨hstaged, htable⟩ := h i (List.mem_range.mp hi)
  simp [hstaged, htable]

section
variable {s : State} {a : Nat} (hlink : s.hostLink = true)
include hlink

theorem exec_hostMemWrite_of_clean {data : List Byte} (hdata : data ≠ []) (hend : a + data.length ≤ 0xC000000000)
    (h : s.UnitsClean a data.length) : exec (.hostMemWrite a data []) s = .next (s.busWrite a data) := by
  have ha : a < 0xC000000000 := by
    have := List.length_pos_iff.mpr hdata
    omega
  change execHostMemWrite a data [] s = _
  simp [execHostMemWrite, hlink, hdata, regionOf_hbm ha, sameRegion_hbm ha hend, noteFound_nil, chanWrite_of_clean h]

theorem exec_hostMemRead_of_clean {n : Nat} (hn : 0 < n) (hend : a + n ≤ 0xC000000000) (h : s.UnitsClean a n) :
    exec (.hostMemRead a n []) s = .next (s.toHost (.readData a (s.hostBytes a n) false)) := by
  have ha : a < 0xC000000000 := by omega
  change execHostMemRead a n [] s = _
  simp [execHostMemRead, hlink, hn.ne', regionOf_hbm ha, sameRegion_hbm ha hend, noteFound_nil, readRange_of_clean h, ReadOut.isError]

end

theorem moduleState_not_rmw : Key.moduleState ∉ (List.range 8).map Key.hbmRmwCount := by decide

/-- A write to HBM leaves the host link as it is. -/
theorem hostLink_busWrite_hbm (s : State) {a : Nat} {bs : List Byte} (ha : a < 0xC000000000) (hend : a + bs.length ≤ 0xC000000000) :
    (s.busWrite a bs).hostLink = s.hostLink := by
  have hstate : (s.busWrite a bs).mstate = s.mstate := onlyRegs_busWrite_hbm s ha hend _ moduleState_not_rmw
  obtain ⟨R, m, e⟩ := busWrite_cases s a bs
  rw [e] at hstate ⊢
  simp only [State.hostLink, hstate]
  rfl

/-- Settles O23: the units are clean, so the write is a plain write to HBM, after which they are clean still. -/
theorem hostWritesAreReadBack : Obligations.HostWritesAreReadBack := by
  unfold Obligations.HostWritesAreReadBack
  intro s a data hs hlink hdata hend (hclean : s.UnitsClean a data.length) hplain
  have hlen := List.length_pos_iff.mpr hdata
  have ha : a < 0xC000000000 := by omega
  have hcells := busWrite_hbm_cells s data ha
  have hregs := onlyRegs_busWrite_hbm s ha hend
  have hlink' := (hostLink_busWrite_hbm s ha hend).trans hlink
  obtain ⟨R, fix, e⟩ := busWrite_of_clean hclean ha
  refine ⟨s.busWrite a data, exec_hostMemWrite_of_clean hlink hdata hend hclean, fun b hb => ?outside, ?frame, hregs, ?readBack⟩
  case outside => rw [hcells, cellGet_cellWrite_outside data _ a b hb]
  case frame => rw [e]
  case readBack =>
    have hclean' : (s.busWrite a data).UnitsClean a data.length := by rw [e]; exact hclean
    have hplain' : ∀ i, i < data.length →
        (s.busWrite a data).stagedAddr (a + i) = false ∧ (s.busWrite a data).tableOffset (a + i) = none := by
      rw [e]; exact hplain
    have hbytes : (s.busWrite a data).hostBytes a data.length = data := by
      rw [hostBytes_hbm ha hplain', State.memBytes, hcells, cellBytes_cellWrite data _ a hs.2.2.1]
    rw [exec_hostMemRead_of_clean hlink' hlen hend hclean', hbytes]

/-! ### Host accesses outside the populated map (R146, R148) -/

section
variable {s : State} {a n : Nat} {data : List Byte} {found : List (Nat × Finding)} (hlink : s.hostLink = true)
include hlink

theorem exec_hostMemRead_of_unpopulated (hn : 0 < n) (ha : regionOf a = .unpopulated) :
    exec (.hostMemRead a n found) s = .next ((s.bump Key.hostUnmappedCount 1).toHost (.unsupported a)) := by
  change execHostMemRead a n found s = _
  simp [execHostMemRead, hlink, hn.ne', ha]

theorem exec_hostMemWrite_of_unwritable (hdata : data ≠ []) (ha : regionOf a = .unpopulated ∨ regionOf a = .hub) :
    exec (.hostMemWrite a data found) s = .next (s.bump Key.hostUnmappedCount 1) := by
  change execHostMemWrite a data found s = _
  obtain ha | ha := ha <;> simp [execHostMemWrite, hlink, hdata, ha]

end

/-- Settles O22: each row comes to one count, and the read to its completion besides. -/
theorem hostAccessesOfUnpopulatedAddressesAreCounted : Obligations.HostAccessesOfUnpopulatedAddressesAreCounted := by
  unfold Obligations.HostAccessesOfUnpopulatedAddressesAreCounted
  intro s a n data found hlink hn hdata hmax
  have hcount := reg_bump_same s Key.hostUnmappedCount 1 one_ne_zero hmax (by decide)
  have honly := onlyRegs_bump s Key.hostUnmappedCount 1 [Key.hostUnmappedCount] List.mem_cons_self
  have hsame := sameButRegs_bump s Key.hostUnmappedCount 1
  refine ⟨fun ha => ⟨_, exec_hostMemRead_of_unpopulated hlink hn ha, ?_, ?_, honly, hcount⟩,
    fun ha => ⟨_, exec_hostMemWrite_of_unwritable hlink hdata ha, hsame, honly, hcount⟩⟩
  · exact congrArg (fun o : Outputs => o.host ++ [HostOut.unsupported a]) (State.bump_out s _ _)
  · exact congrArg (fun t : State => { t with out := s.out }) hsame

/-! ### Stacks -/

@[simp] theorem State.reg_modStack (s : State) (st : Fin 8) (f : Stack → Stack) (k : Nat) : (s.modStack st f).reg k = s.reg k := rfl
@[simp] theorem State.modStack_cells (s : State) (st : Fin 8) (f : Stack → Stack) : (s.modStack st f).mem.cells = s.mem.cells := rfl

theorem chan_modStack_same (s : State) (st : Fin 8) (f : Stack → Stack) :
    (s.modStack st f).mem.chan[st] = f s.mem.chan[st] := by
  simp [State.modStack]

theorem chan_modStack_other (s : State) {st j : Fin 8} (f : Stack → Stack) (h : j ≠ st) :
    (s.modStack st f).mem.chan[j] = s.mem.chan[j] := by
  have : st.val ≠ j.val := fun e => h (Fin.ext e.symm)
  simp [State.modStack, this]

theorem canonical_modStack (s : State) (st : Fin 8) (f : Stack → Stack) (h : Canonical s) : Canonical (s.modStack st f) := h

/-! ### Quiet slots and forced refreshes (R161 to R163) -/

section
variable {s : State} {st : Fin 8} {dt : Nat} {found : List (Nat × Finding)}

theorem exec_refreshSlot_of_quiet (hup : (s.advance dt).hubUp = true) (hquiet : (s.advance dt).tileStreams (st.val / 2) = false) :
    exec (.refreshSlot st dt found) s = .next (((s.advance dt).tellFound noCtx 2 found).quietSlot st) := by
  change execRefreshSlot st dt found s = _
  simp [execRefreshSlot, hup, hquiet]

theorem exec_refreshSlot_of_busy (h : (s.advance dt).hubUp = false ∨ (s.advance dt).tileStreams (st.val / 2) = true) :
    exec (.refreshSlot st dt found) s = .next (s.advance dt) := by
  change execRefreshSlot st dt found s = _
  rw [execRefreshSlot]
  exact congrArg Host.Outcome.next (if_neg (by obtain h | h := h <;> simp [h]))

/-- Without patrol scrub a quiet slot is the refresh alone. -/
theorem quietSlot_of_no_scrub (h : s.force Key.scrubEnable = 0) : s.quietSlot st =
    s.modStack st (fun x => { x with sinceSlot := 0, parity := if bit (s.reg Key.refreshDoubled) st then true else !x.parity }) :=
  if_pos h

theorem exec_forcedRefresh_of_not_due
    (h : (s.advance dt).tileRuns (st.val / 2) = false ∨ (s.advance dt).mem.chan[st].sinceSlot < forcedAfter) :
    exec (.forcedRefresh st dt) s = .next (s.advance dt) := by
  change execForcedRefresh st dt s = _
  rw [execForcedRefresh]
  exact congrArg Host.Outcome.next (if_pos (.inr (h.imp (by simp [·]) id)))

/-- Changing the run of every queue changes contexts only. -/
theorem forEach_modRun_cases (s : State) (f : Run → Run) :
    ∃ C, s.forEach allCtx (fun s c => s.forEach allQueues (fun s q => s.modRun c q f)) = { s with ctxs := C } := by
  refine forEach_induct (fun t => ∃ C, t = { s with ctxs := C }) _ (fun t c ht => ?_) _ s ⟨_, rfl⟩
  refine forEach_induct (fun t => ∃ C, t = { s with ctxs := C }) _ ?_ _ t ht
  rintro u q ⟨C, rfl⟩
  exact ⟨_, rfl⟩

/-- What a forced refresh counts and logs (R163, R302). -/
def State.countForced (s : State) (st : Fin 8) : State :=
  (((s.bump Key.forcedRefreshCount 1).log sevWarning noCtx 0x06 none32 Key.forcedRefreshCount st).bump
    (Key.streamStallCycles (st.val / 2)) slotCclk).bump (Key.blockCycles (st.val / 2)) slotCclk

/-- A forced refresh counts, lengthens the segments of the near tile's blocks, and starts its stack's count again (R163). -/
theorem exec_forcedRefresh_of_due (him : (s.advance dt).image.isSome = true) (hruns : (s.advance dt).tileRuns (st.val / 2) = true)
    (hdue : forcedAfter ≤ (s.advance dt).mem.chan[st].sinceSlot) :
    ∃ C, exec (.forcedRefresh st dt) s = .next ({ (s.advance dt).countForced st with ctxs := C }.modStack st
      (fun x => { x with sinceSlot := x.sinceSlot - forcedAfter, parity := false })) := by
  obtain ⟨C, e⟩ := forEach_modRun_cases ((s.advance dt).countForced st) (fun r =>
    if r.running ∧ r.tiles.any (fun t => t.tile == st.val / 2) then
      { r with tiles := r.tiles.map (fun t => if t.tile = st.val / 2 then { t with cycles := t.cycles + slotCclk } else t) } else r)
  refine ⟨C, ?_⟩
  rw [← e]
  change execForcedRefresh st dt s = _
  rw [execForcedRefresh]
  refine congrArg Host.Outcome.next (if_neg ?_)
  rintro (h | h | h)
  · rw [Option.isNone_iff_eq_none.mp h] at him
    exact absurd him Bool.false_ne_true
  · simp [hruns] at h
  · exact absurd hdue (Nat.not_le.mpr h)

end

@[simp] theorem State.countForced_mem (s : State) (st : Fin 8) : (s.countForced st).mem = s.mem := by
  simp [State.countForced]

theorem countForced_newest (s : State) (st : Fin 8) : ∃ e, (s.countForced st).events.head? = some e ∧ e.severity = sevWarning := by
  obtain ⟨e, he, hsev, -⟩ := logMask_newest (s.bump Key.forcedRefreshCount 1) none 0 sevWarning noCtx 0x06 none32 Key.forcedRefreshCount st
  exact ⟨e, by simpa [State.countForced, State.log] using he, hsev⟩

theorem forcedRefreshCount_not_counted : ∀ st : Fin 8, Key.forcedRefreshCount ∉
    [Key.eventLogHead, Key.eventLost, Key.streamStallCycles (st.val / 2), Key.blockCycles (st.val / 2)] := by decide

theorem reg_countForced (s : State) (st : Fin 8) (h : s.reg Key.forcedRefreshCount + 1 < dictModulus Key.forcedRefreshCount) :
    (s.countForced st).reg Key.forcedRefreshCount = s.reg Key.forcedRefreshCount + 1 := by
  have hlog := onlyRegs_log (s.bump Key.forcedRefreshCount 1) sevWarning noCtx 0x06 none32 Key.forcedRefreshCount st
  have hrest : OnlyRegs [Key.eventLogHead, Key.eventLost, Key.streamStallCycles (st.val / 2), Key.blockCycles (st.val / 2)]
      (s.bump Key.forcedRefreshCount 1) (s.countForced st) :=
    onlyRegs_trans (onlyRegs_trans (onlyRegs_mono hlog (by simp)) (onlyRegs_bump _ _ _ _ (by simp))) (onlyRegs_bump _ _ _ _ (by simp))
  rw [hrest _ (forcedRefreshCount_not_counted st), reg_bump_same s _ 1 one_ne_zero h (by decide)]

theorem refreshDoubled_holds_eight_bits : 2 ^ 8 ≤ dictModulus Key.refreshDoubled := by decide

/-- The row at its due time: the bit of the stack goes and its cool time ends (R162). -/
theorem exec_refreshDoubledClear_of_cool {s : State} {st : Fin 8} {dt t0 : Nat} (hcool : (s.advance dt).mem.chan[st].coolSince = some t0)
    (hdue : t0 + 100000000 ≤ (s.advance dt).now) (hbit : bit ((s.advance dt).reg Key.refreshDoubled) st = true) :
    exec (.refreshDoubledClear st dt) s = .next (((s.advance dt).setReg Key.refreshDoubled
      ((s.advance dt).reg Key.refreshDoubled - 2 ^ st.val)).modStack st (fun x => { x with coolSince := none })) := by
  change execRefreshDoubledClear st dt s = _
  simp only [execRefreshDoubledClear, hcool]
  exact congrArg Host.Outcome.next (if_pos ⟨hdue, hbit⟩)

/-- Settles O24: each row is a branch of its definition, which changes the one stack, and what it counts and logs beside that is no
entry of another clause. -/
theorem refreshFollowsSlotsAndForcesLateOnes : Obligations.RefreshFollowsSlotsAndForcesLateOnes := by
  unfold Obligations.RefreshFollowsSlotsAndForcesLateOnes
  intro s st dt found u
  refine ⟨exec_refreshSlot_of_quiet, exec_refreshSlot_of_busy, fun v hv => ?slot, fun him hruns hdue => ?forced,
    exec_forcedRefresh_of_not_due, fun t0 hs hcool hdue hbit hlt => ?clear⟩
  case slot =>
    rw [quietSlot_of_no_scrub hv]
    refine ⟨?_, ?_, fun j hj => chan_modStack_other v _ hj, State.modStack_cells v st _⟩ <;> rw [chan_modStack_same]
  case forced =>
    obtain ⟨C, e⟩ := exec_forcedRefresh_of_due him hruns hdue
    refine ⟨_, e, ?_, ?_, countForced_newest u st, reg_countForced u st, fun j hj => ?_, ?_⟩
    · rw [chan_modStack_same]
      simp [u]
    · rw [chan_modStack_same]
    · rw [chan_modStack_other _ _ hj]
      simp [u]
    · simp [u]
  case clear =>
    refine ⟨_, exec_refreshDoubledClear_of_cool hcool hdue hbit, ?_, ?_, onlyRegs_setReg u _ _ _ List.mem_cons_self⟩
    · have hfits : u.reg Key.refreshDoubled - 2 ^ st.val < dictModulus Key.refreshDoubled :=
        (Nat.sub_le _ _).trans_lt (hlt.trans_le refreshDoubled_holds_eight_bits)
      rw [State.reg_modStack, reg_setReg_same _ _ _ (canonical_advance s dt hs), Nat.mod_eq_of_lt hfits]
    · rw [chan_modStack_same]

/-! ### Patrol scrub (R164) -/

section
variable {s : State} {ch addr : Nat} {found : List (Nat × Finding)}

theorem exec_scrubRead_of_channel (hup : s.hubUp = true) (hon : s.force Key.scrubEnable ≠ 0) (hch : ch < 256) :
    exec (.scrubRead ch found) s = .next ((s.tellFound noCtx 2 found).scrubTransfer ch) := by
  change execScrubRead ch found s = _
  simp [execScrubRead, hup, hon, Nat.not_le.mpr hch]

theorem exec_scrubRead_of_reserve (hup : s.hubUp = true) (hch : 256 ≤ ch) : exec (.scrubRead ch []) s =
    .next (s.modMem (fun m => { m with reserveScrub := (m.reserveScrub + 64) % reserveBytes })) := by
  change execScrubRead ch [] s = _
  simp [execScrubRead, hup, hch, State.modMem]

theorem exec_scrubWriteback_of_listed (hup : s.hubUp = true) (h : s.mem.scrubFix.contains addr = true) :
    exec (.scrubWriteback addr) s = .next (s.modMem (fun m => { m with
      scrubFix := m.scrubFix.filter (· != addr)
      upsets := m.upsets.filter (fun x => x.1 / 64 != addr / 64) })) :=
  congrArg Host.Outcome.next (if_pos ⟨hup, h⟩)

theorem exec_scrubWriteback_of_not_listed (h : s.mem.scrubFix.contains addr = false) : exec (.scrubWriteback addr) s = .next s :=
  congrArg Host.Outcome.next (if_neg (fun hfix => Bool.false_ne_true (h ▸ hfix.2)))

end

theorem mem_of_sparseGet_ne {α : Type} {l : List (Nat × α)} {k : Nat} {d : α} (h : sparseGet l k d ≠ d) :
    (k, sparseGet l k d) ∈ l := by
  induction l with
  | nil => exact absurd rfl h
  | cons x l ih =>
    obtain ⟨a, y⟩ := x
    rw [sparseGet] at h ⊢
    split
    · next e => simp [e]
    · next e => rw [if_neg e] at h; exact List.mem_cons_of_mem _ (ih h)

/-- The scrubber's place short of the channel's end is where it was moved, and the pass goes on (R164). -/
theorem scrubTo_of_lt {s : State} {ch pos : Nat} (hpos : pos ≠ 0) (hend : pos < scrubEnd) :
    s.scrubTo ch pos = s.modMem (fun m => { m with scrub := sparseSet m.scrub ch pos 0 }) := by
  have hplace : sparseGet (sparseSet s.mem.scrub ch pos 0) ch 0 = pos := sparseGet_sparseSet_ne _ _ _ _ _ hpos
  have hlisted := mem_of_sparseGet_ne (hplace.trans_ne hpos)
  rw [hplace] at hlisted
  rw [State.scrubTo, Nat.min_eq_right hend.le]
  refine if_neg fun hdone => ?_
  have := List.all_eq_true.mp hdone.2 _ hlisted
  exact hend.ne (beq_iff_eq.mp this)

theorem scrubNext_congr {s t : State} (h : t.mem.extents = s.mem.extents) (ch pos fuel : Nat) :
    t.scrubNext ch pos fuel = s.scrubNext ch pos fuel := by
  induction fuel generalizing pos with
  | zero => rfl
  | succ fuel ih => simp only [State.scrubNext, h, ih]

/-- The scrub of a transfer with no word in error moves the channel's place on and notes when the pass began, no more (R164). -/
theorem scrubTransfer_of_clean {s : State} {ch pos : Nat}
    (hpos : pos = s.scrubNext ch (sparseGet s.mem.scrub ch 0) (s.mem.extents.length + 1))
    (hend : pos + 1 < scrubEnd) (hclean : s.suspects (fun u _ => u / 256 * 256 == addrOfChannel ch (pos * 256)) = []) :
    ∃ start, s.scrubTransfer ch =
      { s with mem := { s.mem with scrubStart := start, scrub := sparseSet s.mem.scrub ch (pos + 1) 0 } } := by
  obtain ⟨start, u, hu, hbegin⟩ : ∃ start u, u = s.modMem (fun m => { m with scrubStart := start }) ∧
      (if s.mem.scrub.isEmpty then s.modMem (fun m => { m with scrubStart := s.now }) else s) = u := by
    split <;> exact ⟨_, _, rfl, rfl⟩
  have hnext : u.scrubNext ch (sparseGet u.mem.scrub ch 0) (u.mem.extents.length + 1) = pos := by
    rw [hpos, hu]
    exact scrubNext_congr (by rfl) ch _ _
  have hclean' : u.suspects (fun v _ => v / 256 * 256 == addrOfChannel ch (pos * 256)) = [] := by
    rw [hu]
    exact hclean
  have htransfer : s.scrubTransfer ch = u.scrubTo ch (pos + 1) := by
    rw [State.scrubTransfer, hbegin]
    dsimp only
    rw [hnext, if_neg (by omega), hclean']
    rfl
  exact ⟨start, by rw [htransfer, scrubTo_of_lt (Nat.succ_ne_zero pos) hend, hu]; rfl⟩

/-! ### Error rates (R165) -/

/-- The corrections of a history that fall in the 60 s before a tick. -/
def recentCe (now : Nat) (l : List (Nat × Nat)) : List (Nat × Nat) := l.filter (fun x => decide (now < x.1 + minuteTicks))

/-- Code words corrected in a history. -/
def sumCe (l : List (Nat × Nat)) : Nat := l.foldl (fun n x => n + x.2) 0

/-- One stack's part of ERROR_RATE_UPDATE: its history is cut to 60 s and its rate set (R165). -/
def State.rateStack (now : Nat) (s : State) (i : Fin 8) : State :=
  let s := s.modStack i (fun x => { x with ceHistory := recentCe now x.ceHistory })
  s.setReg (Key.hbmCeRate i) (sumCe s.mem.chan[i].ceHistory)

section
variable (now : Nat) (s : State)

@[simp] theorem rateStack_cells (i : Fin 8) : (s.rateStack now i).mem.cells = s.mem.cells := rfl

theorem canonical_rateStack (i : Fin 8) (h : Canonical s) : Canonical (s.rateStack now i) :=
  canonical_setReg _ _ _ (canonical_modStack _ _ _ h)

theorem reg_rateStack_same (i : Fin 8) (h : Canonical s) : (s.rateStack now i).reg (Key.hbmCeRate i) =
    sumCe (recentCe now s.mem.chan[i].ceHistory) % dictModulus (Key.hbmCeRate i) := by
  rw [State.rateStack, reg_setReg_same _ _ _ (canonical_modStack _ _ _ h), chan_modStack_same]

theorem reg_rateStack_other {i j : Fin 8} (h : j ≠ i) : (s.rateStack now i).reg (Key.hbmCeRate j) = s.reg (Key.hbmCeRate j) := by
  have hkey : Key.hbmCeRate j ≠ Key.hbmCeRate i := by
    have := Fin.val_ne_of_ne h
    unfold Key.hbmCeRate
    omega
  rw [State.rateStack, reg_setReg_other _ _ _ _ hkey, State.reg_modStack]

theorem chan_rateStack_other {i j : Fin 8} (h : j ≠ i) : (s.rateStack now i).mem.chan[j] = s.mem.chan[j] := by
  rw [State.rateStack, State.setReg_mem, chan_modStack_other s _ h]

end

/-- The rate of every stack of a list is set from that stack's own history. -/
theorem reg_forEach_rateStack (now : Nat) {l : List (Fin 8)} (hl : l.Nodup) {s : State} (hs : Canonical s) (i : Fin 8) :
    (s.forEach l (State.rateStack now)).reg (Key.hbmCeRate i) =
      if i ∈ l then sumCe (recentCe now s.mem.chan[i].ceHistory) % dictModulus (Key.hbmCeRate i) else s.reg (Key.hbmCeRate i) := by
  induction l generalizing s with
  | nil => rfl
  | cons j l ih =>
    obtain ⟨hj, hl⟩ := List.nodup_cons.mp hl
    refine (ih hl (canonical_rateStack now s j hs)).trans ?_
    by_cases e : i = j
    · subst e
      rw [if_neg hj, if_pos List.mem_cons_self, reg_rateStack_same now s i hs]
    · rw [reg_rateStack_other now s e, chan_rateStack_other now s e]
      simp [e]

theorem hbmCeRate_ne_reserveCeRate : ∀ i : Fin 8, Key.hbmCeRate i ≠ Key.reserveCeRate := by decide

theorem hbmCeRate_ne_portCrcRate : ∀ (i : Fin 8) (p : Fin 16), Key.hbmCeRate i ≠ Key.portCrcRate p := by decide

/-- The rates of the stacks, as ERROR_RATE_UPDATE sets them first (R165). -/
def State.rateStacks (s : State) : State := s.forEach [0, 1, 2, 3, 4, 5, 6, 7] (State.rateStack s.now)

theorem rateStacks_cells (s : State) : s.rateStacks.mem.cells = s.mem.cells :=
  forEach_induct (fun t => t.mem.cells = s.mem.cells) _ (fun t i => (rateStack_cells s.now t i).trans) _ s rfl

theorem reg_rateStacks {s : State} (i : Fin 8) (hs : Canonical s) : s.rateStacks.reg (Key.hbmCeRate i) =
    sumCe (recentCe s.now s.mem.chan[i].ceHistory) % dictModulus (Key.hbmCeRate i) := by
  have hi : ∀ i : Fin 8, i ∈ ([0, 1, 2, 3, 4, 5, 6, 7] : List (Fin 8)) := by decide
  exact (reg_forEach_rateStack s.now (by decide) hs i).trans (if_pos (hi i))

/-- Memory and the rates of the stacks are as before. -/
def KeepsStackRates (s t : State) : Prop :=
  t.mem.cells = s.mem.cells ∧ ∀ i : Fin 8, t.reg (Key.hbmCeRate i) = s.reg (Key.hbmCeRate i)

/-- The rates of the stacks come first; those of the Reserve Memory and of the ports keep them (R165). -/
theorem exec_errorRateUpdate_cases (s : State) (dt : Nat) :
    ∃ t, exec (.errorRateUpdate dt) s = .next t ∧ KeepsStackRates (s.advance dt).rateStacks t := by
  refine ⟨_, rfl, forEach_induct (KeepsStackRates (s.advance dt).rateStacks) _ ?port allPorts _ ?reserve⟩
  case port =>
    rintro t p ⟨hcells, hregs⟩
    exact ⟨hcells, fun i => (reg_setReg_other _ _ _ _ (hbmCeRate_ne_portCrcRate i p)).trans (hregs i)⟩
  case reserve => exact ⟨rfl, fun i => reg_setReg_other _ _ _ _ (hbmCeRate_ne_reserveCeRate i)⟩

/-- Settles O25: the rows of the scrubber are branches of their definitions, and each stack's rate is set once. -/
theorem scrubAndErrorRatesAdvance : Obligations.ScrubAndErrorRatesAdvance := by
  unfold Obligations.ScrubAndErrorRatesAdvance
  intro s ch addr dt found
  refine ⟨exec_scrubRead_of_channel, fun pos hpos hend hclean => ?transfer, exec_scrubRead_of_reserve, exec_scrubWriteback_of_listed,
    exec_scrubWriteback_of_not_listed, fun hs => ?rates⟩
  case transfer =>
    obtain ⟨start, e⟩ := scrubTransfer_of_clean hpos hend hclean
    rw [e]
    exact ⟨sparseGet_sparseSet_ne _ _ _ _ _ (Nat.succ_ne_zero pos), rfl, rfl⟩
  case rates =>
    obtain ⟨t, e, hcells, hregs⟩ := exec_errorRateUpdate_cases s dt
    refine ⟨t, e, hcells.trans ?_, fun i => (hregs i).trans ?_⟩
    · rw [rateStacks_cells, State.advance_mem]
    · rw [reg_rateStacks i (canonical_advance s dt hs), advance_now, State.advance_mem]
      rfl

end Sys2Proof.Machine
end

section
/-! SUPPORT. The proofs of tiers and placement (spec/09): plans, moves, digests and hints of the Placement Engine, and the tiles the Tile
Codec delivers. -/
namespace Sys2Proof.Machine
open Sys2Proof.Safety

/-! ### What the Placement Engine and the Tile Codec count and log (R180, R183) -/

/-- A count of source 0x07 with its WARNING, which names no context and no fault code. -/
def State.warnCount (s : State) (k value : Nat) : State := (s.bump k 1).log sevWarning noCtx 0x07 none32 k value

section
variable (s : State) (k value : Nat)

@[simp] theorem State.warnCount_mem : (s.warnCount k value).mem = s.mem := by
  simp [State.warnCount]

@[simp] theorem State.warnCount_ctxs : (s.warnCount k value).ctxs = s.ctxs := by
  simp [State.warnCount]

@[simp] theorem State.run_warnCount (c : Fin 4) (q : Fin 8) : (s.warnCount k value).run c q = s.run c q := by
  simp [State.warnCount]

theorem onlyRegs_warnCount : OnlyRegs [k, Key.eventLogHead, Key.eventLost] s (s.warnCount k value) :=
  onlyRegs_trans (onlyRegs_bump s k 1 _ List.mem_cons_self)
    (onlyRegs_mono (onlyRegs_log _ _ _ _ _ _ _) fun _ h => List.mem_cons_of_mem _ h)

variable {k} in
theorem reg_warnCount (hk : k ∉ [Key.eventLogHead, Key.eventLost]) (hd : dictDefault k = 0) (h : s.reg k + 1 < dictModulus k) :
    (s.warnCount k value).reg k = s.reg k + 1 := by
  unfold State.warnCount
  rw [onlyRegs_log _ _ _ _ _ _ _ k hk, reg_bump_same s k 1 one_ne_zero h hd]

end

/-- The newest event after a record without a fault code has code 0. -/
theorem log_newest (s : State) (sev c src cmd entry value : Nat) :
    ∃ e, (s.log sev c src cmd entry value).events.head? = some e ∧ e.severity = sev ∧ e.code = 0 := by
  unfold State.log State.logMask State.bump
  dsimp only
  split_ifs <;> exact ⟨_, rfl, rfl, rfl⟩

/-! ### Plans, moves, digests and hints (R178, R180, R184, R186) -/

section
variable {s : State}

theorem exec_planComplete_of_computing {p : Plan} (hp : s.mem.plans.find? (fun p => !p.computed) = some p) :
    exec .planComplete s = .next ((s.modMem (fun m => { m with
      plans := m.plans.map (fun x => if x.madeAt = p.madeAt then { x with computed := true } else x) })).startMoves p) := by
  change execPlanComplete s = _
  simp only [execPlanComplete, hp]

theorem exec_planComplete_of_none (hp : s.mem.plans.find? (fun p => !p.computed) = none) : exec .planComplete s = .next s := by
  change execPlanComplete s = _
  simp only [execPlanComplete, hp]

theorem exec_moveComplete_of_ready {handle owner : Nat} {m : Move} (data : List Byte) (ok : Bool)
    (hm : s.mem.moves.find? (fun m => m.handle == handle && m.owner == owner && !m.done) = some m)
    (hready : s.codecBusy (if m.kind = 1 then 4 else 3) = false) :
    exec (.moveComplete handle owner data ok) s =
      .next (if ok then s.finishMove m data ok else (s.finishMove m data ok).refetch handle) := by
  change execMoveComplete handle owner data ok s = _
  simp [execMoveComplete, hm, hready]

variable (s) in
theorem exec_planDigest_of_equal : exec (.planDigest (s.reg Key.planDigest)) s = .next s := by
  change execPlanDigest _ s = _
  exact congrArg Host.Outcome.next (if_pos (.inr rfl))

theorem exec_planDigest_of_different {d : Nat} (hup : s.hubUp = true) (hd : d ≠ s.reg Key.planDigest) :
    exec (.planDigest d) s = .next (s.warnCount Key.placeDigestMismatch d) := by
  change execPlanDigest d s = _
  exact congrArg Host.Outcome.next (if_neg (by simp [hup, hd]))

theorem exec_stagingHint_of_lower {layer expert h : Nat} {o : ObjRec} {i : ObjInst} (hup : s.hubUp = true)
    (hh : s.expertHandle layer expert = some h) (ho : s.objRec h = some o)
    (hi : s.mem.objects.find? (fun i => i.handle == h && i.owner == 4) = some i) (hhot : i.hot = none) (hlow : i.low.isSome = true)
    (hbegun : ∀ c : Fin 4, (s.ctx c).begun.contains layer = false) (hprom : s.promoting h 4 = false)
    (hstaged : s.mem.stagings.any (fun g => g.handle == h) = false) :
    exec (.stagingHint layer expert) s =
      .next (s.startStaging 2 (s.force Key.placeContext) 8 h layer (List.range o.tileCount)) := by
  have hany : allCtx.any (fun c => (s.ctx c).begun.contains layer) = false :=
    List.any_eq_false.mpr fun c _ => by simp only [hbegun c, Bool.false_eq_true, not_false_eq_true]
  change execStagingHint layer expert s = _
  rw [execStagingHint, if_pos hup]
  simp only [State.stagingHint, hh, ho, hi]
  refine congrArg Host.Outcome.next (if_neg ?_)
  rw [hany, hprom, hstaged, hhot, Option.isNone_eq_false_iff.mpr hlow]
  exact Bool.false_ne_true

end

/-- Settles O26: the conditions of each clause choose its branch of the row, and a digest that differs is a count and an event. -/
theorem plansMovesAndDigestsProceed : Obligations.PlansMovesAndDigestsProceed := by
  unfold Obligations.PlansMovesAndDigestsProceed
  intro s
  refine ⟨fun p => exec_planComplete_of_computing, exec_planComplete_of_none, fun handle owner data m hm hready => ?moves,
    exec_planDigest_of_equal s, fun d hup hd => ?digest, fun layer expert h o i => exec_stagingHint_of_lower⟩
  case moves => exact ⟨exec_moveComplete_of_ready data true hm hready, exec_moveComplete_of_ready data false hm hready⟩
  case digest =>
    exact ⟨_, exec_planDigest_of_different hup hd, State.warnCount_mem .., State.warnCount_ctxs ..,
      reg_warnCount s d (by decide) (by decide), log_newest .., onlyRegs_warnCount s _ d⟩

/-! ### Tiles of the Tile Codec (R183, R184) -/

/-- A tile marked done in the staging of a number, with what each staging's ring then holds. -/
def State.markDone (s : State) (n tile : Nat) (ring : Staging → List Host.Cell) : State :=
  s.modMem (fun m => { m with stagings := m.stagings.map (fun x =>
    if x.number = n then { x with done := tile :: x.done, ring := ring x } else x) })

theorem done_markDone (s : State) (n tile : Nat) (ring : Staging → List Host.Cell) :
    (s.markDone n tile ring).mem.stagings.map (fun x => (x.number, x.done)) =
      s.mem.stagings.map (fun x => (x.number, if x.number = n then tile :: x.done else x.done)) := by
  rw [State.markDone, State.modMem_mem, List.map_map]
  refine List.map_congr_left fun x _ => ?_
  dsimp only [Function.comp]
  split <;> rfl

/-- A tile's lower copy poisoned, once. -/
def State.poisonLow (s : State) (h owner tile : Nat) : State :=
  s.modInst h owner (fun i => { i with low := i.low.map (fun l =>
    { l with poisoned := if l.poisoned.contains tile then l.poisoned else tile :: l.poisoned }) })

section
variable (s : State) (h owner tile : Nat)

@[simp] theorem State.poisonLow_cells : (s.poisonLow h owner tile).mem.cells = s.mem.cells := rfl

@[simp] theorem State.poisonLow_stagings : (s.poisonLow h owner tile).mem.stagings = s.mem.stagings := rfl

@[simp] theorem State.reg_poisonLow (k : Nat) : (s.poisonLow h owner tile).reg k = s.reg k := rfl

@[simp] theorem State.run_poisonLow (c : Fin 4) (q : Fin 8) : (s.poisonLow h owner tile).run c q = s.run c q := rfl

end

theorem val_of_ctxIndex? {n : Nat} {c : Fin 4} (h : ctxIndex? n = some c) : n = c.val := by
  unfold ctxIndex? at h
  split at h
  · exact congrArg Fin.val (Option.some.inj h)
  · exact absurd h (by simp)

section
variable {s : State} {g : Staging} {o : ObjRec} {tile : Nat}

/-- The row delivers to the first staging of a command's class that waits for the tile (R184). -/
theorem exec_codecTileDone_of_first {handle : Nat} (data : List Byte) (ok : Bool)
    (hg : (s.mem.stagings.filter (fun g => g.handle == handle && g.tiles.contains tile && !g.done.contains tile)).find?
      (fun g => g.user != 2) = some g)
    (ho : s.objRec handle = some o) (hfirst : s.codecEarlier g = false) :
    exec (.codecTileDone handle tile data ok) s = .next (s.stagingTile g o tile data ok) := by
  have huser : g.user ≠ 2 := by simpa using List.find?_some hg
  change execCodecTileDone handle tile data ok s = _
  simp only [execCodecTileDone, hg, ho]
  exact congrArg Host.Outcome.next (if_neg (by simp [huser, hfirst]))

/-- A tile that passes its check and is not poisoned is marked done in its staging, after its count and its bytes. -/
theorem stagingTile_of_passed (data : List Byte) (hclean : s.tilePoisoned g.handle (s.ownerOf g.handle g.ctx) tile = false) :
    ∃ (t : State) (ring : Staging → List Host.Cell), t.mem.stagings = s.mem.stagings ∧
      s.stagingTile g o tile data true = t.markDone g.number tile ring := by
  refine ⟨_, _, ?_, if_neg (by simp [hclean])⟩
  split
  · rw [State.memWrite, apply_ite State.mem, State.bump_mem, ite_self]
  · rw [apply_ite State.mem, State.bump_mem, ite_self]

/-- A tile that fails its check for no command that runs is a count, an event and the poison of its copy. -/
theorem stagingTile_of_failed (data : List Byte)
    (hidle : ∀ (c : Fin 4) (q : Fin 8), g.ctx = c.val → g.queue = q.val → s.run c q = none) :
    s.stagingTile g o tile data false =
      (s.warnCount Key.tcCheckFail g.handle).poisonLow g.handle (s.ownerOf g.handle g.ctx) tile := by
  unfold State.stagingTile
  dsimp only
  rw [if_pos (.inl rfl)]
  split
  · next c q hc hq =>
    have hqueue : g.queue = q.val := by
      split at hq
      · exact congrArg Fin.val (Option.some.inj hq)
      · exact absurd hq (by simp)
    have hnone := hidle c q (val_of_ctxIndex? hc) hqueue
    rw [← State.run_warnCount s Key.tcCheckFail g.handle c q, ← State.run_poisonLow _ g.handle (s.ownerOf g.handle g.ctx) tile] at hnone
    split
    · rfl
    · split
      · next r hr => exact absurd (hr.symm.trans hnone) (Option.some_ne_none r)
      · rfl
  · rfl

end

/-- Settles O27: a delivery marks its own staging, and a tile that fails changes only the poison of its copy beside what is counted. -/
theorem codecTilesAreDelivered : Obligations.CodecTilesAreDelivered := by
  unfold Obligations.CodecTilesAreDelivered
  intro s handle tile data g o hg ho hfirst
  refine ⟨fun ok => exec_codecTileDone_of_first data ok hg ho hfirst, fun hclean => ?passed, fun hidle => ?failed⟩
  case passed =>
    have hhandle : g.handle = handle := by
      have hcand := List.of_mem_filter (List.mem_of_find?_eq_some hg)
      simp only [Bool.and_eq_true, beq_iff_eq] at hcand
      obtain ⟨⟨hh, -⟩, -⟩ := hcand
      exact hh
    subst hhandle
    obtain ⟨t, ring, hkept, e⟩ := stagingTile_of_passed data hclean
    rw [e, done_markDone, hkept]
  case failed =>
    rw [stagingTile_of_failed data hidle]
    exact ⟨by simp, by simp, reg_warnCount s g.handle (by decide) (by decide)⟩

end Sys2Proof.Machine
end

section
/-! SUPPORT. The proofs of the buffer pools (spec/10): references and double frees, and the head of a pool's wait queue. -/
namespace Sys2Proof.Machine
open Sys2Proof.Safety

/-! ### Freeing a buffer (R197, R198) -/

section
variable (s : State) (o p was : Nat) (b : Buf)

@[simp] theorem State.notePool_mem : (s.notePool o p).mem = s.mem := by simp [State.notePool]

@[simp] theorem State.notePool_pools : (s.notePool o p).pools = s.pools := by simp [State.notePool]

@[simp] theorem State.notePressed_mem : (s.notePressed p was).mem = s.mem := by
  rw [State.notePressed, apply_ite State.mem, State.bump_mem, ite_self]

@[simp] theorem State.notePressed_pools : (s.notePressed p was).pools = s.pools := by
  rw [State.notePressed, apply_ite State.pools, State.bump_pools, ite_self]

@[simp] theorem State.poolFree_mem : (s.poolFree b).mem = s.mem := by
  unfold State.poolFree
  dsimp only
  split <;> simp

@[simp] theorem State.poolFree_bufs :
    (s.poolFree b).pools.bufs = s.pools.bufs.filter (fun y => !(y.pool == b.pool && y.index == b.index)) := by
  unfold State.poolFree
  dsimp only
  split <;> simp

end

/-! ### References (R198, R199) -/

/-- `y` is buffer `index` of pool `p`. -/
def Buf.isAt (p index : Nat) (y : Buf) : Bool := y.pool == p && y.index == index

theorem Buf.isAt_iff {p index : Nat} {y : Buf} : y.isAt p index = true ↔ y.pool = p ∧ y.index = index := by
  simp [Buf.isAt]

/-- `y` with `n` references fewer, where it is buffer `index` of pool `p`. -/
def Buf.dropRefs (p index n : Nat) (y : Buf) : Buf := if y.isAt p index then { y with refs := y.refs - n } else y

section
variable {p index n : Nat}

theorem Buf.dropRefs_of_isAt {y : Buf} (h : y.isAt p index = true) : y.dropRefs p index n = { y with refs := y.refs - n } := if_pos h

theorem Buf.dropRefs_of_not_isAt {y : Buf} (h : y.isAt p index = false) : y.dropRefs p index n = y := if_neg (by simp [h])

@[simp] theorem Buf.isAt_dropRefs (y : Buf) : (y.dropRefs p index n).isAt p index = y.isAt p index := by
  unfold Buf.dropRefs
  split <;> rfl

theorem find?_map_dropRefs {l : List Buf} {b : Buf} (hb : l.find? (Buf.isAt p index) = some b) :
    (l.map (Buf.dropRefs p index n)).find? (Buf.isAt p index) = some { b with refs := b.refs - n } := by
  have hcomp : Buf.isAt p index ∘ Buf.dropRefs p index n = Buf.isAt p index := funext Buf.isAt_dropRefs
  rw [List.find?_map, hcomp, hb, Option.map_some, Buf.dropRefs_of_isAt (List.find?_some hb)]

theorem filter_map_dropRefs (l : List Buf) :
    (l.map (Buf.dropRefs p index n)).filter (fun y => !y.isAt p index) = l.filter (fun y => !y.isAt p index) := by
  have hcomp : (fun y => !Buf.isAt p index y) ∘ Buf.dropRefs p index n = fun y => !y.isAt p index :=
    funext fun y => congrArg not (Buf.isAt_dropRefs y)
  rw [List.filter_map, hcomp]
  refine (List.map_congr_left fun y hy => ?_).trans (List.map_id _)
  exact Buf.dropRefs_of_not_isAt (by simpa using List.of_mem_filter hy)

variable {s : State} {b : Buf}

theorem poolDrop_of_none (h : s.pools.bufs.find? (Buf.isAt p index) = none) :
    s.poolDrop p index n = (true, s.bump (Key.poolDoubleFreeCount p) 1) := by
  unfold Buf.isAt at h
  simp only [State.poolDrop, h]

theorem poolDrop_of_more (hb : s.pools.bufs.find? (Buf.isAt p index) = some b) (h : b.refs < n) :
    s.poolDrop p index n = (true, s.bump (Key.poolDoubleFreeCount p) 1) := by
  unfold Buf.isAt at hb
  simp only [State.poolDrop, hb, if_pos h]

theorem poolDrop_of_all (hb : s.pools.bufs.find? (Buf.isAt p index) = some b) :
    s.poolDrop p index b.refs = (false, s.poolFree b) := by
  unfold Buf.isAt at hb
  simp only [State.poolDrop, hb, lt_irrefl, if_false, if_true]

theorem poolDrop_of_fewer (hb : s.pools.bufs.find? (Buf.isAt p index) = some b) (h : n < b.refs) :
    s.poolDrop p index n = (false, s.modPools (fun x => { x with bufs := x.bufs.map (Buf.dropRefs p index n) })) := by
  unfold Buf.isAt at hb
  simp only [State.poolDrop, hb, if_neg h.not_gt, if_neg h.ne']
  rfl

theorem bufs_poolFree (hb : s.pools.bufs.find? (Buf.isAt p index) = some b) :
    (s.poolFree b).pools.bufs = s.pools.bufs.filter (fun y => !y.isAt p index) := by
  obtain ⟨rfl, rfl⟩ := Buf.isAt_iff.mp (List.find?_some hb)
  exact State.poolFree_bufs s b

/-- A freed buffer is no longer found at its place. -/
theorem find?_poolFree (hb : s.pools.bufs.find? (Buf.isAt p index) = some b) :
    (s.poolFree b).pools.bufs.find? (Buf.isAt p index) = none := by
  rw [bufs_poolFree hb, List.find?_eq_none]
  intro y hy
  simpa using List.of_mem_filter hy

end

/-- A double free is counted and changes nothing else (R199). -/
theorem bump_poolDoubleFreeCount (s : State) (p : Fin 16) :
    SameButRegs s (s.bump (Key.poolDoubleFreeCount p) 1) ∧
      OnlyRegs [Key.poolDoubleFreeCount p] s (s.bump (Key.poolDoubleFreeCount p) 1) ∧
      (s.reg (Key.poolDoubleFreeCount p) + 1 < dictModulus (Key.poolDoubleFreeCount p) →
        (s.bump (Key.poolDoubleFreeCount p) 1).reg (Key.poolDoubleFreeCount p) = s.reg (Key.poolDoubleFreeCount p) + 1) := by
  have hd : ∀ p : Fin 16, dictDefault (Key.poolDoubleFreeCount p) = 0 := by decide
  exact ⟨sameButRegs_bump s _ 1, onlyRegs_bump s _ 1 _ List.mem_cons_self, fun h => reg_bump_same s _ 1 one_ne_zero h (hd p)⟩

/-- Settles O60: fewer references than the count are subtracted in place, all of them leave nothing to be found, and a further
reference or one too many is only counted. -/
theorem referencesFreeABufferOnce : Obligations.ReferencesFreeABufferOnce := by
  unfold Obligations.ReferencesFreeABufferOnce
  intro s p index n b hb doubleFree
  have counted {t : State} {m : Nat} (h : t.poolDrop p index m = (true, t.bump (Key.poolDoubleFreeCount p) 1)) : doubleFree t m := by
    unfold doubleFree
    rw [h]
    exact ⟨rfl, bump_poolDoubleFreeCount t p⟩
  refine ⟨fun h => ?fewer, ?all, fun h => counted (poolDrop_of_more hb h)⟩
  case fewer =>
    rw [poolDrop_of_fewer hb h]
    exact ⟨rfl, rfl, List.length_map .., find?_map_dropRefs hb, filter_map_dropRefs s.pools.bufs⟩
  case all =>
    rw [poolDrop_of_all hb]
    exact ⟨rfl, bufs_poolFree hb, State.poolFree_mem s b, counted (poolDrop_of_none (find?_poolFree hb))⟩

/-! ### The head of a wait queue (R194) -/

section
variable {s : State} {p : Nat} {w : PoolWait}

theorem poolTestHead_of_none (h : s.pools.waits.find? (fun w => w.pool == p) = none) : s.poolTestHead p = (none, s) := by
  simp only [State.poolTestHead, h]

theorem poolTestHead_of_full (hw : s.pools.waits.find? (fun w => w.pool == p) = some w)
    (hres : s.poolReserved w.owner p = false) (hroom : s.poolRoom p = false) : s.poolTestHead p = (none, s) := by
  simp [State.poolTestHead, hw, hres, hroom]

theorem poolTestHead_of_granted (hw : s.pools.waits.find? (fun w => w.pool == p) = some w)
    (h : s.poolReserved w.owner p = true ∨ s.poolRoom p = true) :
    s.poolTestHead p =
      let g := ((s.modPools (fun x => { x with waits := x.waits.erase w })).poolStalled w).poolTake w.buf
      (some (w, g.1), g.2) := by
  simp only [State.poolTestHead, hw, Bool.or_eq_true, if_pos h]

variable {pool : Fin 16}

theorem exec_poolWaitGrant_of_notGranted (h : s.poolTestHead pool = (none, s)) : exec (.poolWaitGrant pool) s = .next s := by
  change execPoolWaitGrant pool s = _
  simp only [execPoolWaitGrant, h]

theorem exec_poolWaitGrant_of_granted {b : Buf} {t : State} {c : Fin 4} (h : s.poolTestHead pool = (some (w, b), t))
    (hc : ctxIndex? (w.owner / 8) = some c) :
    exec (.poolWaitGrant pool) s = .next ((((t.poolFill c b w.pieces).xchCount c b.layer (Key.xchPoolStallTicks c)
      (s.now - w.since)).relayPump c).exchangePump c) := by
  change execPoolWaitGrant pool s = _
  simp only [execPoolWaitGrant, h, hc]

end

/-- Settles O30: the row answers as the test of the queue's head does in each of its three cases. -/
theorem waitingLandingsAreGrantedInOrder : Obligations.WaitingLandingsAreGrantedInOrder := by
  unfold Obligations.WaitingLandingsAreGrantedInOrder
  intro s pool
  refine ⟨fun hnone => ?empty, fun w hw => ⟨fun hres hroom => ?full, fun c hc h => ?granted⟩⟩
  case empty => exact exec_poolWaitGrant_of_notGranted (poolTestHead_of_none hnone)
  case full => exact exec_poolWaitGrant_of_notGranted (poolTestHead_of_full hw hres hroom)
  case granted => exact exec_poolWaitGrant_of_granted (poolTestHead_of_granted hw h) hc

end Sys2Proof.Machine
end

section
/-! SUPPORT. The proofs of the host's register writes to ports, partition, time, checkpoint and power (spec/19 with the chapters of the
entries): a write through the register window is the action of its entry. -/
namespace Sys2Proof.Machine
open Sys2Proof.Safety

/-! ### Accepted writes through the register window (R374, R375, R382, R385) -/

/-- `k` is the key of entry `e`, a scalar that the host may write through the window in CONFIG and in RUN. -/
abbrev HostWritable (k : Nat) (e : DictEntry) : Prop :=
  dictEntry? k = some e ∧ e.type.scalar = true ∧ (e.access = .rw ∨ e.access = .wo) ∧
    e.bytes ≤ (if e.type = .u64 then 8 else 4) ∧ 0x1000 ≤ k / 256 ∧ k / 256 < 0xB000 ∧ k % 256 < 63 ∧ k ≠ Key.compatLevel

/-- The range of `k` is that of its table, with no further rule of a chapter. -/
abbrev PlainRange (k : Nat) : Prop :=
  ¬ (0x9030 ≤ k / 256 ∧ k / 256 ≤ 0x9033) ∧ ¬ (0x9050 ≤ k / 256 ∧ k / 256 ≤ 0x9053) ∧
    ¬ (0x9100 ≤ k / 256 ∧ k / 256 ≤ 0x910F) ∧ k % 256 ∉ (if 0x6100 ≤ k / 256 ∧ k / 256 ≤ 0x610F then [1, 3] else []) ∧
    k ∉ [Key.ckptSlotBytes, Key.partitionRequest, Key.ctxRequest, Key.compatLevel]

/-- An entry whose writes are accepted in CONFIG and in RUN for the values of its table's range. -/
abbrev PlainEntry (k : Nat) (e : DictEntry) : Prop :=
  HostWritable k e ∧ PlainRange k ∧ e.hi < 256 ^ e.bytes ∧ k ≠ Key.startFallbackReset

theorem addrKey_wordAddr {k : Nat} (hlo : 0x1000 ≤ k / 256) (hsub : k % 256 < 63) : addrKey (wordAddr k) = k := by
  unfold addrKey wordAddr; omega

section
variable {s : State} {k v : Nat} {e : DictEntry}

theorem inRange_of_plain (hk : PlainRange k) (hbytes : e.hi < 256 ^ e.bytes) (hv : e.lo ≤ v ∧ v ≤ e.hi) :
    s.inRange k e v = true := by
  obtain ⟨hctx, hmf, hpool, hport, hkey⟩ := hk
  simp only [List.mem_cons, List.not_mem_nil, or_false, not_or] at hkey
  obtain ⟨hslot, hpart, hreq, hcompat⟩ := hkey
  have hwindow : ¬ (0x9050 ≤ k / 256 ∧ k / 256 ≤ 0x9053 ∧ k % 256 = 2) := fun h => hmf ⟨h.1, h.2.1⟩
  unfold State.inRange
  rw [decide_eq_true ⟨hv.2.trans_lt hbytes, hv⟩, Bool.true_and, if_neg hctx, if_neg hwindow, if_neg hpool, if_neg hslot,
    if_neg hpart, if_neg hreq, if_neg hcompat]
  split_ifs at hport ⊢ <;> simp_all

/-- With no latch armed and no low word held, ending an access changes nothing. -/
theorem modAcc_clear_of_open (h : WindowOpen s) : s.modAcc (fun x => { x with latch := none, heldLow := none }) = s := by
  obtain ⟨-, hlatch, hheld⟩ := h
  have hacc : { s.acc with latch := none, heldLow := none } = s.acc := by
    cases hs : s.acc; simp_all
  exact congrArg (fun x => { s with acc := x }) hacc

theorem pf0_of_open (h : WindowOpen s) : s.pf0 = s := by
  unfold State.pf0
  rw [h.2.2]
  exact modAcc_clear_of_open h

/-- A good write through an open window that completes no 64-bit write is that of its word (R382). -/
theorem windowWrite_of_open {a : Nat} (h : WindowOpen s) (hgood : badAccess a = false) :
    s.windowWrite a v = s.writeWord a (v % 2 ^ 32) := by
  have hpf0 := pf0_of_open h
  obtain ⟨hlink, -, hheld⟩ := h
  unfold State.windowWrite
  simp [hlink, hgood, hheld, hpf0]

/-- The write of a high word whose low word is held writes the entry whole (R385). -/
theorem windowWrite_high {a lo : Nat} (h : WindowOpen s) (hgood : badAccess (a + 4) = false) :
    (s.modAcc (fun x => { x with heldLow := some (a, lo) })).windowWrite (a + 4) v =
      (s.writeScalar false (addrKey a) (lo + v % 2 ^ 32 * 2 ^ 32)).2 := by
  have hclear := modAcc_clear_of_open h
  obtain ⟨hlink, -, -⟩ := h
  have hlink' : (s.modAcc (fun x => { x with heldLow := some (a, lo) })).hostLink = true := hlink
  unfold State.windowWrite
  simp only [hlink', hgood, Bool.not_true, Bool.false_eq_true, if_false, State.modAcc_acc, if_true]
  exact congrArg (fun t : State => (t.writeScalar false (addrKey a) (lo + v % 2 ^ 32 * 2 ^ 32)).2) hclear

theorem entry?_of_open (h : RegistersOpen s) (k : Nat) : s.entry? k = dictEntry? k := by
  obtain ⟨-, -, hm⟩ := h
  refine if_neg ?_
  obtain hm | hm := hm <;> simp [State.romStage, hm]

variable (hs : RegistersOpen s) (hk : HostWritable k e) (hreset : k = Key.startFallbackReset → s.mstate = stConfig)
include hs hk hreset

theorem writeAllowed_of_open : s.writeAllowed k e = true := by
  obtain ⟨-, hstarted, hm⟩ := hs
  obtain ⟨-, -, hacc, -, -, -, -, hcompat⟩ := hk
  have hrwc : e.access ≠ .rwc := by obtain h | h := hacc <;> simp [h]
  have hclosed : ¬ (!s.started || !(s.mstate == stConfig || s.mstate == stRun)) = true := by
    simp only [hstarted, Bool.not_true, Bool.false_or, Bool.not_eq_true', Bool.or_eq_false_iff, beq_eq_false_iff_ne]
    tauto
  unfold State.writeAllowed
  rw [if_neg hcompat, if_neg hclosed, if_neg hrwc]
  split
  · next h => simp [hreset h]
  · rfl

variable (hv : s.inRange k e v = true)
include hv

/-- A value in range is accepted and applied by the right of its entry. -/
theorem writeScalar_of_open : s.writeScalar false k v = (stOk, s.applyScalar false k v e.access) := by
  have hallowed := writeAllowed_of_open hs hk hreset
  obtain ⟨hentry, hscalar, hacc, -, -, -, -, hcompat⟩ := hk
  have hro : e.access ≠ .ro := by obtain h | h := hacc <;> simp [h]
  have hok : s.checkScalar k v = stOk := by
    simp [State.checkScalar, hcompat, entry?_of_open hs, hentry, hro, hallowed, hscalar, hv]
  simp [State.writeScalar, hok, hentry]

/-- What the host puts into an entry in range is applied: in one word, or in the two of a U64 entry (R382, R385). -/
theorem hostPut_of_open : s.hostPut k v = s.applyScalar false k v e.access := by
  have hwrite := writeScalar_of_open hs hk hreset hv
  obtain ⟨hentry, hscalar, -, hbytes, hlo, hhi, hsub, hcompat⟩ := hk
  have haddr := addrKey_wordAddr hlo hsub
  have hv' : v < 256 ^ e.bytes := by
    unfold State.inRange at hv
    simp only [Bool.and_eq_true, decide_eq_true_eq] at hv
    exact hv.1.1
  have hgood : badAccess (wordAddr k) = false := by unfold badAccess wordAddr; simp; omega
  have hgood' : badAccess (wordAddr k + 4) = false := by unfold badAccess wordAddr; simp; omega
  have hwin : inAperture (wordAddr k) = false ∧ inWindow (wordAddr k) = true := by unfold inAperture inWindow wordAddr; simp; omega
  have hword (n : Nat) : s.writeWord (wordAddr k) n =
      if e.type = .u64 then s.modAcc (fun x => { x with heldLow := some (wordAddr k, n) }) else (s.writeScalar false k n).2 := by
    simp [State.writeWord, hwin, haddr, hcompat, entry?_of_open hs, hentry, hscalar]
  unfold State.hostPut
  rw [hentry]
  dsimp only
  split
  case isTrue hu =>
    have hlt : v < 2 ^ 64 := hv'.trans_le (Nat.pow_le_pow_right (n := 256) (by decide) (by simpa [hu] using hbytes))
    rw [windowWrite_of_open hs.1 hgood, hword, if_pos hu, windowWrite_high hs.1 hgood', haddr,
      show v % 2 ^ 32 % 2 ^ 32 + v / 2 ^ 32 % 2 ^ 32 * 2 ^ 32 = v by omega, hwrite]
  case isFalse hu =>
    have hlt : v < 2 ^ 32 := hv'.trans_le (Nat.pow_le_pow_right (n := 256) (by decide) (by simpa [hu] using hbytes))
    rw [windowWrite_of_open hs.1 hgood, hword, if_neg hu, Nat.mod_eq_of_lt hlt, hwrite]

end

/-! ### The entries of ports, partition, time, checkpoint and power -/

section
variable {s : State} (hs : RegistersOpen s)
include hs

theorem hostPut_of_plain {k v : Nat} {e : DictEntry} (hk : PlainEntry k e) (hv : e.lo ≤ v ∧ v ≤ e.hi) :
    s.hostPut k v = s.applyScalar false k v e.access := by
  obtain ⟨hwritable, hrange, hbytes, hreset⟩ := hk
  exact hostPut_of_open hs hwritable (fun h => absurd h hreset) (inRange_of_plain hrange hbytes hv)

/-- A row that is the host's write of an entry is the action of that write. -/
theorem exec_of_plain {i : Instr} {k v : Nat} {e : DictEntry} {t : State} (hk : PlainEntry k e) (hv : e.lo ≤ v ∧ v ≤ e.hi)
    (hrow : exec i s = .next (s.hostPut k v)) (ht : s.applyScalar false k v e.access = t) : exec i s = .next t := by
  rw [hrow, hostPut_of_plain hs hk hv, ht]

theorem hostPut_portEnable (p : Fin 16) {v : Nat} (hv : v ≤ 1) :
    s.hostPut (Key.portEnable p) v =
      let u := s.setReg (Key.portEnable p) v
      if v = 1 then u.enablePort p else u.disablePort p := by
  have hk : ∀ p : Fin 16, PlainEntry (Key.portEnable p) ⟨0x6100, 0x610F, 0x02, 0x02, .u8, 1, .rw, .val 1, 0, 1⟩ ∧
    Key.portEnable p ∉ [Key.configCrcRef, Key.powerCap, Key.bulkSelect] ∧
    allPorts.find? (fun (q : Fin 16) => Key.portEnable p == Key.portEnable q) = some p := by decide
  obtain ⟨hplain, hother, hfind⟩ := hk p
  simp only [List.mem_cons, List.not_mem_nil, or_false, not_or] at hother
  obtain ⟨href, hcap, hsel⟩ := hother
  rw [hostPut_of_plain hs hplain ⟨Nat.zero_le v, hv⟩]
  unfold State.applyScalar State.writeRw
  simp only [if_neg href, if_neg hcap, if_neg hsel, hfind]

theorem hostPut_partitionRequest {v : Nat} (hv : v ≤ 0xFFE) :
    s.hostPut Key.partitionRequest v = if v = 0 then s.leavePartition else s.joinPartition v := by
  have hrange : s.inRange Key.partitionRequest ⟨0x6010, 0x6010, 0x02, 0x02, .u16, 2, .wo, .val 0, 0, 65535⟩ v = true := by
    have hv16 : v ≤ 65535 := by omega
    simp [State.inRange, Key.partitionRequest, hv, hv16]; omega
  exact (hostPut_of_open hs (by decide) (fun h => absurd h (by decide)) hrange).trans rfl

theorem hostPut_startFallbackReset (h : s.mstate = stConfig) : s.hostPut Key.startFallbackReset 1 = s.fallbackReset := by
  have hk : HostWritable Key.startFallbackReset ⟨0xA000, 0xA000, 0x07, 0x07, .u8, 1, .wo, .val 0, 1, 1⟩ := by decide
  exact (hostPut_of_open hs hk (fun _ => h) (inRange_of_plain (by decide) (by decide) (by decide))).trans rfl

end

/-- Settles O52: each row is the host's write of its entry, which lies in range and is applied. -/
theorem moduleRegisterRowsAct : Obligations.ModuleRegisterRowsAct := by
  unfold Obligations.ModuleRegisterRowsAct
  intro s p v w tag hs hv hw htag0 htag
  have hv32 : 0 ≤ v ∧ v ≤ 4294967295 := ⟨Nat.zero_le v, Nat.le_of_lt_succ hv⟩
  have hw64 : 0 ≤ w ∧ w ≤ 18446744073709551615 := ⟨Nat.zero_le w, Nat.le_of_lt_succ hw⟩
  refine ⟨?enable, ?disable, ?join, ?teardown, ?rank, ?failed, ?time, ?revert, ?notice, ?software, ?restore, ?ref, fun hlo hhi => ?cap,
    fun hm => ?reset⟩
  case enable => exact congrArg Host.Outcome.next (hostPut_portEnable hs p le_rfl)
  case disable => exact congrArg Host.Outcome.next (hostPut_portEnable hs p (Nat.zero_le 1))
  case join => exact congrArg Host.Outcome.next ((hostPut_partitionRequest hs htag).trans (if_neg (by omega)))
  case teardown => exact congrArg Host.Outcome.next (hostPut_partitionRequest hs (Nat.zero_le _))
  case rank =>
    exact exec_of_plain hs (e := ⟨0x6300, 0x6300, 0x02, 0x02, .u64, 8, .wo, .val 0, 0, 18446744073709551615⟩) (by decide) hw64 rfl rfl
  case failed =>
    exact exec_of_plain hs (e := ⟨0x6400, 0x6400, 0x0B, 0x0B, .u32, 4, .wo, .val 0, 0, 4294967295⟩) (by decide) hv32 rfl rfl
  case time =>
    exact exec_of_plain hs (e := ⟨0x2020, 0x2020, 0x01, 0x01, .u64, 8, .wo, .val 0, 0, 18446744073709551615⟩) (by decide) hw64 rfl rfl
  case revert =>
    exact exec_of_plain hs (e := ⟨0x8020, 0x8020, 0x01, 0x01, .u32, 4, .wo, .val 0, 0, 4294967295⟩) (by decide) hv32 rfl rfl
  case notice =>
    exact exec_of_plain hs (e := ⟨0x8100, 0x8100, 0x04, 0x04, .u8, 1, .wo, .val 0, 1, 1⟩) (by decide) (by decide) rfl rfl
  case software =>
    exact exec_of_plain hs (e := ⟨0x8100, 0x8100, 0x03, 0x03, .u8, 1, .wo, .val 0, 1, 1⟩) (by decide) (by decide) rfl rfl
  case restore =>
    exact exec_of_plain hs (e := ⟨0x8150, 0x8150, 0x01, 0x01, .u32, 4, .wo, .val 0, 0, 4294967295⟩) (by decide) hv32 rfl rfl
  case ref =>
    exact exec_of_plain hs (e := ⟨0x1F00, 0x1F00, 0x01, 0x01, .u32, 4, .rw, .table, 0, 4294967295⟩) (by decide) hv32 rfl rfl
  case cap =>
    exact exec_of_plain hs (e := ⟨0x2100, 0x2100, 0x04, 0x04, .u16, 2, .rw, .val 1800, 600, 1800⟩) (by decide) ⟨hlo, hhi⟩ rfl rfl
  case reset => exact congrArg Host.Outcome.next (hostPut_startFallbackReset hs hm)

end Sys2Proof.Machine
end

section
/-! SUPPORT. The proofs of the training of ports (spec/11): the states of an attempt, its end and the next one. -/
namespace Sys2Proof.Machine
open Sys2Proof.Safety

/-! ### Training (R209 to R213) -/

theorem reg_setPortState_other (s : State) (p : Fin 16) (st : Nat) {k : Nat} (h : k ≠ Key.portState p) :
    (s.setPortState p st).reg k = s.reg k := reg_setReg_other s _ st k h

theorem portState_setPortState (s : State) (p : Fin 16) {st : Nat} (hs : Canonical s) (hst : st < 256) :
    (s.setPortState p st).reg (Key.portState p) = st := by
  have hm : ∀ p : Fin 16, dictModulus (Key.portState p) = 256 := by decide
  exact (reg_setReg_same s _ st hs).trans (by rw [hm p, Nat.mod_eq_of_lt hst])

theorem port_setPortState_same (s : State) (p : Fin 16) (st : Nat) :
    (s.setPortState p st).port p = { s.port p with stateSince := s.now } := port_modPort_same _ p _

theorem port_setPortState_other (s : State) {p r : Fin 16} (st : Nat) (h : r ≠ p) : (s.setPortState p st).port r = s.port r :=
  port_modPort_other _ p r _ h

section
variable {s : State} {p : Fin 16} {ppm skew inv fails corrected dt : Nat} {rev : Bool} {fl : FlitIn} {o : Caps}

theorem exec_detectComplete_of_detect (h : s.reg (Key.portState p) = 1) : exec (.detectComplete p) s = .next (s.setPortState p 2) := by
  change execDetectComplete p s = _
  exact congrArg Host.Outcome.next (if_pos h)

/-- What the receiver makes good of a lane bundle is the model's reading (log 145). -/
theorem receivable_iff : receivable ppm skew inv rev = true ↔ rev = false ∧ skew ≤ 4000 ∧ ppm ≤ 100 := by
  simp [receivable, and_assoc]

/-- Lock and deskew reached: NEGOTIATE is entered, and the own CAPS sent, to be repeated (R210, R211). -/
def State.enterNegotiate (s : State) (p : Fin 16) : State := (s.setPortState p 3).sendAwait p (.caps (s.ownCaps p))

section
variable (hst : s.reg (Key.portState p) = 2) (hrec : receivable ppm skew inv rev = true)
include hst hrec

theorem exec_trainComplete_of_no_caps (hcaps : ((s.enterNegotiate p).port p).capsSeen = none) :
    exec (.trainComplete p ppm skew inv rev) s = .next (s.enterNegotiate p) := by
  unfold State.enterNegotiate at *
  change execTrainComplete p ppm skew inv rev s = _
  simp [execTrainComplete, hst, hrec, hcaps]

theorem exec_trainComplete_of_caps (hcaps : ((s.enterNegotiate p).port p).capsSeen = some o) :
    exec (.trainComplete p ppm skew inv rev) s = .next ((s.enterNegotiate p).checkCaps p o) := by
  unfold State.enterNegotiate at *
  change execTrainComplete p ppm skew inv rev s = _
  simp [execTrainComplete, hst, hrec, hcaps]

end

theorem exec_trainComplete_of_not_receivable (hrec : receivable ppm skew inv rev = false) :
    exec (.trainComplete p ppm skew inv rev) s = .next s := by
  change execTrainComplete p ppm skew inv rev s = _
  exact congrArg Host.Outcome.next (if_pos (.inr (by simp [hrec])))

theorem exec_caps_of_negotiate (h : (s.rxLink p fl).reg (Key.portState p) = 3) :
    exec (.caps p fl o) s = .next ((s.rxLink p fl).checkCaps p o) := by
  change execCaps p fl o s = _
  exact congrArg Host.Outcome.next (if_pos h)

theorem exec_verifyEnd_of_verify (h : s.reg (Key.portState p) = 4) :
    exec (.verifyEnd p fails corrected) s = .next (
      let u := (s.bump (Key.portFecCorrected p) corrected).noteCrc p fails
      if fails = 0 ∧ corrected < 10000 then u.linkUp p else u.failAttempt p) := by
  change execVerifyEnd p fails corrected s = _
  exact congrArg Host.Outcome.next (if_neg (not_not_intro h))

theorem exec_trainAttemptTimeout_of_late (hst : (s.advance dt).reg (Key.portState p) ∈ [1, 2, 3, 4])
    (hlate : ((s.advance dt).port p).started + 60 * ms1 ≤ (s.advance dt).now) :
    exec (.trainAttemptTimeout p dt) s = .next ((s.advance dt).failAttempt p) := by
  have hage : 60 * ms1 ≤ (s.advance dt).now - ((s.advance dt).port p).started := Nat.le_sub_of_add_le' hlate
  change execTrainAttemptTimeout p dt s = _
  exact congrArg Host.Outcome.next (if_pos ⟨by simpa using hst, by rw [decide_eq_true hage]; rfl⟩)

theorem exec_retryWaitEnd_of_due (hst : (s.advance dt).reg (Key.portState p) = 7)
    (hdue : ((s.advance dt).port p).stateSince + ms1 ≤ (s.advance dt).now) :
    exec (.retryWaitEnd p dt) s = .next ((s.advance dt).beginAttempt p (((s.advance dt).port p).attempt + 1)) := by
  change execRetryWaitEnd p dt s = _
  exact congrArg Host.Outcome.next (if_pos ⟨hst, hdue⟩)

end

/-- Settles O31: each row's conditions choose its branch, and DETECT_COMPLETE's next state is the one entry with its time. -/
theorem portTrainingAdvances : Obligations.PortTrainingAdvances := by
  unfold Obligations.PortTrainingAdvances
  intro s p dt ppm skew inv fails corrected rev fl o hs
  refine ⟨fun hst => ?detect, fun hst => ?train, exec_caps_of_negotiate, fun hst => ?verify, exec_trainAttemptTimeout_of_late,
    exec_retryWaitEnd_of_due⟩
  case detect =>
    exact ⟨_, exec_detectComplete_of_detect hst, portState_setPortState s p hs (by decide), by rw [port_setPortState_same],
      fun k hk => reg_setPortState_other s p 2 (List.ne_of_not_mem_cons hk), fun r hr => port_setPortState_other s 2 hr⟩
  case train =>
    have hrec (hskew : skew ≤ 4000) (hppm : ppm ≤ 100) : receivable ppm skew inv false = true := receivable_iff.mpr ⟨rfl, hskew, hppm⟩
    refine ⟨fun hskew hppm hcaps => ?none, fun x hskew hppm hcaps => ?some, fun hbad => ?bad⟩
    case none => exact exec_trainComplete_of_no_caps hst (hrec hskew hppm) hcaps
    case some => exact exec_trainComplete_of_caps hst (hrec hskew hppm) hcaps
    case bad =>
      refine exec_trainComplete_of_not_receivable (Bool.eq_false_iff.mpr fun hgood => ?_)
      obtain ⟨hrev, hskew, hppm⟩ := receivable_iff.mp hgood
      obtain h | h | h := hbad
      · exact absurd h (by simp [hrev])
      · omega
      · omega
  case verify =>
    rw [exec_verifyEnd_of_verify hst]
    exact ⟨fun hfails hcor => congrArg Host.Outcome.next (if_pos ⟨hfails, hcor⟩),
      fun h => congrArg Host.Outcome.next (if_neg fun ⟨hfails, hcor⟩ => h.elim (absurd hfails) hcor.not_ge)⟩

end Sys2Proof.Machine
end

section
/-! SUPPORT. The proofs of the link control messages (spec/11): what answers them, what is sent again, and what times out. -/
namespace Sys2Proof.Machine
open Sys2Proof.Safety

/-! ### Link control messages (R210, R213, R216, R219, R220) -/

section
variable {s u : State} {p : Fin 16} {fl : FlitIn} {tag sq hold trip : Nat} {free : List Nat} {x : TagState}
  (hu : s.rxLink p fl = u)
include hu

theorem exec_boundaryAck_of_handshake (ht : u.tagOf p tag = some x) (hx : x.handshake.isSome = true) :
    exec (.boundaryAck p fl tag) s = .next (u.endHandshake p tag) := by
  change execBoundaryAck p fl tag s = _
  simp [execBoundaryAck, hu, ht, hx]

variable (hup : u.portUp p = true)
include hup

theorem exec_boundary_of_no_tag (ht : u.tagOf p tag = none) :
    exec (.boundary p fl tag) s = .next (u.sendLink p (.boundaryAck tag)) := by
  change execBoundary p fl tag s = _
  simp [execBoundary, hu, hup, ht]

theorem exec_boundary_of_handshake (ht : u.tagOf p tag = some x) (hx : x.handshake.isSome = true) :
    exec (.boundary p fl tag) s = .next ((u.sendLink p (.boundaryAck tag)).endHandshake p tag) := by
  change execBoundary p fl tag s = _
  simp [execBoundary, hu, hup, ht, hx]

theorem exec_boundary_of_no_handshake (ht : u.tagOf p tag = some x) (hx : x.handshake = none) :
    exec (.boundary p fl tag) s = .next
      ((((u.modTag p tag (fun y => { y with ingress := false, egress := false })).dropTransit p tag true false).sendLink p
        (.boundaryAck tag)).settleRequest) := by
  change execBoundary p fl tag s = _
  simp [execBoundary, hu, hup, ht, hx]

theorem exec_tagSet_of_asked (ht : u.tagOf p tag = some x) (ha : x.asked = true) (hx : x.handshake = none) :
    exec (.tagSet p fl tag) s = .next ((((u.enableEgress p tag).sendLink p (.tagSetAck tag)).settleRequest).pump) := by
  change execTagSet p fl tag s = _
  simp [execTagSet, hu, hup, ht, ha, hx]

theorem exec_tagSetAck_of_asked (ht : u.tagOf p tag = some x) (ha : x.asked = true) (hx : x.handshake = none) :
    exec (.tagSetAck p fl tag) s = .next (((u.enableEgress p tag).settleRequest).pump) := by
  change execTagSetAck p fl tag s = _
  simp [execTagSetAck, hu, hup, ht, ha, hx]

theorem exec_resync_of_up : exec (.resync p fl) s =
    .next ((u.modPort p (fun x => { x with resync := x.resync % 2 + 2 })).sendAwait p .resyncMark) := by
  change execResync p fl s = _
  simp [execResync, hu, hup]

theorem exec_resyncMark_of_up : exec (.resyncMark p fl) s = .next (((u.modPort p (fun x => { x with
      resync := x.resync / 2 * 2
      freed := List.replicate 16 0 })).sendLink p (.creditSet (u.freeNow p))).answeredMsg p (fun m => m == .resync)) := by
  change execResyncMark p fl s = _
  simp [execResyncMark, hu, hup]

theorem exec_creditSet_of_stopped (hr : bit (u.port p).resync 1 = true) : exec (.creditSet p fl free) s =
    .next (((u.modPort p (fun x => { x with credits := free, resync := x.resync - 2 })).answeredMsg p (fun m => m == .resyncMark)).pump) := by
  change execCreditSet p fl free s = _
  simp [execCreditSet, hu, hup, hr]

theorem exec_latProbe_of_measuring (hf : u.feature p 3 = true) :
    exec (.latProbe p fl sq hold) s = .next (u.sendLink p (.latEcho sq hold)) := by
  have hst : u.reg (Key.portState p) = 5 := by simpa [State.portUp] using hup
  change execLatProbe p fl sq hold s = _
  simp [execLatProbe, hu, hst, hf]

/-- An echo of one of the last 64 probes joins the measurement, whose mean PORT_LATENCY then reads (R213). -/
theorem exec_latEcho_of_recent (h1 : 1 ≤ ((u.port p).probeSeq + 2 ^ 32 - sq % 2 ^ 32) % 2 ^ 32)
    (h64 : ((u.port p).probeSeq + 2 ^ 32 - sq % 2 ^ 32) % 2 ^ 32 ≤ 64) :
    exec (.latEcho p fl sq hold trip) s = .next (
      let t := u.modPort p (fun x => { x with probes := x.probes ++ [(trip - hold) / 2] })
      t.setReg (Key.portLatency p) (meanOf (t.port p).probes)) := by
  have hst : u.reg (Key.portState p) = 5 := by simpa [State.portUp] using hup
  subst hu
  change execLatEcho p fl sq hold trip s = _
  exact congrArg Host.Outcome.next ((if_pos ⟨.inr hst, h1, h64⟩).trans (if_pos hst))

end

/-! ### Messages and handshakes that wait (R210, R213, R220) -/

/-- The time, the messages that wait on every port and the messages sent are as before. -/
structure KeepsMessages (s t : State) : Prop where
  now : t.now = s.now
  await : ∀ r : Fin 16, (t.port r).await = (s.port r).await
  link : t.out.link = s.out.link

namespace KeepsMessages

variable {s t u : State}

theorem refl (s : State) : KeepsMessages s s := ⟨rfl, fun _ => rfl, rfl⟩

theorem trans (h : KeepsMessages s t) (h' : KeepsMessages t u) : KeepsMessages s u :=
  ⟨h'.now.trans h.now, fun r => (h'.await r).trans (h.await r), h'.link.trans h.link⟩

theorem bump (s : State) (k n : Nat) : KeepsMessages s (s.bump k n) :=
  ⟨by simp, fun r => congrArg Port.await (State.port_bump s k n r), by simp⟩

theorem modPort (s : State) (p : Fin 16) {f : Port → Port} (hf : ∀ x, (f x).await = x.await) : KeepsMessages s (s.modPort p f) where
  now := rfl
  await r := by
    by_cases h : r = p
    · rw [h, port_modPort_same, hf]
    · rw [port_modPort_other s p r f h]
  link := rfl

theorem sendIdle (s : State) (p : Fin 16) (n : Nat) : KeepsMessages s (s.sendIdle p n) := by
  obtain ⟨P, I, e, h⟩ := sendIdle_cases s p n
  rw [e]
  exact ⟨rfl, fun r => (congrArg Port.await (h r) :), rfl⟩

theorem countFlits (s : State) (p : Fin 16) (n : Nat) : KeepsMessages s (s.countFlits p n) := by
  have h : KeepsMessages s (if 4095 < (s.port p).sinceIdle + n then s.sendIdle p 1 else s) := by
    split
    · exact sendIdle s p 1
    · exact refl s
  exact h.trans (modPort _ p (f := fun x => { x with sinceIdle := x.sinceIdle + n }) fun _ => rfl)

theorem takeReturns (s : State) (p : Fin 16) (n : Nat) : KeepsMessages s (s.takeReturns p n).2 :=
  modPort s p (f := fun x => { x with freed := (takeFreed n (indexed (s.port p).freed)).2 }) fun _ => rfl

end KeepsMessages

/-- A link control message leaves the module, and changes neither the time nor what waits nor what was sent. -/
theorem sendLink_cases (s : State) (p : Fin 16) (m : LinkMsg) :
    ∃ t cr, KeepsMessages s t ∧ s.sendLink p m = { t with out := { t.out with link := t.out.link ++ [⟨p, cr, m⟩] } } :=
  ⟨((s.countFlits p 1).takeReturns p 1).2.bump (Key.portFlitsTx p) 1, _,
    ((KeepsMessages.countFlits s p 1).trans (.takeReturns _ p 1)).trans (.bump _ _ 1), rfl⟩

section
variable (s : State) (p : Fin 16) (m : LinkMsg)

@[simp] theorem State.now_sendLink : (s.sendLink p m).now = s.now := by
  obtain ⟨t, cr, h, e⟩ := sendLink_cases s p m
  rw [e]; exact h.now

@[simp] theorem State.await_sendLink (r : Fin 16) : ((s.sendLink p m).port r).await = (s.port r).await := by
  obtain ⟨t, cr, h, e⟩ := sendLink_cases s p m
  rw [e]; exact h.await r

theorem linkOut_sendLink : (s.sendLink p m).out.link.map (fun o => (o.port, o.msg)) =
    s.out.link.map (fun o => (o.port, o.msg)) ++ [(p.val, m)] := by
  obtain ⟨t, cr, h, e⟩ := sendLink_cases s p m
  rw [e, ← h.link]; exact List.map_append

end

/-- Sending waiting messages again sends each of them, and leaves the time and what waits. -/
theorem forEach_sendLink (p : Fin 16) (l : List AwaitMsg) (s : State) :
    let t := s.forEach l (fun s a => s.sendLink p a.msg)
    t.now = s.now ∧ (t.port p).await = (s.port p).await ∧ t.out.link.map (fun o => (o.port, o.msg)) =
      s.out.link.map (fun o => (o.port, o.msg)) ++ l.map (fun a => (p.val, a.msg)) := by
  induction l generalizing s with
  | nil => exact ⟨rfl, rfl, (List.append_nil _).symm⟩
  | cons a l ih =>
    obtain ⟨hnow, hawait, hlink⟩ := ih (s.sendLink p a.msg)
    refine ⟨hnow.trans (State.now_sendLink ..), hawait.trans (State.await_sendLink ..), hlink.trans ?_⟩
    rw [linkOut_sendLink, List.append_assoc, List.map_cons, List.singleton_append]

section
variable {s : State} {p : Fin 16} {tag dt : Nat}

theorem exec_latencyRemeasure_of_due (hup : (s.advance dt).portUp p = true) (hf : (s.advance dt).feature p 3 = true)
    (h : ((s.advance dt).port p).lastProbe + 100 * ms1 ≤ (s.advance dt).now) :
    exec (.latencyRemeasure p dt) s = .next ((s.advance dt).sendProbes p) := by
  change execLatencyRemeasure p dt s = _
  exact congrArg Host.Outcome.next (if_pos ⟨hup, hf, h⟩)

theorem exec_latencyRemeasure_of_early (h : (s.advance dt).now < ((s.advance dt).port p).lastProbe + 100 * ms1) :
    exec (.latencyRemeasure p dt) s = .next (s.advance dt) := by
  change execLatencyRemeasure p dt s = _
  exact congrArg Host.Outcome.next (if_neg fun hdue => h.not_ge hdue.2.2)

/-- The wait of a message that has gone unanswered for 2 µs begins anew (R210). -/
def AwaitMsg.renew (now : Nat) (a : AwaitMsg) : AwaitMsg := if a.since + us2 ≤ now then { a with since := now } else a

theorem AwaitMsg.lt_renew (now : Nat) (a : AwaitMsg) : now < (a.renew now).since + us2 := by
  unfold AwaitMsg.renew
  split
  · exact Nat.lt_add_of_pos_right (by decide)
  · next h => exact Nat.lt_of_not_le h

theorem exec_linkMsgRepeat (s : State) (p : Fin 16) (dt : Nat) :
    exec (.linkMsgRepeat p dt) s = .next (
      let u := s.advance dt
      let t := u.forEach ((u.port p).await.filter (fun a => decide (a.since + us2 ≤ u.now))) (fun s a => s.sendLink p a.msg)
      t.modPort p (fun x => { x with await := x.await.map (AwaitMsg.renew t.now) })) := rfl

theorem linkMsgRepeat_sends (s : State) (p : Fin 16) (dt : Nat) :
    let u := s.advance dt
    ∃ t, exec (.linkMsgRepeat p dt) s = .next t ∧ (∀ a ∈ (t.port p).await, u.now < a.since + us2) ∧
      t.out.link.map (fun o => (o.port, o.msg)) = u.out.link.map (fun o => (o.port, o.msg)) ++
        ((u.port p).await.filter (fun a => decide (a.since + us2 ≤ u.now))).map (fun a => (p.val, a.msg)) := by
  intro u
  obtain ⟨hnow, hawait, hlink⟩ := forEach_sendLink p ((u.port p).await.filter (fun a => decide (a.since + us2 ≤ u.now))) u
  refine ⟨_, exec_linkMsgRepeat s p dt, fun a ha => ?_, hlink⟩
  rw [port_modPort_same, hnow] at ha
  obtain ⟨b, -, rfl⟩ := List.mem_map.mp ha
  exact b.lt_renew u.now

section
variable {x : TagState} {t0 : Nat} (ht : (s.advance dt).tagOf p tag = some x) (hx : x.handshake = some t0)
include ht hx

/-- The other end has not answered within 200 µs: the timeout is counted, logged and noted for a request, and the handshake ends (R220). -/
theorem exec_boundaryTimeout_of_due (h : t0 + us200 ≤ (s.advance dt).now) :
    exec (.boundaryTimeout p tag dt) s = .next (
      let v := ((s.advance dt).bump (Key.portBoundaryTimeouts p) 1).log sevWarning noCtx 0x09 none32 (Key.portBoundaryTimeouts p) tag
      (if x.byRequest then v.modFab (fun f => { f with joinTimeouts := true }) else v).endHandshake p tag) := by
  change execBoundaryTimeout p tag dt s = _
  simp only [execBoundaryTimeout, ht, hx, if_pos h]

theorem exec_boundaryTimeout_of_early (h : (s.advance dt).now < t0 + us200) :
    exec (.boundaryTimeout p tag dt) s = .next (s.advance dt) := by
  change execBoundaryTimeout p tag dt s = _
  simp only [execBoundaryTimeout, ht, hx, if_neg h.not_ge]

end
end

/-- Settles O32: each message's conditions choose its branch; the repeat sends exactly what is due, and an echo changes one entry. -/
theorem linkMessagesAreAnswered : Obligations.LinkMessagesAreAnswered := by
  unfold Obligations.LinkMessagesAreAnswered
  intro s p fl tag sq hold trip dt free
  refine ⟨?messages, exec_latencyRemeasure_of_due, exec_latencyRemeasure_of_early, linkMsgRepeat_sends s p dt, fun x t0 ht hx =>
    ⟨exec_boundaryTimeout_of_due ht hx, exec_boundaryTimeout_of_early ht hx⟩⟩
  intro u hup
  refine ⟨exec_boundary_of_no_tag rfl hup, fun x ht => ⟨fun hx => ?handshake, exec_boundary_of_no_handshake rfl hup ht,
    fun ha hx => ?asked⟩, exec_resync_of_up rfl hup, exec_resyncMark_of_up rfl hup, exec_creditSet_of_stopped rfl hup,
    exec_latProbe_of_measuring rfl hup, fun h1 h64 => ?echo⟩
  case handshake => exact ⟨exec_boundary_of_handshake rfl hup ht hx, exec_boundaryAck_of_handshake rfl ht hx⟩
  case asked => exact ⟨exec_tagSet_of_asked rfl hup ht ha hx, exec_tagSetAck_of_asked rfl hup ht ha hx⟩
  case echo =>
    refine ⟨_, exec_latEcho_of_recent rfl hup h1 h64, ?_, onlyRegs_setReg _ _ _ _ List.mem_cons_self⟩
    rw [State.port_setReg, port_modPort_same]

end Sys2Proof.Machine
end

section
/-! SUPPORT. The proofs of what goes wrong on a link (spec/11, spec/15) and of the packets that arrive over it (spec/11, spec/12). -/
namespace Sys2Proof.Machine
open Sys2Proof.Safety

/-! ### Errors on a hop (R203, R214, R215, R217, R293) -/

/-- A packet still arriving is in progress and not being discarded. -/
theorem arriving_eq_some_iff {s : State} {p : Fin 16} {x : InPacket} :
    s.arriving p = some x ↔ s.inProgress p = true ∧ (s.port p).inPacket = some x ∧ x.discarding = false := by
  simp [State.arriving, Option.filter_eq_some_iff]

theorem packetFlitFails_of_arriving {s : State} {p : Fin 16} {x : InPacket} (h : s.arriving p = some x) :
    s.packetFlitFails p = s.discardArriving p x true := by
  simp only [State.packetFlitFails, h]

section
variable {s : State} {p : Fin 16} {kind n : Nat}

theorem flitsFail_of_many (h : (s.noteCrc p n).reg (Key.portCrcDownThreshold p) < (s.noteCrc p n).recentCrc p) :
    s.flitsFail p kind n = (s.noteCrc p n).linkLost p 7 := if_pos h

variable (hfew : (s.noteCrc p n).recentCrc p ≤ (s.noteCrc p n).reg (Key.portCrcDownThreshold p))
include hfew

theorem flitsFail_of_no_packet (h : kind = flitIdle ∨ kind = flitLink) : s.flitsFail p kind n = s.noteCrc p n :=
  (if_neg hfew.not_gt).trans (if_pos h)

theorem flitsFail_of_arriving {x : InPacket} (hidle : kind ≠ flitIdle) (hlink : kind ≠ flitLink)
    (hx : (s.noteCrc p n).arriving p = some x) : s.flitsFail p kind n = (s.noteCrc p n).discardArriving p x true :=
  ((if_neg hfew.not_gt).trans (if_neg (not_or.mpr ⟨hidle, hlink⟩))).trans (packetFlitFails_of_arriving hx)

end

section
variable {s u : State} {p : Fin 16} {fl : FlitIn} {kind corrected n tag tc vc : Nat} {b : Beacon} {x : InPacket}
  (hup : s.portUp p = true)
include hup

theorem exec_flitCrcFail_of_up : exec (.flitCrcFail p kind corrected) s =
    .next ((s.bump (Key.portFecCorrected p) corrected).flitsFail p kind 1) := by
  change execFlitCrcFail p kind corrected s = _
  exact congrArg Host.Outcome.next (if_pos hup)

/-- A burst is that many failing flits of packets (log 135). -/
theorem exec_crcBurst_of_up (hn : n ≠ 0) : exec (.crcBurst p n) s = .next (s.flitsFail p flitBody n) := by
  change execCrcBurst p n s = _
  exact congrArg Host.Outcome.next (if_pos ⟨hup, hn⟩)

theorem exec_lockLost_of_up : exec (.lockLost p) s = .next (s.linkLost p 6) := by
  change execLockLost p s = _
  exact congrArg Host.Outcome.next (if_pos hup)

theorem exec_beacon_of_up : exec (.beacon p fl b) s = .next (((s.takeIn p fl).beaconTime p b).pump) := by
  change execBeacon p fl b s = _
  exact congrArg Host.Outcome.next (if_pos hup)

theorem exec_abortFlit_of_no_packet (hu : (s.takeIn p fl).bump (Key.portFlitsRx p) 1 = u) (h : u.inProgress p = false) :
    exec (.abortFlit p fl) s = .next u.pump := by
  change execAbortFlit p fl s = _
  simp [execAbortFlit, hup, hu, h]

/-- An ABORT flit ends the packet still arriving, and the credits of the flits that will not come were not used (R214; log 59). -/
theorem exec_abortFlit_of_arriving (hu : (s.takeIn p fl).bump (Key.portFlitsRx p) 1 = u) (hx : u.arriving p = some x) :
    exec (.abortFlit p fl) s = .next ((u.discardArriving p x false).modPort p (fun y => { y with
      freed := listSet y.freed (vcIndex x.pk.tc x.pk.vc) (y.freed.getD (vcIndex x.pk.tc x.pk.vc) 0 - (u.flitsLeft p x - 1))
      inPacket := some { x with discarding := true, ended := true } })).pump := by
  obtain ⟨hprogress, hpacket, hkept⟩ := arriving_eq_some_iff.mp hx
  change execAbortFlit p fl s = _
  simp [execAbortFlit, hup, hu, hprogress, hpacket, hkept]

theorem exec_orphanFlit_of_no_packet (hu : s.takeIn p fl = u) (h : u.inProgress p = false) :
    exec (.orphanFlit p fl tag tc vc) s =
      .next ((((u.bump (Key.portFlitsRx p) 1).bump (Key.portOrphanDrop p) 1).modPort p (fun x => { x with
        freed := listSet x.freed (vcIndex tc vc) (x.freed.getD (vcIndex tc vc) 0 + 1) })).pump) := by
  change execOrphanFlit p fl tag tc vc s = _
  simp [execOrphanFlit, hup, hu, h]

theorem exec_orphanFlit_of_foreign (hu : s.takeIn p fl = u) (hx : u.arriving p = some x)
    (hother : ¬ (x.pk.tag = tag ∧ x.pk.tc = tc ∧ x.pk.vc = vc)) :
    exec (.orphanFlit p fl tag tc vc) s = .next (u.packetFlitFails p).pump := by
  obtain ⟨hprogress, -, -⟩ := arriving_eq_some_iff.mp hx
  change execOrphanFlit p fl tag tc vc s = _
  simp only [execOrphanFlit, hup, hu, hprogress, hx, if_neg hother, Bool.not_true, Bool.false_eq_true, if_false, if_true]

end

/-! ### The silence after a loss (R217) -/

/-- A port trains at the end of its silence: it was enabled meanwhile, or is DOWN and retrains by itself (R203, R217). -/
def State.trainsAgain (s : State) (p : Fin 16) : Bool :=
  (s.port p).wanted || (s.reg (Key.portState p) == 6 && s.reg (Key.portAutoRetrain p) == 1)

/-- The silence of a port has ended (R217). -/
def State.endSilence (s : State) (p : Fin 16) : State := s.modPort p (fun x => { x with silentSince := none, wanted := false })

section
variable {s : State} {p : Fin 16} {dt t0 : Nat} (h : ((s.advance dt).port p).silentSince = some t0)
include h

theorem exec_linkSilenceEnd_of_due (hdue : t0 + ms1 ≤ (s.advance dt).now) : exec (.linkSilenceEnd p dt) s = .next (
    if (s.advance dt).trainsAgain p ∧ ((s.advance dt).endSilence p).portUsable p then ((s.advance dt).endSilence p).startTraining p
    else (s.advance dt).endSilence p) := by
  unfold State.trainsAgain State.endSilence
  change execLinkSilenceEnd p dt s = _
  simp only [execLinkSilenceEnd, h, if_pos hdue]

theorem exec_linkSilenceEnd_of_early (hearly : (s.advance dt).now < t0 + ms1) :
    exec (.linkSilenceEnd p dt) s = .next (s.advance dt) := by
  change execLinkSilenceEnd p dt s = _
  simp only [execLinkSilenceEnd, h, if_neg hearly.not_ge]

end

/-- Settles O33: each row and `flitsFail` are branches of their definitions, chosen by whether a packet is arriving and how many flits
failed. -/
theorem linkErrorsAreHandled : Obligations.LinkErrorsAreHandled := by
  unfold Obligations.LinkErrorsAreHandled
  intro s p fl kind corrected tag tc vc n dt b
  refine ⟨fun hup => ⟨exec_flitCrcFail_of_up hup, exec_crcBurst_of_up hup, ?fail, ?abort, ?orphan, exec_lockLost_of_up hup,
    exec_beacon_of_up hup⟩, fun t0 h => ⟨fun hdue hagain husable => ?train, fun hdue hagain => ?rest, exec_linkSilenceEnd_of_early h⟩⟩
  case fail =>
    exact ⟨flitsFail_of_many, fun hfew => ⟨flitsFail_of_no_packet hfew, fun x => flitsFail_of_arriving hfew⟩⟩
  case abort => exact ⟨exec_abortFlit_of_no_packet hup rfl, fun x => exec_abortFlit_of_arriving hup rfl⟩
  case orphan => exact ⟨exec_orphanFlit_of_no_packet hup rfl, fun x _ => exec_orphanFlit_of_foreign hup rfl⟩
  case train => exact (exec_linkSilenceEnd_of_due h hdue).trans (congrArg Host.Outcome.next (if_pos ⟨hagain, husable⟩))
  case rest =>
    have hstays : ¬ ((s.advance dt).trainsAgain p ∧ ((s.advance dt).endSilence p).portUsable p) := fun hboth =>
      absurd (hagain.symm.trans hboth.1) (by decide)
    exact (exec_linkSilenceEnd_of_due h hdue).trans (congrArg Host.Outcome.next (if_neg hstays))

/-! ### Packets that arrive (R218, R230 to R233) -/

/-- A packet's flits have been taken into their ingress buffers, and it is noted as arriving until its last flit
(R208, R218, R233; log 59). -/
def State.takePacket (s : State) (p : Fin 16) (fl : FlitIn) (pk : Packet) : State :=
  let n := packetFlits pk
  let i := vcIndex pk.tc pk.vc
  let u := (s.takeIn p fl).bump (Key.portFlitsRx p) n
  u.modPort p (fun x => { x with
    used := listSet x.used i (x.used.getD i 0 + n)
    inPacket := some ⟨pk, u.now + (n * u.flitTime p + 159) / 160, [], false, false⟩ })

/-- What becomes of a packet that has been taken in: dropped, passed on as transit, or forwarded and delivered by its mode (R218). -/
def State.passOn (s : State) (p : Fin 16) (pk : Packet) : State :=
  if !s.ingressOk p pk.tag then s.dropHere p pk (Key.portTagDrop p)
  else if pk.tag ≠ s.reg Key.partitionTag then s.forwardTransit p pk
  else if pk.mode = 2 then s.forwardLine p pk
  else if pk.mode = 1 then s.forwardTree p pk
  else match pk.dsts.head? with
    | some d => s.forward1 p pk d
    | none => s

theorem exec_packetArrival_of_up {s : State} {p : Fin 16} {fl : FlitIn} {pk : Packet} (hup : s.portUp p = true) :
    exec (.packetArrival p fl pk) s = .next ((s.takePacket p fl pk).passOn p pk).pump := by
  change execPacketArrival p fl pk s = _
  exact congrArg Host.Outcome.next (if_neg (by simp [hup]))

section
variable {s : State} {p : Fin 16} {pk : Packet}

theorem passOn_of_refused (h : s.ingressOk p pk.tag = false) : s.passOn p pk = s.dropHere p pk (Key.portTagDrop p) := by
  simp [State.passOn, h]

variable (hok : s.ingressOk p pk.tag = true)
include hok

theorem passOn_of_transit (ht : pk.tag ≠ s.reg Key.partitionTag) : s.passOn p pk = s.forwardTransit p pk := by
  simp [State.passOn, hok, ht]

variable (ht : pk.tag = s.reg Key.partitionTag)
include ht

theorem passOn_of_line (hm : pk.mode = 2) : s.passOn p pk = s.forwardLine p pk := by
  simp [State.passOn, hok, ← ht, hm]

theorem passOn_of_tree (hm : pk.mode = 1) : s.passOn p pk = s.forwardTree p pk := by
  simp [State.passOn, hok, ← ht, hm]

theorem passOn_of_unicast {d : Addr × Nat} (hm : pk.mode = 0) (hd : pk.dsts.head? = some d) : s.passOn p pk = s.forward1 p pk d := by
  simp [State.passOn, hok, ← ht, hm, hd]

end

theorem exec_linkState_of_line {s : State} {dim port coord : Nat} {up : Bool} (hup : s.hubUp = true)
    (hline : (dim = 0 ∧ port ≤ 6) ∨ (1 ≤ dim ∧ (portDim port).1 = dim)) :
    exec (.linkState dim port up coord) s = .next (s.noteLink port coord (!up)) := by
  change execLinkState dim port up coord s = _
  exact congrArg Host.Outcome.next (if_pos ⟨hup, hline⟩)

/-- Settles O34: an arrival is taken in and passed on, and the tag and the mode of the packet choose how. -/
theorem packetsAreAdmittedByTag : Obligations.PacketsAreAdmittedByTag := by
  unfold Obligations.PacketsAreAdmittedByTag
  intro s p fl pk
  refine ⟨fun hup => ?arrival, fun dim port up coord => exec_linkState_of_line⟩
  intro n i u v
  have arrives {t : State} (h : v.passOn p pk = t) : exec (.packetArrival p fl pk) s = .next t.pump :=
    h ▸ exec_packetArrival_of_up hup
  exact ⟨fun h => arrives (passOn_of_refused h), fun hok => ⟨fun ht => arrives (passOn_of_transit hok ht), fun ht =>
    ⟨fun hm => arrives (passOn_of_line hok ht hm), fun hm => arrives (passOn_of_tree hok ht hm),
      fun d hm hd => arrives (passOn_of_unicast hok ht hm hd)⟩⟩⟩

end Sys2Proof.Machine
end

section
/-! SUPPORT. The proofs of the Network Interface (spec/12): the numbers a stream accepts, packets taken, acknowledged and sent again,
heartbeats and lost members. -/
namespace Sys2Proof.Machine

/-! ### Numbers of a stream (R240) -/

theorem seqBelow_iff {next sq : Nat} :
    seqBelow next sq = true ↔ 1 ≤ (next + 65536 - sq % 65536) % 65536 ∧ (next + 65536 - sq % 65536) % 65536 ≤ 32768 := by
  simp [seqBelow]

/-- Marked numbers are passed one by one, so the next expected number moves up by no more than the fuel, and the marks only shrink. -/
theorem slideOver_bounds (fuel : Nat) {n : Nat} (b : Nat) (hn : n < 65536) :
    (∃ m ≤ fuel, (slideOver n b fuel).1 = (n + m) % 65536) ∧ (slideOver n b fuel).2 ≤ b := by
  induction fuel generalizing n b with
  | zero => exact ⟨⟨0, Nat.le_refl 0, (Nat.mod_eq_of_lt hn).symm⟩, Nat.div_le_self b 2⟩
  | succ fuel ih =>
    unfold slideOver
    split
    · obtain ⟨⟨m, hm, hnext⟩, hmarks⟩ := ih (b / 2) (Nat.mod_lt (n + 1) (by decide))
      refine ⟨⟨m + 1, Nat.succ_le_succ hm, ?_⟩, hmarks.trans (Nat.div_le_self b 2)⟩
      rw [hnext, Nat.mod_add_mod, Nat.add_assoc, Nat.add_comm 1 m]
    · exact ⟨⟨0, Nat.zero_le _, (Nat.mod_eq_of_lt hn).symm⟩, Nat.div_le_self b 2⟩

/-- How far a number lies above the next expected one. -/
def Stream.ahead (x : Stream) (sq : Nat) : Nat := (sq % 65536 + 65536 - x.next) % 65536

/-- The stream with one more number above the next expected one marked as accepted. -/
def Stream.mark (x : Stream) (i : Nat) : Stream := { x with bitmap := x.bitmap + 2 ^ i }

section
variable {x y : Stream} {sq i k : Nat}

/-- Accepting the next expected number leaves the address and the class, and passes at most 32 marked numbers. -/
theorem Stream.step_spec (x : Stream) : x.step.addr = x.addr ∧ x.step.tc = x.tc ∧ x.step.bitmap ≤ x.bitmap ∧
    ∃ m ≤ 32, x.step.next = (x.next + 1 + m) % 65536 := by
  obtain ⟨⟨m, hm, hnext⟩, hmarks⟩ := slideOver_bounds 32 x.bitmap (Nat.mod_lt (x.next + 1) (by decide : 0 < 65536))
  exact ⟨rfl, rfl, hmarks, m, hm, hnext.trans (Nat.mod_add_mod ..)⟩

theorem Stream.take_eq (x : Stream) (sq : Nat) : x.take sq =
    if seqBelow x.next sq then (none, 0)
    else if x.ahead sq = 0 then (some x.step, 0)
    else if x.tc = 3 ∨ 31 < x.ahead sq then (none, 1)
    else if bit x.bitmap (x.ahead sq - 1) then (none, 0)
    else (some (x.mark (x.ahead sq - 1)), 0) := rfl

/-- An accepted number is the next expected one, or a number of the window above it that was not marked. -/
theorem Stream.take_cases (h : x.take sq = (some y, k)) :
    (x.ahead sq = 0 ∧ y = x.step) ∨ ∃ i < 31, x.ahead sq = i + 1 ∧ bit x.bitmap i = false ∧ y = x.mark i := by
  rw [Stream.take_eq] at h
  split_ifs at h with hbelow hnext hwindow hmarked
  · cases h
  · cases h
    exact .inl ⟨hnext, rfl⟩
  · cases h
  · cases h
  · cases h
    obtain ⟨-, hwithin⟩ := not_or.mp hwindow
    exact .inr ⟨x.ahead sq - 1, by omega, by omega, Bool.eq_false_of_not_eq_true hmarked, rfl⟩

theorem Stream.take_of_below (h : seqBelow x.next sq = true) : (x.take sq).1 = none := by
  rw [Stream.take_eq, if_pos h]

/-- A number that is marked has been accepted already (log 63). -/
theorem Stream.take_of_marked (hd : x.ahead sq = i + 1) (hb : bit x.bitmap i = true) : (x.take sq).1 = none := by
  rw [Stream.take_eq, hd, if_neg (Nat.succ_ne_zero i), Nat.add_sub_cancel, if_pos hb]
  split_ifs <;> rfl

/-- The next expected number lies below what is expected once it is accepted. -/
theorem Stream.seqBelow_step (hnext : x.next < 65536) (hd : x.ahead sq = 0) : seqBelow x.step.next sq = true := by
  obtain ⟨-, -, -, m, hm, hstep⟩ := x.step_spec
  unfold Stream.ahead at hd
  rw [seqBelow_iff, hstep]
  omega

theorem bit_add_two_pow {b : Nat} (h : bit b i = false) : bit (b + 2 ^ i) i = true := by
  have hpos : 0 < 2 ^ i := Nat.two_pow_pos i
  simp only [bit, beq_eq_false_iff_ne, beq_iff_eq, Nat.add_div_right b hpos] at h ⊢
  omega

/-- Setting a bit that is not set stays within the bits there are. -/
theorem add_two_pow_lt {b n : Nat} (h : bit b i = false) (hi : i < n) (hb : b < 2 ^ n) : b + 2 ^ i < 2 ^ n := by
  obtain ⟨j, rfl⟩ : ∃ j, n = i + 1 + j := ⟨n - (i + 1), by omega⟩
  have hpos : 0 < 2 ^ i := Nat.two_pow_pos i
  have hpow : 2 ^ (i + 1 + j) = 2 * 2 ^ j * 2 ^ i := by ring
  rw [hpow, ← Nat.div_lt_iff_lt_mul hpos] at hb ⊢
  simp only [bit, beq_eq_false_iff_ne, Nat.add_div_right b hpos] at h ⊢
  omega

end

/-- Settles O35: the next expected number then lies below what is expected, and a number above it is then marked. -/
theorem streamsAcceptEachNumberOnce : Obligations.StreamsAcceptEachNumberOnce := by
  unfold Obligations.StreamsAcceptEachNumberOnce
  intro x y sq k hnext hmarks h
  obtain ⟨hd, rfl⟩ | ⟨i, hi, hd, hfree, rfl⟩ := Stream.take_cases h
  · obtain ⟨haddr, htc, hle, m, -, hstep⟩ := x.step_spec
    exact ⟨Stream.take_of_below (Stream.seqBelow_step hnext hd), haddr, htc, hstep ▸ Nat.mod_lt _ (by decide), hle.trans_lt hmarks⟩
  · exact ⟨Stream.take_of_marked (x := x.mark i) hd (bit_add_two_pow hfree), rfl, rfl, hnext, add_two_pow_lt hfree hi hmarks⟩

/-! ### Packets taken, acknowledged and sent again (R240 to R242) -/

section
variable {s : State} {pk : Packet} {sq : Nat}

theorem acceptPacket_of_refused (h : ((s.recvStream pk.src pk.tc).take sq).1 = none) :
    s.acceptPacket pk sq = (s.freeRefused pk).acceptSeq pk.src pk.tc sq :=
  if_neg (by simp [h])

variable (h : ((s.recvStream pk.src pk.tc).take sq).1.isSome = true)
include h

theorem acceptPacket_of_plain (hb : isRequest pk.body = false) : s.acceptPacket pk sq = s.acceptSeq pk.src pk.tc sq :=
  (if_pos h).trans (if_neg (by simp [hb]))

/-- A request is acknowledged only once it is applied (R256). -/
theorem acceptPacket_of_request (hb : isRequest pk.body = true) :
    s.acceptPacket pk sq = (s.takeSeq pk.src pk.tc sq).modFab (fun f => { f with unapplied := f.unapplied ++ [(pk.src, sq)] }) :=
  (if_pos h).trans (if_pos hb)

end

theorem exec_packetAccept_of_own {s u : State} {pk : Packet} {d : Addr × Nat}
    (hu : s.modFab (fun f => { f with netIn := f.netIn.erase pk }) = u) (hup : u.hubUp = true) (hlo : 1 ≤ pk.tc) (hhi : pk.tc ≤ 4)
    (hd : pk.dsts.find? (fun d => d.1 == u.ownAddr) = some d) : exec (.packetAccept pk) s = .next (u.acceptPacket pk d.2) := by
  have hin : ¬ ((!u.hubUp) = true ∨ pk.tc = 0 ∨ 5 ≤ pk.tc) := by rw [hup]; simp; omega
  change execPacketAccept pk s = _
  simp only [execPacketAccept, hu, if_neg hin, hd]

theorem exec_skip_of_class {s : State} {a : Addr} {tc sq : Nat} (hup : s.hubUp = true) (hlo : 1 ≤ tc) (hhi : tc ≤ 4) :
    exec (.skip a tc sq) s = .next (s.acceptSeq a tc sq) := by
  change execSkip a tc sq s = _
  exact congrArg Host.Outcome.next (if_pos ⟨hup, hlo, hhi⟩)

theorem exec_ack_of_one {s : State} {a : Addr} {x : Nat × Nat × Nat} {t : Txn}
    (h : s.fab.txns.filter (fun t => t.tc == x.1 && t.left.any (fun d => d.1 == a && ackCovers x.2.1 x.2.2 d.2)) = [t]) :
    exec (.ack a [x]) s = .next (s.txnAcked t a).afterTxns := by
  change Host.Outcome.next (s.forEach (s.fab.txns.filter _) (fun s t => s.txnAcked t a)).afterTxns = _
  rw [h]
  rfl

/-- What is sent again, or given up, once the timer of a transaction has run out (R242). -/
def State.retry (s : State) (t : Txn) : State :=
  if s.reg Key.niRetryLimit ≤ t.attempt then (s.exhausted t).afterTxns
  else if t.tc = 3 then s.forEach (s.laterOf t) State.resend
  else s.resend t

theorem exec_retryTimerExpiry_of_due {s u : State} {id dt : Nat} {t : Txn} (hu : s.advance dt = u)
    (ht : u.fab.txns.find? (fun t => t.id == id) = some t) (hleft : t.left ≠ []) (hdue : t.sentAt + u.reg Key.niRetryTimer ≤ u.now)
    (hold : t.tc ≠ 3 ∨ u.isOldest t = true) : exec (.retryTimerExpiry id dt) s = .next (u.retry t) := by
  have hgo : ¬ (t.left.isEmpty = true ∨ u.now < t.sentAt + u.reg Key.niRetryTimer ∨ (t.tc = 3 ∧ (!u.isOldest t) = true)) := by
    rintro (hempty | hearly | ⟨htc, hlater⟩)
    · exact hleft (List.isEmpty_iff.mp hempty)
    · exact hearly.not_ge hdue
    · exact hold.elim (absurd htc) fun holdest => by simp [holdest] at hlater
  change execRetryTimerExpiry id dt s = _
  simp only [execRetryTimerExpiry, hu, ht, if_neg hgo]
  rfl

/-- Settles O36: the conditions of each row choose its branch, and those of the timer leave what the retry does. -/
theorem networkInterfaceTakesAndRetries : Obligations.NetworkInterfaceTakesAndRetries := by
  unfold Obligations.NetworkInterfaceTakesAndRetries
  intro s
  refine ⟨?accept, fun a tc sq hup hlo hhi => exec_skip_of_class hup hlo hhi, fun a x t => exec_ack_of_one, ?retry⟩
  case accept =>
    intro pk d hup hlo hhi hd u
    have accepts {t : State} (h : u.acceptPacket pk d.2 = t) : exec (.packetAccept pk) s = .next t :=
      h ▸ exec_packetAccept_of_own rfl hup hlo hhi hd
    exact ⟨fun h hb => accepts (acceptPacket_of_plain h hb), fun h hb => accepts (acceptPacket_of_request h hb),
      fun h => accepts (acceptPacket_of_refused h)⟩
  case retry =>
    intro id dt t ht hleft hdue hold
    have retries {v : State} (h : (s.advance dt).retry t = v) : exec (.retryTimerExpiry id dt) s = .next v :=
      h ▸ exec_retryTimerExpiry_of_due rfl ht hleft hdue hold
    exact ⟨fun h => retries (if_pos h), fun h htc => retries ((if_neg h.not_ge).trans (if_neg htc)),
      fun h htc => retries ((if_neg h.not_ge).trans (if_pos htc))⟩

/-! ### Heartbeats (R244) -/

/-- The Global Counter has come to a multiple of the interval: passed one in the ticks that went by, or stands at one where none did. -/
def State.HeartbeatDue (s : State) (dt : Nat) : Prop :=
  let u := s.advance dt
  if dt = 0 then u.tick % u.reg Key.hbInterval = 0 else s.tick < u.tick / u.reg Key.hbInterval * u.reg Key.hbInterval

/-- Heartbeats are due, and this member of a partition knows the Global Counter (R244). -/
def State.sendsHeartbeat (s : State) (dt : Nat) : Bool :=
  let u := s.advance dt
  (if dt = 0 then decide (u.tick % u.reg Key.hbInterval = 0)
    else decide (s.tick < u.tick / u.reg Key.hbInterval * u.reg Key.hbInterval)) &&
  u.reg Key.partitionTag != 0 && u.time.gcRunning

theorem sendsHeartbeat_iff {s : State} {dt : Nat} : s.sendsHeartbeat dt = true ↔
    s.HeartbeatDue dt ∧ (s.advance dt).reg Key.partitionTag ≠ 0 ∧ (s.advance dt).time.gcRunning = true := by
  unfold State.sendsHeartbeat State.HeartbeatDue
  split <;> simp [and_assoc]

theorem exec_heartbeatSend (s : State) (dt : Nat) : exec (.heartbeatSend dt) s = .next (
    let u := s.advance dt
    if s.sendsHeartbeat dt then
      u.forEach u.fab.watch (fun v b => v.sendControl b 0 (.heartbeat (u.tick / u.reg Key.hbInterval * u.reg Key.hbInterval)))
    else u) := rfl

/-- The newest send tick held from an address once a heartbeat sent at `tick` has come from it (R244). -/
def State.newestHeard (s : State) (a : Addr) (tick : Nat) : Nat :=
  match s.fab.heard.find? (fun h => h.1 == a) with
  | some h => max h.2 tick
  | none => tick

theorem exec_heartbeat_of_watched {s : State} {a : Addr} {tick : Nat} (h : s.fab.watch.contains a = true) :
    exec (.heartbeat a tick) s = .next (s.modFab (fun f => { f with
      heard := (a, s.newestHeard a tick) :: f.heard.filter (fun h => h.1 != a) })) := by
  change execHeartbeat a tick s = _
  unfold State.newestHeard
  simp only [execHeartbeat, h]
  cases s.fab.heard.find? (fun h => h.1 == a) <;> rfl

theorem exec_heartbeat_of_unwatched {s : State} {a : Addr} {tick : Nat} (h : s.fab.watch.contains a = false) :
    exec (.heartbeat a tick) s = .next s := by
  change execHeartbeat a tick s = _
  exact congrArg Host.Outcome.next (if_pos (by rw [h]; rfl))

section
variable {s u : State} {a : Addr} {dt : Nat} {h : Addr × Nat} (hu : s.advance dt = u)
  (hh : u.fab.heard.find? (fun h => h.1 == a) = some h)
include hu hh

theorem exec_heartbeatDeclare_of_early (hearly : u.tick < h.2 + u.reg Key.hbInterval * u.reg Key.hbMissLimit) :
    exec (.heartbeatDeclare a dt) s = .next u := by
  change execHeartbeatDeclare a dt s = _
  simp only [execHeartbeatDeclare, hu, hh, if_pos (Or.inr hearly)]

/-- The watched address is silent past the limit: every context that holds its resources learns of it, and the member is lost
(R244; log 59, log 148). -/
theorem exec_heartbeatDeclare_of_due (hw : u.fab.watch.contains a = true)
    (hdue : h.2 + u.reg Key.hbInterval * u.reg Key.hbMissLimit ≤ u.tick) :
    exec (.heartbeatDeclare a dt) s = .next (
      let v := u.forEach allCtx (fun s c =>
        if s.holds c then s.logCtx c 0x25 sevWarning 0x0A none32 Key.hbLostCount (wordOfAddr a) else s)
      ((((v.bump Key.hbLostCount 1).modFab (fun f => { f with
        heard := f.heard.filter (fun x => x.1 != a) })).memberLost a).decideLosses).afterTxns) := by
  have hsilent : ¬ ((!u.fab.watch.contains a) = true ∨ u.tick < h.2 + u.reg Key.hbInterval * u.reg Key.hbMissLimit) := by
    rw [hw]; simpa using hdue
  change execHeartbeatDeclare a dt s = _
  simp only [execHeartbeatDeclare, hu, hh, if_neg hsilent]

end

/-! ### Lost members (R244, R245) -/

section
variable {s u : State} {a : Addr} {dt : Nat} {d : Addr × Nat × Nat} (hu : s.advance dt = u)
  (hd : u.fab.declared.find? (fun d => d.1 == a) = some d)
include hu hd

theorem exec_memberLostCopy_of_due (hdue : d.2.1 + us2 ≤ u.now) : exec (.memberLostCopy a dt) s = .next (
    let v := u.modFab (fun f => { f with declared := f.declared.filter (fun x => x.1 != a) })
    (v.sendLine 0 (.memberLost a 1 d.2.2)).sendLine 1 (.memberLost a 1 d.2.2)) := by
  change execMemberLostCopy a dt s = _
  simp only [execMemberLostCopy, hu, hd, if_neg hdue.not_gt]

theorem exec_memberLostCopy_of_early (hearly : u.now < d.2.1 + us2) : exec (.memberLostCopy a dt) s = .next u := by
  change execMemberLostCopy a dt s = _
  simp only [execMemberLostCopy, hu, hd, if_pos hearly]

end

/-- A copy of MEMBER_LOST is noted at its first arrival, and goes on along the line of the next dimension (R245). -/
def State.relayLost (s : State) (line : Nat) (a : Addr) (copy tick : Nat) : State :=
  let u := s.modFab (fun f => { f with seen := f.seen ++ [(0, a, copy)] })
  if line < 3 then u.sendLine (line + 1) (.memberLost a copy tick) else u

section
variable {s u : State} {line : Nat} {a : Addr} {copy tick : Nat}

theorem exec_memberLost_of_seen (h : s.fab.seen.contains (0, a, copy) = true) : exec (.memberLost line a copy tick) s = .next s := by
  change execMemberLost line a copy tick s = _
  exact congrArg Host.Outcome.next (if_pos (.inr h))

variable (hup : s.hubUp = true) (hnew : s.fab.seen.contains (0, a, copy) = false)
include hup hnew

theorem exec_memberLost_of_new : exec (.memberLost line a copy tick) s = .next (
    let v := s.relayLost line a copy tick
    if v.fab.noticed.contains a then v
    else ((v.log sevWarning noCtx 0x0A none32 Key.niFailedAddresses (wordOfAddr a)).loseAddr a 0x25).afterTxns) := by
  change execMemberLost line a copy tick s = _
  exact congrArg Host.Outcome.next (if_neg (by rw [hup, hnew]; decide))

end

/-- Settles O37: the conditions of each row choose its branch, and the newest heartbeat stands first among those held. -/
theorem heartbeatsWatchAndDeclare : Obligations.HeartbeatsWatchAndDeclare := by
  unfold Obligations.HeartbeatsWatchAndDeclare
  intro s a dt tick line copy
  refine ⟨?send, fun hw => ?heard, exec_heartbeat_of_unwatched, fun h hh hw =>
    ⟨exec_heartbeatDeclare_of_early rfl hh, exec_heartbeatDeclare_of_due rfl hh hw⟩, fun d hd =>
    ⟨exec_memberLostCopy_of_due rfl hd, exec_memberLostCopy_of_early rfl hd⟩, exec_memberLost_of_seen, fun hup hnew => ?lost⟩
  case send =>
    refine ⟨fun hdue htag hgc => ?_, fun hnot => ?_⟩
    · exact (exec_heartbeatSend s dt).trans (congrArg Host.Outcome.next (if_pos (sendsHeartbeat_iff.mpr ⟨hdue, htag, hgc⟩)))
    · refine (exec_heartbeatSend s dt).trans (congrArg Host.Outcome.next (if_neg fun hsends => ?_))
      obtain ⟨hdue, htag, hgc⟩ := sendsHeartbeat_iff.mp hsends
      obtain hlate | hfree | hstill := hnot
      · exact hlate hdue
      · exact htag hfree
      · exact absurd (hgc.symm.trans hstill) (by decide)
  case heard => exact ⟨_, exec_heartbeat_of_watched hw, List.find?_cons_of_pos (beq_self_eq_true a), rfl⟩
  case lost =>
    exact ⟨fun h => (exec_memberLost_of_new hup hnew).trans (congrArg Host.Outcome.next (if_pos h)),
      fun h => (exec_memberLost_of_new hup hnew).trans (congrArg Host.Outcome.next (if_neg (ne_true_of_eq_false h)))⟩

end Sys2Proof.Machine
end

section
/-! SUPPORT. The proofs of the memory fabric (spec/13): atomic updates in either order, host accesses of remote addresses, requests served
at a target and responses at the requester. -/
namespace Sys2Proof.Machine
open Sys2Proof.Safety

/-! ### Atomic updates (R257, R259) -/

/-- The greater of two words as signed numbers (R257). -/
def signedMax (w a b : Nat) : Nat := if toSigned w a < toSigned w b then b else a

/-- The two's complement encoding gives back the word whose number it is. -/
theorem ofSigned_toSigned (w v : Nat) : ofSigned w (toSigned w v) = v % 2 ^ w := by
  have hword : (((v % 2 ^ w : Nat) : Int) % ((2 ^ w : Nat) : Int)).toNat = v % 2 ^ w := by
    rw [← Int.natCast_emod, Int.toNat_natCast, Nat.mod_mod]
  unfold ofSigned toSigned
  split_ifs
  · exact hword
  · rw [Int.sub_emod_right, hword]

theorem toSigned_signedMax (w a b : Nat) : toSigned w (signedMax w a b) = max (toSigned w a) (toSigned w b) := by
  unfold signedMax
  split_ifs with h
  · exact (max_eq_right h.le).symm
  · exact (max_eq_left (not_lt.mp h)).symm

section
variable {w a b c : Nat} (ha : a < 2 ^ w) (hb : b < 2 ^ w)
include ha hb

/-- Words that stand for the same signed number are the same word. -/
theorem toSigned_inj (h : toSigned w a = toSigned w b) : a = b := by
  rw [← Nat.mod_eq_of_lt ha, ← Nat.mod_eq_of_lt hb, ← ofSigned_toSigned, ← ofSigned_toSigned, h]

theorem signedMax_lt : signedMax w a b < 2 ^ w := by
  unfold signedMax
  split_ifs
  · exact hb
  · exact ha

/-- Both orders have the greatest of the three as signed number, and a word is known by its number. -/
theorem signedMax_right_comm (hc : c < 2 ^ w) :
    signedMax w (signedMax w a b) c = signedMax w (signedMax w a c) b := by
  refine toSigned_inj (signedMax_lt (signedMax_lt ha hb) hc) (signedMax_lt (signedMax_lt ha hc) hb) ?_
  simp only [toSigned_signedMax]
  exact max_right_comm _ _ _

end

section
variable (n old x y : Nat)

theorem atomicNew_add : atomicNew 1 n old x 0 = some ((old + x % 2 ^ (8 * n)) % 2 ^ (8 * n)) := rfl

theorem atomicNew_signedMax : atomicNew 4 n old x 0 = some (signedMax (8 * n) old (x % 2 ^ (8 * n))) := rfl

theorem atomicNew_max : atomicNew 5 n old x 0 = some (max old (x % 2 ^ (8 * n))) := rfl

end

/-- Settles O38: each operation is a sum or a greatest value, whose operands change places. -/
theorem atomicUpdatesCommute : Obligations.AtomicUpdatesCommute := by
  unfold Obligations.AtomicUpdatesCommute
  rintro op n old x y (rfl | rfl | rfl) - hold
  · simp only [atomicNew_add, Option.bind_some, Nat.mod_add_mod]
    rw [Nat.add_right_comm]
  · have hword (v : Nat) : v % 2 ^ (8 * n) < 2 ^ (8 * n) := Nat.mod_lt v (Nat.two_pow_pos _)
    simp only [atomicNew_signedMax, Option.bind_some]
    rw [signedMax_right_comm hold (hword x) (hword y)]
  · simp only [atomicNew_max, Option.bind_some]
    rw [max_right_comm]

/-! ### Host accesses of remote addresses (R250) -/

theorem regionOf_remote {a : Nat} (ha : 0x8000000000000 ≤ a) : regionOf a = .remote := if_pos ha

section
variable {s : State} {a n : Nat} {data : List Byte} {found : List (Nat × Finding)} (hlink : s.hostLink = true)
  (ha : 0x8000000000000 ≤ a)
include hlink ha

theorem exec_hostMemRead_of_remote (hn : 0 < n) :
    exec (.hostMemRead a n found) s = .next ((s.bump Key.mfHostRefused 1).toHost (.unsupported a)) := by
  change execHostMemRead a n found s = _
  simp [execHostMemRead, hlink, hn.ne', regionOf_remote ha]

theorem exec_hostMemWrite_of_remote (hdata : data ≠ []) :
    exec (.hostMemWrite a data found) s = .next (s.bump Key.mfHostRefused 1) := by
  change execHostMemWrite a data found s = _
  simp [execHostMemWrite, hlink, hdata, regionOf_remote ha]

end

/-- Settles O21: each row comes to one count, and the read to its completion besides. -/
theorem hostCannotReachRemoteAddresses : Obligations.HostCannotReachRemoteAddresses := by
  unfold Obligations.HostCannotReachRemoteAddresses
  intro s a n data found hlink ha hn hdata
  have honly := onlyRegs_bump s Key.mfHostRefused 1 [Key.mfHostRefused] List.mem_cons_self
  have hsame := sameButRegs_bump s Key.mfHostRefused 1
  refine ⟨_, _, exec_hostMemRead_of_remote hlink ha hn, ?answer, ?frame, honly, exec_hostMemWrite_of_remote hlink ha hdata, hsame, honly,
    fun hmax => ?count⟩
  case answer => exact congrArg (fun o : Outputs => o.host ++ [HostOut.unsupported a]) (State.bump_out s _ _)
  case frame => exact congrArg (fun t : State => { t with out := s.out }) hsame
  case count =>
    have hcount := reg_bump_same s Key.mfHostRefused 1 one_ne_zero hmax (by decide)
    exact ⟨hcount, hcount⟩

/-! ### Requests served in the order of their source (R256, R258) -/

section
variable {s : State} {src : Addr} {ctx txn : Nat} {b : Body}

theorem serveRequest_of_held (h : s.fab.held.any (fun z => z.1 == src) = true) :
    s.serveRequest src ctx txn b = s.modFab (fun f => { f with held := f.held ++ [(src, ctx, txn, b)] }) :=
  if_pos h

theorem serveRequest_of_applied {t : State} (h : s.fab.held.any (fun z => z.1 == src) = false)
    (ht : s.applyRequest src ctx txn b = (t, true)) : s.serveRequest src ctx txn b = t.requestApplied src := by
  rw [State.serveRequest, if_neg (ne_true_of_eq_false h), ht]
  rfl

end

section
variable {s : State} (hup : s.hubUp = true) (src : Addr) (ctx txn off : Nat) (found : List (Nat × Finding))
include hup

theorem exec_load_of_up (n : Nat) :
    exec (.load src ctx txn off n found) s = .next ((s.tellFound noCtx 5 found).serveRequest src ctx txn (.load off n)) := by
  change execLoad src ctx txn off n found s = _
  exact congrArg Host.Outcome.next (if_pos hup)

theorem exec_store_of_up (data : List Byte) :
    exec (.store src ctx txn off data found) s = .next ((s.tellFound noCtx 5 found).serveRequest src ctx txn (.store off data)) := by
  change execStore src ctx txn off data found s = _
  exact congrArg Host.Outcome.next (if_pos hup)

theorem exec_atomic_of_up (op w : Nat) (quiet : Bool) (x y : Nat) : exec (.atomic src ctx txn off op w quiet x y found) s =
    .next ((s.tellFound noCtx 5 found).serveRequest src ctx txn (.atomic off op w quiet x y)) := by
  change execAtomic src ctx txn off op w quiet x y found s = _
  exact congrArg Host.Outcome.next (if_pos hup)

theorem exec_signal_of_up (k inc : Nat) : exec (.signal src ctx k inc) s = .next (s.serveRequest src ctx 0 (.signal k inc)) := by
  change execSignal src ctx k inc s = _
  exact congrArg Host.Outcome.next (if_pos hup)

end

/-! ### Requests applied (R252, R256, R257) -/

/-- An ATOMIC is answered only where it wants its old value (R257). -/
def State.answerAtomic (s : State) (src : Addr) (ctx txn : Nat) (quiet : Bool) (status old : Nat) : State :=
  if quiet then s else s.respond src ctx (.atomicData txn status old)

section
variable {s : State} {src : Addr} {ctx txn off n : Nat} {data : List Byte}

theorem applyRequest_load_of_unbacked (hx : s.exportAt off n = none) : s.applyRequest src ctx txn (.load off n) =
    ((s.unbacked off).respond src ctx (.loadData txn 2 (List.replicate n 0)), true) := by
  simp only [State.applyRequest, hx]

theorem applyRequest_store_of_unbacked (hx : s.exportAt off data.length = none) :
    s.applyRequest src ctx txn (.store off data) = (s.unbacked off, true) := by
  simp only [State.applyRequest, hx]

theorem applyRequest_atomic_of_unbacked {op x y : Nat} {quiet : Bool} (hx : s.exportAt off n = none) :
    s.applyRequest src ctx txn (.atomic off op n quiet x y) = ((s.unbacked off).answerAtomic src ctx txn quiet 2 0, true) := by
  simp only [State.applyRequest, hx, State.answerAtomic]

variable {c : Fin 4} {h o' : Nat} {o : ObjRec} {v : Version}

theorem applyRequest_store_of_backed (hx : s.exportAt off data.length = some (c, h, o')) (ho : s.objRec h = some o)
    (hv : s.exportVersion c h = some v) : s.applyRequest src ctx txn (.store off data) =
      ((s.segmentWrite o v o' data).bump Key.mfRequestsServed 1, true) := by
  simp only [State.applyRequest, hx, ho, hv]

variable (hx : s.exportAt off n = some (c, h, o')) (ho : s.objRec h = some o) (hv : s.exportVersion c h = some v)
  (hok : (s.segmentRead o v o' n).1.1 = .ok)
include hx ho hv hok

theorem applyRequest_load_of_backed : s.applyRequest src ctx txn (.load off n) = (
    let r := (s.segmentRead o v o' n).2
    (r.bump Key.mfRequestsServed 1).respond src ctx (.loadData txn 0 (r.segmentBytes o v o' n)), true) := by
  simp only [State.applyRequest, hx, ho, hv, hok]

theorem applyRequest_atomic_of_backed {op x y z : Nat} {quiet : Bool}
    (hz : atomicNew op n (leNat ((s.segmentRead o v o' n).2.segmentBytes o v o' n)) x y = some z) :
    s.applyRequest src ctx txn (.atomic off op n quiet x y) = (
      let r := (s.segmentRead o v o' n).2
      let t := ((r.segmentWrite o v o' (leBytes n z)).bump Key.mfRequestsServed 1).bump Key.mfAtomicsServed 1
      t.answerAtomic src ctx txn quiet 0 (leNat (r.segmentBytes o v o' n)), true) := by
  simp only [State.applyRequest, hx, ho, hv, hok, hz, State.answerAtomic]

end

/-- A SIGNAL to a context that holds its resources counts, and what waits for the counter goes on (R34, R256). -/
theorem applyRequest_signal_of_holds {s : State} {src : Addr} {ctx txn k inc : Nat} {c : Fin 4} (hc : ctxIndex? ctx = some c)
    (hholds : s.holds c = true) : s.applyRequest src ctx txn (.signal k inc) =
      (((s.addCounter c k inc).bump Key.mfRequestsServed 1).settle, true) := by
  simp only [State.applyRequest, hc, if_pos hholds]

/-! ### Arrival counters (R34) -/

theorem counter_addCounter_other (s : State) (c : Fin 4) {k k' : Nat} (inc : Nat) (h : k' ≠ k) :
    (s.addCounter c k inc).counter c k' = s.counter c k' := by
  simp only [State.counter, State.addCounter, ctx_modCtx_same]
  exact sparseGet_sparseSet_other _ _ _ _ _ _ h

/-- A sum of 0 takes the counter off the list, where no second entry of it may stand behind the first. -/
theorem counter_addCounter_same (s : State) (c : Fin 4) (k inc : Nat)
    (h : 0 < s.counter c k + inc ∨ sparseWf (fun _ => 0) (s.ctx c).counters = true) :
    (s.addCounter c k inc).counter c k = min 0xFFFFFFFF (s.counter c k + inc) := by
  simp only [State.counter, State.addCounter, ctx_modCtx_same] at h ⊢
  obtain hpos | hwf := h
  · exact sparseGet_sparseSet_ne _ _ _ _ _ (by simp only [none32]; omega)
  · exact sparseGet_sparseSet_same (fun _ => 0) _ 0 _ _ hwf

/-- Settles O39: a request goes behind one that is held, or is applied as its range and its read allow and then acknowledged. -/
theorem remoteRequestsAreApplied : Obligations.RemoteRequestsAreApplied := by
  unfold Obligations.RemoteRequestsAreApplied
  intro s src ctx txn off n op w quiet x y k inc data found hup
  have hload := exec_load_of_up hup src ctx txn off found n
  have hstore := exec_store_of_up hup src ctx txn off found data
  have hatomic (quiet : Bool) := exec_atomic_of_up hup src ctx txn off found op w quiet x y
  have hsignal := exec_signal_of_up hup src ctx k inc
  refine ⟨⟨fun hheld => ?waits, fun hfree => ⟨fun hx => ?load0, fun hx => ?store0, fun hx => ?atomic0,
    fun c h o' o v hx ho hv => ?store, fun c h o' o v hx ho hv hok => ?load, fun c h o' o v z hx ho hv hok hz => ?atomic⟩⟩,
    fun hheld => ?signalWaits, fun c hfree hc hholds => ⟨?signal, counter_addCounter_same s c k inc, fun k' =>
      counter_addCounter_other s c inc⟩⟩
  case waits => simp only [hload, hstore, hatomic, serveRequest_of_held hheld, and_self]
  case load0 => rw [hload, serveRequest_of_applied hfree (applyRequest_load_of_unbacked hx)]
  case store0 => rw [hstore, serveRequest_of_applied hfree (applyRequest_store_of_unbacked hx)]
  case atomic0 =>
    rw [hatomic, hatomic, serveRequest_of_applied hfree (applyRequest_atomic_of_unbacked hx),
      serveRequest_of_applied hfree (applyRequest_atomic_of_unbacked hx)]
    exact ⟨rfl, rfl⟩
  case store => rw [hstore, serveRequest_of_applied hfree (applyRequest_store_of_backed hx ho hv)]
  case load => rw [hload, serveRequest_of_applied hfree (applyRequest_load_of_backed hx ho hv hok)]
  case atomic =>
    rw [hatomic, hatomic, serveRequest_of_applied hfree (applyRequest_atomic_of_backed hx ho hv hok hz),
      serveRequest_of_applied hfree (applyRequest_atomic_of_backed hx ho hv hok hz)]
    exact ⟨rfl, rfl⟩
  case signalWaits => rw [hsignal, serveRequest_of_held hheld]
  case signal => rw [hsignal, serveRequest_of_applied hfree (applyRequest_signal_of_holds hc hholds)]

/-! ### Responses (R263, R264) -/

section
variable {s u : State} {txn dt since : Nat} {t : Txn} {a : Addr} (hu : s.advance dt = u)
  (ht : u.fab.txns.find? (fun t => t.id == txn && awaitsResponse t.body && !t.abandoned) = some t) (hacked : t.acked = some (since, a))
include hu ht hacked

theorem exec_mfResponseTimeout_of_early (hearly : u.now < since + u.reg Key.mfResponseTimer) :
    exec (.mfResponseTimeout txn dt) s = .next u := by
  change execMfResponseTimeout txn dt s = _
  simp only [execMfResponseTimeout, hu, ht, hacked, if_pos hearly]

theorem exec_mfResponseTimeout_of_due (hdue : since + u.reg Key.mfResponseTimer ≤ u.now) : exec (.mfResponseTimeout txn dt) s =
    .next ((((u.bump Key.mfResponseTimeouts 1).answered t).txnFailed t.owner 0x21 a t.piece).drainFails.copyPumpAll) := by
  change execMfResponseTimeout txn dt s = _
  simp only [execMfResponseTimeout, hu, ht, hacked, if_neg hdue.not_gt]

end

/-- Settles O40: the rows of the responses take them for their transaction, and the timer of the other has run out or has not. -/
theorem remoteResponsesAreTaken : Obligations.RemoteResponsesAreTaken := by
  unfold Obligations.RemoteResponsesAreTaken
  intro s txn status old dt data
  exact ⟨rfl, rfl, fun t since a ht hacked =>
    ⟨exec_mfResponseTimeout_of_early rfl ht hacked, exec_mfResponseTimeout_of_due rfl ht hacked⟩⟩

end Sys2Proof.Machine
end

section
/-! SUPPORT. What every command keeps: for each function of the model that changes the state, one lemma that it leaves the queue as
it was and the memories and the dictionary in canonical form (R146, R155, R372); from these the same of every command and step. -/
-- Elaborated in order: the whole text stays within the memory of one process only so.
set_option Elab.async false
namespace Sys2Proof.Machine
open Sys2Proof.Safety

/-! ### What every command keeps: the queue, and the canonical form of the memories -/

/-- The byte memories are in canonical form. -/
def Mem.Canonical (m : Mem) : Prop := Memory.wf m.cells = true ∧ Memory.wf m.reserve = true ∧ Memory.wf m.flash = true

/-- A state is canonical where its dictionary values and bytes are and its memories are. -/
theorem canonical_iff (s : State) :
    Canonical s ↔ sparseWf dictDefault s.regs = true ∧ sparseWf bulkDefaultAt s.bulk = true ∧ s.mem.Canonical := Iff.rfl

/-- `t` has the queue of `s`, and is canonical where `s` is. -/
structure Keeps (s t : State) : Prop where
  canonical : Canonical s → Canonical t
  pending : t.pending = s.pending

theorem Keeps.refl (s : State) : Keeps s s := ⟨id, rfl⟩

/-- The command answers a next state that keeps what `Keeps` says. -/
def Answers (s : State) (o : Host.Outcome State Fault Refusal) : Prop := ∃ t, o = .next t ∧ Keeps s t

theorem Answers.next {s t : State} (h : Keeps s t) : Answers s (.next t) := ⟨t, rfl, h⟩

/-! ### Memories -/

section
variable {m : Mem} (hm : m.Canonical)
include hm

theorem Mem.Canonical.congr {m' : Mem} (e : (m'.cells, m'.reserve, m'.flash) = (m.cells, m.reserve, m.flash)) : m'.Canonical := by
  simp only [Prod.mk.injEq] at e
  obtain ⟨e1, e2, e3⟩ := e
  unfold Mem.Canonical
  rw [e1, e2, e3]
  exact hm

theorem Mem.Canonical.releaseFrames {fs : List Nat} : (m.releaseFrames fs).Canonical :=
  List.foldlRecOn fs _ hm fun _ h _ _ => ⟨wf_cellClear _ _ _ h.1, h.2⟩

theorem Mem.Canonical.rehold {fs : List Nat} {holder : Holder} : (m.rehold fs holder).Canonical :=
  List.foldlRecOn fs _ hm fun m h f _ => by
    split
    · exact h.congr rfl
    · exact h

theorem Mem.Canonical.clearAreas {l : List Extent} :
    Memory.wf (l.foldl (fun cs e => cellClear cs (e.first * frameBytes) (e.count * frameBytes)) m.cells) = true :=
  List.foldlRecOn (motive := fun cs => Memory.wf cs = true) _ _ hm.1 fun _ h _ _ => wf_cellClear _ _ _ h

theorem Mem.Canonical.writeFlash {a : Nat} {bs : List Byte} : { m with flash := cellWrite m.flash a bs }.Canonical :=
  ⟨hm.1, hm.2.1, wf_cellWrite bs _ _ hm.2.2⟩

theorem Mem.Canonical.clearFlash {a n : Nat} : { m with flash := cellClear m.flash a n }.Canonical :=
  ⟨hm.1, hm.2.1, wf_cellClear _ _ _ hm.2.2⟩

theorem Mem.Canonical.putFlash {a n : Nat} {cs : List Host.Cell} :
    { m with flash := cs.foldl (fun x (c : Host.Cell) => cellSet x (a + c.1) c.2) (cellClear m.flash a n) }.Canonical :=
  ⟨hm.1, hm.2.1, wf_foldl_cellSet _ _ cs _ (wf_cellClear _ _ _ hm.2.2)⟩

theorem Mem.Canonical.setFrame {f : Nat} {cs : List Host.Cell} : (m.setFrame f cs).Canonical :=
  ⟨wf_foldl_cellSet _ _ cs _ (wf_cellClear _ _ _ hm.1), hm.2⟩

end

/-- A memory from which `take` has taken a frame is canonical where the one before is. -/
def FrameCanonical (take : Mem → Option Nat → Nat → Holder → Option (Nat × Bool × Mem)) : Prop :=
  ∀ m want check holder f far m', m.Canonical → take m want check holder = some (f, far, m') → m'.Canonical

/-- A memory from which `take` has taken frames is canonical where the one before is. -/
def FramesCanonical (take : Mem → Nat → Holder → List (Option Nat) → Option (List Nat × Nat × Mem)) : Prop :=
  ∀ l m check holder fs far m', m.Canonical → take m check holder l = some (fs, far, m') → m'.Canonical

/- Which stack the frame comes of is kept opaque: its search over the stack’s frames is too deep for the kernel to unfold. -/
theorem frameCanonical_takeFrame : FrameCanonical Mem.takeFrame := by
  delta Mem.takeFrame
  generalize Mem.stretch = stretch
  generalize Mem.mostFree = mostFree
  revert stretch mostFree
  refine id fun stretch mostFree m want check holder f far m' hm h => ?_
  dsimp only at h
  split at h
  · cases h
  · cases h
    exact ⟨wf_cellClear _ _ _ hm.1, hm.2⟩

theorem framesCanonical_takeFrames : FramesCanonical Mem.takeFrames := by
  have hg := frameCanonical_takeFrame
  delta Mem.takeFrames Mem.takeFrames._f
  generalize Mem.takeFrame = take at hg ⊢
  revert take
  refine id fun take hg l => ?_
  induction l with
  | nil => intro m check holder fs far m' hm h; cases h; exact hm
  | cons w ws ih =>
    intro m check holder fs far m' hm h
    dsimp only at h
    split at h
    · cases h
    · next h1 =>
      split at h
      · cases h
      · next h2 => cases h; exact ih _ _ _ _ _ _ (hg _ _ _ _ _ _ _ hm h1) h2

theorem Mem.Canonical.takeFrames {m : Mem} (hm : m.Canonical) {check : Nat} {holder : Holder} {l : List (Option Nat)}
    {fs : List Nat} {far : Nat} {m' : Mem} (h : m.takeFrames check holder l = some (fs, far, m')) : m'.Canonical :=
  framesCanonical_takeFrames l m check holder fs far m' hm h

/-! ### Changes of the state -/

section
variable {s t : State}

namespace Keeps

/-- A change of anything but the dictionary, the memories and the queue. -/
theorem frame (h :
    Keeps s t) {image bufBlocks loading ctxs tiles pools ports fab heldEnters time coded ckpt events faultSeq acc start power
    out freeCount} :
    Keeps s { t with
      image := image, bufBlocks := bufBlocks, loading := loading, ctxs := ctxs, tiles := tiles, pools := pools, ports := ports,
          fab := fab
      heldEnters := heldEnters, time := time, coded := coded, ckpt := ckpt, events := events, faultSeq := faultSeq, acc := acc
      start := start, power := power, out := out, freeCount := freeCount } :=
  ⟨fun hs => canonical_congr rfl rfl rfl rfl rfl (h.canonical hs), h.pending⟩

theorem fst (h : Keeps s t) {β : Type} {x : β} : Keeps s (t, x).1 := h

theorem snd (h : Keeps s t) {β : Type} {x : β} : Keeps s (x, t).2 := h

theorem ite (h : Keeps s t) {u : State} (h' : Keeps s u) {c : Prop} [Decidable c] : Keeps s (if c then t else u) := by
  split
  exacts [h, h']

theorem iteFst {β : Type} {a b : State × β} (h : Keeps s a.1) (h' : Keeps s b.1) {c : Prop} [Decidable c] :
    Keeps s (if c then a else b).1 := by
  split
  exacts [h, h']

theorem iteSnd {β : Type} {a b : β × State} (h : Keeps s a.2) (h' : Keeps s b.2) {c : Prop} [Decidable c] :
    Keeps s (if c then a else b).2 := by
  split
  exacts [h, h']

theorem forEach (h : Keeps s t) {β : Type} {l : List β} {f : State → β → State} (hf : ∀ t x, Keeps s t → Keeps s (f t x)) :
    Keeps s (t.forEach l f) :=
  forEach_induct (Keeps s) f hf l t h

/-- A fold whose accumulator holds the state first. -/
theorem foldl_fst {β γ : Type} {l : List β} {f : State × γ → β → State × γ} {a : State × γ} (h : Keeps s a.1)
    (hf : ∀ a x, Keeps s a.1 → Keeps s (f a x).1) : Keeps s (l.foldl f a).1 :=
  List.foldlRecOn l f (motive := fun a => Keeps s a.1) h fun a ha x _ => hf a x ha

/-- A fold whose accumulator holds the state second. -/
theorem foldl_snd {β γ : Type} {l : List β} {f : γ × State → β → γ × State} {a : γ × State} (h : Keeps s a.2)
    (hf : ∀ a x, Keeps s a.2 → Keeps s (f a x).2) : Keeps s (l.foldl f a).2 :=
  List.foldlRecOn l f (motive := fun a => Keeps s a.2) h fun a ha x _ => hf a x ha

/-- A fold over the progress within a segment. -/
theorem foldl_seg {β : Type} {l : List β} {f : SegSt → β → SegSt} {a : SegSt} (h : Keeps s a.s)
    (hf : ∀ a x, Keeps s a.s → Keeps s (f a x).s) : Keeps s (l.foldl f a).s :=
  List.foldlRecOn l f (motive := fun a => Keeps s a.s) h fun a ha x _ => hf a x ha

/-- Other memories, canonical where the ones before are. -/
theorem withMem (h : Keeps s t) {m : Mem} (hm : t.mem.Canonical → m.Canonical) : Keeps s { t with mem := m } :=
  ⟨fun hs => have ⟨h1, h2, h3⟩ := (canonical_iff t).mp (h.canonical hs); ⟨h1, h2, hm h3⟩, h.pending⟩

/-- A change of the memories that keeps their canonical form. -/
theorem onMem (h : Keeps s t) {f : Mem → Mem} (hf : ∀ m : Mem, m.Canonical → (f m).Canonical) : Keeps s (t.modMem f) :=
  h.withMem (hf t.mem)

/-- A change of what the memory system holds beside the bytes. -/
theorem modMem (h : Keeps s t) {f : Mem → Mem}
    (e : ∀ m, ((f m).cells, (f m).reserve, (f m).flash) = (m.cells, m.reserve, m.flash) := by exact fun _ => rfl) :
    Keeps s (t.modMem f) :=
  h.onMem fun m hm => hm.congr (e m)

theorem setReg (h : Keeps s t) {k v} : Keeps s (t.setReg k v) := ⟨fun hs => canonical_setReg t k v (h.canonical hs), h.pending⟩

theorem setBulkByte (h : Keeps s t) {k off b} : Keeps s (t.setBulkByte k off b) :=
  ⟨fun hs => canonical_setBulkByte t k off b (h.canonical hs), h.pending⟩

theorem setBulk {bs : List Byte} {t : State} (h : Keeps s t) {k off} : Keeps s (t.setBulk k off bs) := by
  induction bs generalizing t off with
  | nil => exact h
  | cons b bs ih => exact ih h.setBulkByte

theorem memWrite (h : Keeps s t) {a bs} : Keeps s (t.memWrite a bs) :=
  h.withMem fun hm => ⟨wf_cellWrite bs _ a hm.1, hm.2⟩

theorem putFrame (h : Keeps s t) {f cs} : Keeps s (t.modMem fun m => m.setFrame f cs) := h.onMem fun _ hm => hm.setFrame

/-! Ops -/

theorem bump (h : Keeps s t) {k n} : Keeps s (t.bump k n) := by
  unfold State.bump
  exact h.ite (h.setReg.ite h.setReg)

theorem raise (h : Keeps s t) {k v} : Keeps s (t.raise k v) := by
  unfold State.raise
  exact h.setReg.ite h

theorem setRegI (h : Keeps s t) {k x} : Keeps s (t.setRegI k x) := by
  unfold State.setRegI
  exact h.setReg

theorem modCtx (h : Keeps s t) {c f} : Keeps s (t.modCtx c f) := by
  unfold State.modCtx
  exact h.frame

theorem modQueue (h : Keeps s t) {c q f} : Keeps s (t.modQueue c q f) := by
  unfold State.modQueue
  exact h.modCtx

theorem setRun (h : Keeps s t) {c q r} : Keeps s (t.setRun c q r) := by
  unfold State.setRun
  exact h.modQueue

theorem modRun (h : Keeps s t) {c q f} : Keeps s (t.modRun c q f) := by
  unfold State.modRun
  exact h.modQueue

theorem modPort (h : Keeps s t) {p f} : Keeps s (t.modPort p f) := by
  unfold State.modPort
  exact h.frame

theorem modFab (h : Keeps s t) {f} : Keeps s (t.modFab f) := by
  unfold State.modFab
  exact h.frame

theorem modCoded (h : Keeps s t) {f} : Keeps s (t.modCoded f) := by
  unfold State.modCoded
  exact h.frame

theorem modCkpt (h : Keeps s t) {f} : Keeps s (t.modCkpt f) := by
  unfold State.modCkpt
  exact h.frame

theorem modAcc (h : Keeps s t) {f} : Keeps s (t.modAcc f) := by
  unfold State.modAcc
  exact h.frame

theorem modPools (h : Keeps s t) {f} : Keeps s (t.modPools f) := by
  unfold State.modPools
  exact h.frame

theorem modStart (h : Keeps s t) {f} : Keeps s (t.modStart f) := by
  unfold State.modStart
  exact h.frame

theorem modPower (h : Keeps s t) {f} : Keeps s (t.modPower f) := by
  unfold State.modPower
  exact h.frame

theorem modTime (h : Keeps s t) {f} : Keeps s (t.modTime f) := by
  unfold State.modTime
  exact h.frame

theorem toHost (h : Keeps s t) {o} : Keeps s (t.toHost o) := by
  unfold State.toHost
  exact h.frame

theorem free (h : Keeps s t) {place} : Keeps s (t.free place).2 := by
  unfold State.free
  exact snd h.frame

theorem clearPoison (h : Keeps s t) {a n} : Keeps s (t.clearPoison a n) := by
  unfold State.clearPoison
  exact h.modMem

theorem clearUpsets (h : Keeps s t) {a n} : Keeps s (t.clearUpsets a n) := by
  unfold State.clearUpsets
  exact h.modMem

theorem busWrite (h : Keeps s t) {a bs} : Keeps s (t.busWrite a bs) := by
  unfold State.busWrite
  split
  exacts [(h.forEach fun _ _ h => h.bump).modMem.clearPoison.clearUpsets.memWrite,
    h.onMem fun _ hm => ⟨hm.1, wf_cellWrite bs _ _ hm.2.1, hm.2.2⟩, h.clearUpsets.memWrite, h]

theorem takeReturns (h : Keeps s t) {p n} : Keeps s (t.takeReturns p n).2 := by
  unfold State.takeReturns
  exact snd h.modPort

theorem sendIdle (h : Keeps s t) {p n} : Keeps s (t.sendIdle p n) := by
  unfold State.sendIdle
  exact h.takeReturns.modPort.frame

theorem countFlits (h : Keeps s t) {p n} : Keeps s (t.countFlits p n) := by
  unfold State.countFlits
  exact (h.sendIdle.ite h).modPort

theorem sendLink (h : Keeps s t) {p m} : Keeps s (t.sendLink p m) := by
  unfold State.sendLink
  exact h.countFlits.takeReturns.bump.frame

theorem sendAbortFlit (h : Keeps s t) {p tag tc vc} : Keeps s (t.sendAbortFlit p tag tc vc) := by
  unfold State.sendAbortFlit
  exact h.countFlits.takeReturns.bump.frame

theorem setCap (h : Keeps s t) {v} : Keeps s (t.setCap v) := by
  unfold State.setCap
  exact h.setReg.frame

theorem logMask (h : Keeps s t) {mask code sev c src cmd entry value} :
    Keeps s (t.logMask mask code sev c src cmd entry value) :=
  ⟨fun hs => canonical_logMask t mask code sev c src cmd entry value (h.canonical hs),
    (congrArg State.pending (logMask_frame t mask code sev c src cmd entry value)).trans h.pending⟩

theorem log (h : Keeps s t) {sev c src cmd entry value} : Keeps s (t.log sev c src cmd entry value) := by
  unfold State.log
  exact h.logMask

theorem logCtx (h : Keeps s t) {c code sev src cmd entry value} : Keeps s (t.logCtx c code sev src cmd entry value) := by
  unfold State.logCtx
  exact h.logMask

theorem logModule (h : Keeps s t) {code sev src entry value} : Keeps s (t.logModule code sev src entry value) := by
  unfold State.logModule
  exact h.logMask

theorem ackMask (h : Keeps s t) {m w} : Keeps s (t.ackMask m w) := by
  unfold State.ackMask
  exact (h.forEach fun _ _ h => (h.setReg.ite h)).frame

/-! Clock -/

theorem idlePorts (h : Keeps s t) : Keeps s t.idlePorts := by
  unfold State.idlePorts
  exact h.forEach fun _ _ h => (h.sendIdle.ite h)

theorem passTime (h : Keeps s t) {dt} : Keeps s (t.passTime dt) := by
  unfold State.passTime
  exact ((h.bump.ite h).bump.ite (h.bump.ite h)).frame

theorem advance (h : Keeps s t) {dt} : Keeps s (t.advance dt) := by
  unfold State.advance
  exact h.ite h.passTime.idlePorts

/-! Fabric -/

theorem freeBuffers (h : Keeps s t) {inPort idx n} : Keeps s (t.freeBuffers inPort idx n) := by
  unfold State.freeBuffers
  split
  exacts [h, h.modPort]

theorem freeKept (h : Keeps s t) {tag key kind} : Keeps s (t.freeKept tag key kind) := by
  unfold State.freeKept
  exact h.modFab.forEach fun _ _ h => (h.ite h.freeBuffers)

theorem freeKeptOf (h : Keeps s t) {c} : Keeps s (t.freeKeptOf c) := by
  unfold State.freeKeptOf
  exact h.modFab.forEach fun _ _ h => (h.ite h.freeBuffers)

theorem freeRefused (h : Keeps s t) {pk} : Keeps s (t.freeRefused pk) := by
  unfold State.freeRefused
  exact h.modFab.forEach fun _ _ h => (h.ite h.freeBuffers)

theorem deliverHere (h : Keeps s t) {inPort pk whole} : Keeps s (t.deliverHere inPort pk whole) := by
  unfold State.deliverHere
  exact h.modFab

theorem startPacket (h : Keeps s t) {w} : Keeps s (t.startPacket w) := by
  unfold State.startPacket
  split
  · exact h
  · extract_lets _ _ _ _ _ _ _ s5 s6
    have h5 : Keeps s s5 := h.countFlits.takeReturns.modPort.frame.bump.bump.modFab
    have h6 : Keeps s s6 := h5.ite h5.freeBuffers
    split
    exacts [h6, h6.modPort]

theorem addQuanta (h : Keeps s t) {p} : Keeps s (t.addQuanta p) := by
  unfold State.addQuanta
  exact h.modPort

theorem pumpPort {n : Nat} {t : State} (h : Keeps s t) {p} : Keeps s (t.pumpPort p n) := by
  induction n generalizing t with
  | zero => exact h
  | succ n ih =>
    unfold State.pumpPort
    split
    exacts [ih h.startPacket.modPort, .ite (ih h.addQuanta) h]

theorem pump (h : Keeps s t) : Keeps s t.pump := by
  unfold State.pump
  exact h.forEach fun _ _ h => h.pumpPort

theorem queuePacket (h : Keeps s t) {inPort inVc outPort pk} : Keeps s (t.queuePacket inPort inVc outPort pk) := by
  unfold State.queuePacket
  exact h.modFab

theorem dropHere (h : Keeps s t) {inPort pk k} : Keeps s (t.dropHere inPort pk k) := by
  unfold State.dropHere
  exact h.bump.freeBuffers

theorem forward1 (h : Keeps s t) {inPort pk d} : Keeps s (t.forward1 inPort pk d) := by
  unfold State.forward1
  split
  exacts [h.deliverHere.ite h.deliverHere.freeBuffers, h.dropHere,
      h.dropHere.ite ((h.bump.ite h).dropHere.ite (h.bump.ite h).queuePacket)]

theorem forwardTree (h : Keeps s t) {inPort pk} : Keeps s (t.forwardTree inPort pk) := by
  unfold State.forwardTree
  extract_lets _ _ _ _ s2
  have h2 : Keeps s s2 := by
    unfold s2
    refine (h.bump.ite h).forEach fun _ _ h => ?_
    split
    exacts [h.deliverHere, h.bump, h.ite ((h.bump.ite h).bump.ite (h.bump.ite h).queuePacket)]
  exact h2.ite h2.freeBuffers

theorem inject (h : Keeps s t) {pk} : Keeps s (t.inject pk) := by
  unfold State.inject
  extract_lets s1
  have h1 : Keeps s s1 := by
    unfold s1
    split
    · exact h.forwardTree
    · split
      exacts [h.forward1, h]
  exact h1.pump

theorem sendControl (h : Keeps s t) {dst ctx b} : Keeps s (t.sendControl dst ctx b) := by
  unfold State.sendControl
  exact h.inject

theorem startLine (h : Keeps s t) {p pk} : Keeps s (t.startLine p pk) := by
  unfold State.startLine
  exact h.queuePacket.ite h.bump

theorem sendLine (h : Keeps s t) {d b} : Keeps s (t.sendLine d b) := by
  unfold State.sendLine
  extract_lets _ _ _ s1
  have h1 : Keeps s s1 := h.ite h.startLine
  exact ((h.forEach fun _ _ h => h.startLine).ite (h1.ite h1.startLine)).pump

theorem nextSeq (h : Keeps s t) {a tc} : Keeps s (t.nextSeq a tc).2 := by
  unfold State.nextSeq
  split <;> exact snd h.modFab

theorem nextSeqs {l : List Addr} {t : State} (h : Keeps s t) {tc} : Keeps s (t.nextSeqs tc l).2 := by
  induction l generalizing t with
  | nil => exact h
  | cons a l ih => exact ih h.nextSeq

theorem txnFailed (h : Keeps s t) {o code a piece} : Keeps s (t.txnFailed o code a piece) := by
  unfold State.txnFailed
  exact h.modFab

theorem launchTxn (h : Keeps s t) {x1} : Keeps s (t.launchTxn x1) := by
  unfold State.launchTxn
  exact h.nextSeqs.modFab.inject

theorem screenDsts (h : Keeps s t) {x} : Keeps s (t.screenDsts x).1 := by
  unfold State.screenDsts
  refine h.foldl_fst fun _ _ h => ?_
  dsimp only
  split
  · exact h.txnFailed
  · split
    · exact h.bump.log.txnFailed
    · split
      exacts [h.txnFailed, h]

theorem submit (h : Keeps s t) {x1} : Keeps s (t.submit x1) := by
  unfold State.submit
  exact h.screenDsts.ite (h.screenDsts.modFab.ite h.screenDsts.launchTxn)

theorem sendTo (h : Keeps s t) {owner ctx tc a piece b} : Keeps s (t.sendTo owner ctx tc a piece b) := by
  unfold State.sendTo
  exact h.submit

theorem sendTree (h : Keeps s t) {owner ctx tc l piece b} : Keeps s (t.sendTree owner ctx tc l piece b) := by
  unfold State.sendTree
  exact (h.forEach fun _ _ h => h.submit).ite (h.bump.forEach fun _ _ h => h.txnFailed)

theorem niPump {n : Nat} {t : State} (h : Keeps s t) : Keeps s (t.niPump n) := by
  induction n generalizing t with
  | zero => exact h
  | succ n ih =>
    unfold State.niPump
    split
    exacts [h, ih h.modFab.launchTxn]

theorem requeueRank (h : Keeps s t) {old new} : Keeps s (t.requeueRank old new) := by
  unfold State.requeueRank
  exact h.modFab

theorem niResume (h : Keeps s t) : Keeps s t.niResume := by
  unfold State.niResume
  exact h.niPump

theorem withdraw (h : Keeps s t) {o abandon} : Keeps s (t.withdraw o abandon) := by
  unfold State.withdraw
  exact h.modFab

theorem reapTxns (h : Keeps s t) : Keeps s t.reapTxns := by
  unfold State.reapTxns
  exact h.modFab.niResume

theorem markFailed (h : Keeps s t) {a code} : Keeps s (t.markFailed a code) := by
  unfold State.markFailed
  extract_lets _ _ _ s2
  have h2 : Keeps s s2 := h.ite (h.log.ite h).modFab
  exact (((h2.modFab.ite h2).forEach fun _ _ h => (h.ite h.txnFailed)).modFab.forEach fun _ _ h => h.txnFailed).modFab.reapTxns

theorem sendAck (h : Keeps s t) {a tc} : Keeps s (t.sendAck a tc) := by
  unfold State.sendAck
  split <;> exact h.sendControl

/-! Frames -/

theorem takeObject (h : Keeps s t) {o holder x} (e : t.takeObject o holder = some x) : Keeps s x.2 := by
  unfold State.takeObject at e
  split at e
  · cases e
  · next e' => cases e; exact (h.withMem fun hm => hm.takeFrames e').bump

theorem modInst (h : Keeps s t) {x1 o f} : Keeps s (t.modInst x1 o f) := by
  unfold State.modInst
  exact h.modMem

theorem verFill (h : Keeps s t) {o v cs} : Keeps s (t.verFill o v cs) := by
  unfold State.verFill
  refine h.forEach fun _ _ h => ?_
  split
  exacts [h.memWrite, h]

theorem noteHbm (h : Keeps s t) {c} : Keeps s (t.noteHbm c) := by
  unfold State.noteHbm
  exact h.setReg.raise

theorem noteProgrammed (h : Keeps s t) {l} : Keeps s (t.noteProgrammed l) := by
  unfold State.noteProgrammed
  exact h.bump.ite h

theorem noteTiers (h : Keeps s t) : Keeps s t.noteTiers := by
  unfold State.noteTiers
  exact h.setReg.setReg.setReg

/-! Crews -/

theorem sendAbort (h : Keeps s t) {c cmd cr origin code} : Keeps s (t.sendAbort c cmd cr origin code) := by
  unfold State.sendAbort
  split
  · exact h
  · refine h.forEach fun _ _ h => ?_
    split
    exacts [h.ite h.sendControl, h]

theorem noteCrews (h : Keeps s t) : Keeps s t.noteCrews := by
  unfold State.noteCrews
  exact h.setReg

/-! Pool -/

theorem notePool (h : Keeps s t) {o p} : Keeps s (t.notePool o p) := by
  unfold State.notePool
  exact h.setReg.raise.setReg.raise

theorem notePressed (h : Keeps s t) {p was} : Keeps s (t.notePressed p was) := by
  unfold State.notePressed
  exact h.bump.ite h

theorem poolMark (h : Keeps s t) {b first n} : Keeps s (t.poolMark b first n) := by
  unfold State.poolMark
  exact h.modPools

theorem poolTake (h : Keeps s t) {b} : Keeps s (t.poolTake b).2 := by
  unfold State.poolTake
  exact snd (h.modPools.notePool.log.bump.modPools.ite h.modPools.notePool).notePressed

theorem poolRequest (h : Keeps s t) {b port pieces} : Keeps s (t.poolRequest b port pieces).2 := by
  unfold State.poolRequest
  extract_lets
  split
  exacts [snd h.poolTake, snd h.modPools.bump]

theorem poolFree (h : Keeps s t) {b} : Keeps s (t.poolFree b) := by
  unfold State.poolFree
  exact h.modPools.notePool.notePressed.modPools.ite h.modPools.notePool.notePressed

theorem poolDrop (h : Keeps s t) {p index n} : Keeps s (t.poolDrop p index n).2 := by
  unfold State.poolDrop
  split
  · exact snd h.bump
  · split
    · exact snd h.bump
    · split
      exacts [snd h.poolFree, snd h.modPools]

theorem poolSetRefs (h : Keeps s t) {b n} : Keeps s (t.poolSetRefs b n) := by
  unfold State.poolSetRefs
  exact h.poolFree.ite h.modPools

theorem poolStalled (h : Keeps s t) {w} : Keeps s (t.poolStalled w) := by
  unfold State.poolStalled
  exact h.bump

theorem poolTestHead (h : Keeps s t) {p} : Keeps s (t.poolTestHead p).2 := by
  unfold State.poolTestHead
  split
  · exact snd h
  · split
    exacts [snd h.modPools.poolStalled.poolTake, snd h]

theorem freeIncomplete (h : Keeps s t) {c cmd} : Keeps s (t.freeIncomplete c cmd) := by
  unfold State.freeIncomplete
  exact h.forEach fun _ _ h => h.poolFree

theorem poolTeardown (h : Keeps s t) {c} : Keeps s (t.poolTeardown c) := by
  unfold State.poolTeardown
  exact (h.forEach fun _ _ h => h.poolStalled.bump).modPools.forEach fun _ _ h => h.poolFree

/-! Command -/

theorem addCounter (h : Keeps s t) {c i n} : Keeps s (t.addCounter c i n) := by
  unfold State.addCounter
  exact h.modCtx

theorem writeWait (h : Keeps s t) {c cmd start dur obj kind tile value seg} :
    Keeps s (t.writeWait c cmd start dur obj kind tile value seg) := by
  unfold State.writeWait
  extract_lets _ _ x2 x3 s1
  have h1 : Keeps s s1 := by
    unfold s1
    unfold x3
    split
    · refine snd ?_
      unfold x2
      split
      exacts [snd h, h.free]
    · refine .free ?_
      unfold x2
      split
      exacts [snd h, h.free]
  exact h.ite h1.busWrite.bump

theorem advanceCount (h : Keeps s t) {k} : Keeps s (t.advanceCount k) := by
  unfold State.advanceCount
  exact h.setReg

theorem postRecord (h : Keeps s t) {c r} : Keeps s (t.postRecord c r) := by
  unfold State.postRecord
  exact (h.ite h.busWrite.toHost).advanceCount.advanceCount

theorem flushRecords {n : Nat} {t : State} (h : Keeps s t) {c} : Keeps s (t.flushRecords c n) := by
  induction n generalizing t with
  | zero => exact h
  | succ n ih =>
    unfold State.flushRecords
    split
    exacts [h, .ite (ih h.postRecord.modCtx) h]

theorem writeSat (h : Keeps s t) {c r mode} : Keeps s (t.writeSat c r mode) := by
  unfold State.writeSat
  exact h.ite (h.bump.bump.bump.bump.bump.ite h.bump.bump.bump.bump.bump.busWrite.bump)

theorem dropFrames (h : Keeps s t) {fs} : Keeps s (t.dropFrames fs) := by
  unfold State.dropFrames
  exact (h.onMem (fun _ hm => hm.rehold)).ite (h.onMem (fun _ hm => hm.releaseFrames))

theorem releaseHeld (h : Keeps s t) {fs} : Keeps s (t.releaseHeld fs) := by
  unfold State.releaseHeld
  exact h.ite (h.onMem (fun _ hm => hm.releaseFrames))

theorem modTile (h : Keeps s t) {tile f} : Keeps s (t.modTile tile f) := by
  unfold State.modTile
  split
  exacts [h.frame, h]

theorem gatedWait (h : Keeps s t) {tile dur wake all} : Keeps s (t.gatedWait tile dur wake all) := by
  unfold State.gatedWait
  exact h.bump.modTile.ite h.bump.modTile.modMem

theorem closeWait (h : Keeps s t) {c cmd x3 w start tick killed} : Keeps s (t.closeWait c cmd x3 w start tick killed) := by
  unfold State.closeWait
  exact h.writeWait.bump.gatedWait.modTile.ite h.writeWait.bump.gatedWait

theorem closeHold (h : Keeps s t) {c cmd x3} : Keeps s (t.closeHold c cmd x3) := by
  unfold State.closeHold
  exact h.writeWait.bump.gatedWait

theorem closeBlockWaits (h : Keeps s t) {c r} : Keeps s (t.closeBlockWaits c r) := by
  unfold State.closeBlockWaits
  refine h.forEach fun _ _ h => ?_
  extract_lets s1
  have h1 : Keeps s s1 := h.ite h.closeHold
  split
  exacts [h1, h1.closeWait]

theorem dropStaged (h : Keeps s t) {v} : Keeps s (t.dropStaged v) := by
  unfold State.dropStaged
  exact (h.onMem (fun _ hm => hm.releaseFrames)).forEach fun _ _ h => (h.onMem (fun _ hm => ⟨wf_cellClear _ _ _ hm.1, hm.2⟩))

theorem endStreams (h : Keeps s t) {c q} : Keeps s (t.endStreams c q) := by
  unfold State.endStreams
  exact h.modMem

theorem killRun (h : Keeps s t) {c q} : Keeps s (t.killRun c q) := by
  unfold State.killRun
  split
  · exact h
  · split
    · exact h
    · extract_lets s1 s2 _ _ s5 s6
      have h1 : Keeps s s1 := h.closeBlockWaits
      have h2 : Keeps s s2 := by
        unfold s2
        split
        exacts [h1.bump, h1]
      have h5 : Keeps s s5 := (h2.forEach fun _ _ h => h.dropStaged).withdraw.endStreams.setRun
      have h6 : Keeps s s6 := h5.modCtx.ite h5
      exact (h6.freeIncomplete.ite h6).bump.noteHbm.noteCrews

theorem takeCap (h : Keeps s t) : Keeps s t.takeCap := by
  unfold State.takeCap
  split
  exacts [h, h.modPower.setCap]

theorem capIdle (h : Keeps s t) : Keeps s t.capIdle := by
  unfold State.capIdle
  exact h.ite h.takeCap

theorem settlePreempt (h : Keeps s t) {c} : Keeps s (t.settlePreempt c) := by
  unfold State.settlePreempt
  exact h.modCtx.setReg.capIdle.ite h

theorem leaveCrew (h : Keeps s t) {c r code} : Keeps s (t.leaveCrew c r code) := by
  unfold State.leaveCrew
  split
  exacts [h.sendAbort.ite h, h]

theorem releaseContext (h : Keeps s t) {c} : Keeps s (t.releaseContext c) := by
  unfold State.releaseContext
  extract_lets _ s1
  have h1 : Keeps s s1 := by
    unfold s1
    refine h.forEach fun _ _ h => ?_
    extract_lets s1
    have h1 : Keeps s s1 := by
      unfold s1
      split
      exacts [h.dropFrames, h]
    split
    exacts [h1.dropFrames, h1]
  exact (h1.modMem.forEach
      fun _ _ h => (h.onMem (fun _ hm => hm.releaseFrames))).modMem.poolTeardown.freeKeptOf.modCtx.setBulk.noteHbm.noteTiers

theorem beginTeardown (h : Keeps s t) {c code cmd} : Keeps s (t.beginTeardown c code cmd) := by
  unfold State.beginTeardown
  extract_lets s1
  have h1 : Keeps s s1 := h.bump
  exact ((((h1.ite h1.setReg.setReg.setReg).setReg.modCtx.forEach fun _ _ h => h.leaveCrew).forEach
      fun _ _ h => h.killRun).modCtx.forEach fun _ _ h => h.setRun).modFab.releaseContext.noteCrews.capIdle

theorem ctxFault (h : Keeps s t) {c code cmd src entry value} : Keeps s (t.ctxFault c code cmd src entry value) := by
  unfold State.ctxFault
  exact h.logCtx.beginTeardown.ite h.logCtx

theorem abortAt (h : Keeps s t) {c q code origin} : Keeps s (t.abortAt c q code origin) := by
  unfold State.abortAt
  split
  · exact h
  · split
    · exact h
    · split
      · exact h
      · extract_lets _ _ _ _ s4
        have h4 : Keeps s s4 := h.modRun
        split
        exacts [h.ite h.sendAbort.killRun.modRun.settlePreempt, h4.sendAbort.modRun.ite h4]

theorem originateAbort (h : Keeps s t) {c q code} : Keeps s (t.originateAbort c q code) := by
  unfold State.originateAbort
  split
  exacts [h.abortAt, h]

theorem runTxnFailed (h : Keeps s t) {c q code a} : Keeps s (t.runTxnFailed c q code a) := by
  unfold State.runTxnFailed
  split
  exacts [h, h.ite (h.originateAbort.ite h.ctxFault)]

theorem restoreFail (h : Keeps s t) {code origin} : Keeps s (t.restoreFail code origin) := by
  unfold State.restoreFail
  split
  exacts [h, h.sendAbort.modCkpt.setReg.withdraw.setReg.log]

theorem helperFail (h : Keeps s t) {c crew code} : Keeps s (t.helperFail c crew code) := by
  unfold State.helperFail
  split
  · exact h
  · extract_lets s1
    have h1 : Keeps s s1 := by
      unfold s1
      split
      exacts [h.sendAbort, h]
    exact h1.modCtx.noteCrews

theorem codingFail (h : Keeps s t) {piece} : Keeps s (t.codingFail piece) := by
  unfold State.codingFail
  exact h.ite h.modCoded

theorem tellFail (h : Keeps s t) {f} : Keeps s (t.tellFail f) := by
  unfold State.tellFail
  split
  · split
    exacts [h.runTxnFailed, h]
  · split
    · split
      exacts [h.originateAbort, h]
    · exact h
  · exact h.bump.log.ite h
  · split
    exacts [h.modCtx, h]
  · exact h.codingFail
  · exact h.restoreFail
  · exact h
  · split
    exacts [h.ctxFault.ite h, h]
  · split
    exacts [h.helperFail, h]

theorem drainFails (h : Keeps s t) : Keeps s t.drainFails := by
  unfold State.drainFails
  exact h.modFab.forEach fun _ _ h => h.tellFail

theorem settleQueue {n : Nat} {t : State} (h : Keeps s t) {c q} : Keeps s (t.settleQueue c q n) := by
  induction n generalizing t with
  | zero => exact h
  | succ n ih =>
    unfold State.settleQueue
    extract_lets _ e s1 s2 s3
    have h3 : Keeps s s3 := h.bump.log.postRecord
    split
    · exact h
    · split
      exacts [h.setRun, .ite h (ih h3.modQueue)]

theorem settleWaits (h : Keeps s t) {c q} : Keeps s (t.settleWaits c q) := by
  unfold State.settleWaits
  split
  exacts [h, h.ite (h.forEach fun _ _ h => h.writeWait).modRun]

theorem settle (h : Keeps s t) : Keeps s t.settle := by
  unfold State.settle
  exact (h.forEach fun _ _ h => (h.forEach fun _ _ h' => h'.settleQueue)).forEach fun _ _ h => (h.forEach
      fun _ _ h' => h'.settleWaits)

theorem noteStall (h : Keeps s t) {c q b} : Keeps s (t.noteStall c q b) := by
  unfold State.noteStall
  exact h.modRun

theorem noteHeld (h : Keeps s t) {c q} : Keeps s (t.noteHeld c q) := by
  unfold State.noteHeld
  exact h.modRun

theorem closeStall (h : Keeps s t) {c r} : Keeps s (t.closeStall c r) := by
  unfold State.closeStall
  split
  exacts [h, h.writeWait.bump.ite h.writeWait]

theorem atTickIssue (h : Keeps s t) {c r} : Keeps s (t.atTickIssue c r) := by
  unfold State.atTickIssue
  exact h.writeWait.ite h.writeWait.log.modCtx

theorem stageOutputs {l : List Nat} {t : State} (h : Keeps s t) {c q} : Keeps s (t.stageOutputs c q l).1 := by
  induction l generalizing t with
  | nil => exact h
  | cons a l ih =>
    unfold State.stageOutputs
    split
    · exact ih h
    · split
      · exact ih h
      · next e => exact ih (h.takeObject e)

theorem stageWorking (h : Keeps s t) {c q cmd l} : Keeps s (t.stageWorking c q cmd l).1 := by
  unfold State.stageWorking
  split
  · exact h
  · split
    · exact h
    · next e => exact h.withMem fun hm => hm.takeFrames e

theorem startRun (h : Keeps s t) {c q r} : Keeps s (t.startRun c q r) := by
  unfold State.startRun
  extract_lets _ s1 _ _ _ _ _ _ _ s4 s5
  have h1 : Keeps s s1 := h.closeStall
  have h4 : Keeps s s4 := (h1.atTickIssue.ite h1).stageOutputs.stageWorking.setRun
  have h5 : Keeps s s5 := h4.modCtx.ite h4.bump
  exact (h5.modCtx.ite h5).noteHbm

theorem issue (h : Keeps s t) {c q ok} : Keeps s (t.issue c q ok).1 := by
  unfold State.issue
  split
  · exact fst h
  · split
    · split
      · exact fst h.noteHeld
      · split
        exacts [fst h.noteStall, fst h.startRun]
    · exact fst h

/-! Coding -/

theorem setUnit (h : Keeps s t) {r} : Keeps s (t.setUnit r) := by
  unfold State.setUnit
  exact h.modCoded

theorem startDecode (h : Keeps s t) {stripe index purpose view target} :
    Keeps s (t.startDecode stripe index purpose view target).2 := by
  unfold State.startDecode
  split
  · exact snd h
  · split
    · exact snd h
    · extract_lets _ _ _ _ s2
      have h2 : Keeps s s2 := by
        unfold s2
        refine h.modCoded.forEach fun _ _ h => ?_
        split
        exacts [h, h.sendTo]
      exact snd h2

theorem startLocalDecode (h : Keeps s t) {stripe} : Keeps s (t.startLocalDecode stripe).2 := by
  unfold State.startLocalDecode
  exact h.startDecode

theorem releaseHolds (h : Keeps s t) {stripe index} : Keeps s (t.releaseHolds stripe index) := by
  unfold State.releaseHolds
  refine h.forEach fun _ _ h => ?_
  refine h.forEach fun _ _ h => ?_
  split
  exacts [h, (h.forEach fun _ _ h => h.closeHold).modRun]

theorem unitDecoded (h : Keeps s t) {stripe cs} : Keeps s (t.unitDecoded stripe cs) := by
  unfold State.unitDecoded
  extract_lets _ _ s1 f s2
  have h1 : Keeps s s1 := by
    unfold s1
    split
    · exact h.putFrame
    · split
      exacts [h.putFrame, h]
  have h2 : Keeps s s2 := by
    unfold s2
    clear_value f
    split
    exacts [h1.bump, h1]
  exact h2.bump.releaseHolds

theorem startRebuild (h : Keeps s t) {stripe} : Keeps s (t.startRebuild stripe) := by
  unfold State.startRebuild
  exact h.startDecode

theorem noteGroup (h : Keeps s t) : Keeps s t.noteGroup := by
  unfold State.noteGroup
  exact h.ite h.setReg.setReg

theorem sendReport (h : Keeps s t) {lost} : Keeps s (t.sendReport lost) := by
  unfold State.sendReport
  extract_lets
  split
  · exact h.modCoded
  · split
    exacts [h.sendTo, h]

theorem checkFlashNeeded (h : Keeps s t) : Keeps s t.checkFlashNeeded := by
  unfold State.checkFlashNeeded
  exact h.setReg.log.ite h

theorem restartDecodes (h : Keeps s t) : Keeps s t.restartDecodes := by
  unfold State.restartDecodes
  exact h.modCoded.forEach fun _ _ h => h.startDecode

theorem sendGroupDone (h : Keeps s t) : Keeps s t.sendGroupDone := by
  unfold State.sendGroupDone
  extract_lets
  split
  · exact h.modCoded
  · split
    exacts [h.sendTo, h]

theorem regroup (h : Keeps s t) : Keeps s t.regroup := by
  unfold State.regroup
  exact h.noteGroup.sendGroupDone.ite h.noteGroup

theorem codedLoss (h : Keeps s t) {a} : Keeps s (t.codedLoss a) := by
  unfold State.codedLoss
  extract_lets _ s1
  have h1 : Keeps s s1 := h.regroup
  exact h.ite (h1.modCoded.ite h1).modCoded.sendReport.checkFlashNeeded.restartDecodes

theorem failAddr (h : Keeps s t) {a code} : Keeps s (t.failAddr a code) := by
  unfold State.failAddr
  exact h.markFailed.drainFails.ite h.markFailed.drainFails.codedLoss

/-! Memory -/

theorem memError (h : Keeps s t) {addr kind reader c symbol channel entry} :
    Keeps s (t.memError addr kind reader c symbol channel entry) := by
  unfold State.memError
  exact (h.ite h.log).modMem.advanceCount

theorem countCe (h : Keeps s t) {st} : Keeps s (t.countCe st) := by
  unfold State.countCe
  extract_lets s1
  have h1 : Keeps s s1 := h.bump
  split
  exacts [h1, h1.modMem]

theorem poisonWord (h : Keeps s t) {a} : Keeps s (t.poisonWord a) := by
  unfold State.poisonWord
  exact h.modMem

theorem noteFound (h : Keeps s t) {found} : Keeps s (t.noteFound found) := by
  unfold State.noteFound
  exact h.modMem

theorem readAt (h : Keeps s t) {c reader addr f} : Keeps s (t.readAt c reader addr f).2 := by
  unfold State.readAt
  split
  · extract_lets _ _ s1 x3 s2 s3
    have h1 : Keeps s s1 := h.bump
    have h2 : Keeps s s2 := h.bump
    have h3 : Keeps s s3 := h.bump.poisonWord
    split
    · split
      exacts [snd h1.memError, snd h1.memError, snd h]
    · split
      · unfold x3
        split
        · split <;> exact snd h2.memError
        · exact snd h2.memError
      · split
        · exact snd h.countCe.memError
        · unfold x3
          split
          · split <;> exact snd h3.memError
          · exact snd h3.memError
        · exact snd h
  · extract_lets
    split
    exacts [snd h.bump.modMem.memError, snd h.bump.memError, snd h]
  · split
    exacts [snd h.memError, snd h.memError, snd h]
  · split
    exacts [snd h.memError, snd h.memError, snd h]
  · exact snd h

theorem readWords {l : List Nat} {t : State} (h : Keeps s t) {c reader} : Keeps s (t.readWords c reader l).2 := by
  induction l generalizing t with
  | nil => exact h
  | cons a l ih =>
    unfold State.readWords
    dsimp only
    split
    exacts [ih h.readAt, h.readAt]

theorem readRange (h : Keeps s t) {c reader a n} : Keeps s (t.readRange c reader a n).2 := by
  unfold State.readRange
  exact h.readWords

theorem rmwRead (h : Keeps s t) {c reader a n} : Keeps s (t.rmwRead c reader a n) := by
  unfold State.rmwRead
  exact h.ite ((h.forEach fun _ _ h => (h.readAt.modMem.ite h.readAt)).forEach fun _ _ h => (h.forEach fun _ _ h' => h'.poisonWord))

theorem chanWrite (h : Keeps s t) {c reader a bs} : Keeps s (t.chanWrite c reader a bs) := by
  unfold State.chanWrite
  exact h.rmwRead.busWrite

theorem verWrite (h : Keeps s t) {c reader o v off bs} : Keeps s (t.verWrite c reader o v off bs) := by
  unfold State.verWrite
  exact h.forEach fun _ _ h => h.chanWrite

theorem hubUncorrectable (h : Keeps s t) {addr} : Keeps s (t.hubUncorrectable addr) := by
  unfold State.hubUncorrectable
  split
  exacts [h.ctxFault, h.logModule.modMem.forEach fun _ _ h => (h.beginTeardown.ite h)]

theorem tellFound (h : Keeps s t) {c reader found} : Keeps s (t.tellFound c reader found) := by
  unfold State.tellFound
  exact h.noteFound.forEach fun _ _ h => (h.readAt.hubUncorrectable.ite h.readAt)

theorem actDetected (h : Keeps s t) {c q x3 addr} : Keeps s (t.actDetected c q x3 addr) := by
  unfold State.actDetected
  split
  · exact h
  · extract_lets _ _ s1 s2
    have h1 : Keeps s s1 := h.logCtx
    have h2 : Keeps s s2 := h1.killRun
    split
    · exact h
    · split
      · exact h.ctxFault
      · split
        · exact h.ctxFault
        · split
          · split
            · exact h.ctxFault
            · split
              · exact h1.killRun.settlePreempt
              · split
                · exact h.ctxFault
                · split
                  · exact h.ctxFault
                  · split
                    exacts [h.ctxFault, h.ctxFault.ite h2.modRun.settlePreempt]
          · split
            · exact h.ctxFault
            · split
              · exact h1.killRun.settlePreempt
              · split
                · exact h.ctxFault
                · split
                  · exact h.ctxFault
                  · split
                    exacts [h.ctxFault, h.ctxFault.ite h2.modRun.settlePreempt]

theorem hubInputs (h : Keeps s t) {c hs} : Keeps s (t.hubInputs c hs).2 := by
  unfold State.hubInputs
  extract_lets _ s1
  have h1 : Keeps s s1 := h.readWords
  split
  · split
    exacts [snd h1.startRebuild, snd h1]
  · exact snd h.readWords.startLocalDecode
  · exact h.readWords

theorem readOther (h : Keeps s t) {c reader addr len found} : Keeps s (t.readOther c reader addr len found).2 := by
  unfold State.readOther
  refine h.foldl_snd fun _ _ h => ?_
  split
  exacts [h, h.readAt]

theorem modStack (h : Keeps s t) {st f} : Keeps s (t.modStack st f) := by
  unfold State.modStack
  exact h.modMem

theorem scrubTo (h : Keeps s t) {ch pos} : Keeps s (t.scrubTo ch pos) := by
  unfold State.scrubTo
  exact h.modMem.bump.setReg.modMem.ite h.modMem

theorem scrubWord (h : Keeps s t) {a} : Keeps s (t.scrubWord a) := by
  unfold State.scrubWord
  extract_lets
  split
  exacts [h.readAt.startLocalDecode, h.readAt.modMem, h.readAt]

theorem scrubTransfer (h : Keeps s t) {ch} : Keeps s (t.scrubTransfer ch) := by
  unfold State.scrubTransfer
  extract_lets s1
  have h1 : Keeps s s1 := h.modMem.ite h
  exact h1.scrubTo.ite (h1.forEach fun _ _ h => h.scrubWord).scrubTo

theorem quietSlot (h : Keeps s t) {stack} : Keeps s (t.quietSlot stack) := by
  unfold State.quietSlot
  exact h.modStack.ite (h.modStack.forEach fun _ _ h => h.scrubTransfer)

/-! Placement -/

theorem moveFrames (h : Keeps s t) {m x} (e : t.moveFrames m = some x) : Keeps s x.2 := by
  unfold State.moveFrames at e
  split at e
  · cases e
  · exact h.takeObject e

theorem adoptFrames (h : Keeps s t) {fs x2} : Keeps s (t.adoptFrames fs x2) := by
  unfold State.adoptFrames
  exact h.onMem (fun _ hm => hm.rehold)

theorem applyMove (h : Keeps s t) {m} : Keeps s (t.applyMove m) := by
  unfold State.applyMove
  split
  · exact h.onMem (fun _ hm => hm.releaseFrames)
  · extract_lets s1
    have h1 : Keeps s s1 := by
      unfold s1
      split
      exacts [h.dropFrames, h]
    split
    exacts [h1.modInst, h1.adoptFrames.modInst]

theorem beginMove (h : Keeps s t) {m} : Keeps s (t.beginMove m) := by
  unfold State.beginMove
  split
  · next e =>
    split at e
    · exact (h.moveFrames e).modMem
    · cases e
  · exact h.modMem

theorem startReplicas (h : Keeps s t) {grants madeAt late} : Keeps s (t.startReplicas grants madeAt late) := by
  unfold State.startReplicas
  refine h.forEach fun _ _ h => ?_
  split
  · exact h
  · split
    exacts [h, h.ite h.beginMove]

theorem startMoves (h : Keeps s t) {p} : Keeps s (t.startMoves p) := by
  unfold State.startMoves
  extract_lets s1
  have h1 : Keeps s s1 := by
    unfold s1
    refine h.forEach fun _ _ h => ?_
    split
    exacts [h, h.ite h.beginMove]
  exact h1.startReplicas

theorem restartMoves (h : Keeps s t) {x1 o} : Keeps s (t.restartMoves x1 o) := by
  unfold State.restartMoves
  exact h.modMem

theorem setMove (h : Keeps s t) {m m'} : Keeps s (t.setMove m m') := by
  unfold State.setMove
  exact h.modMem

theorem unplan (h : Keeps s t) {m} : Keeps s (t.unplan m) := by
  unfold State.unplan
  exact h.modInst

theorem failMove (h : Keeps s t) {m} : Keeps s (t.failMove m) := by
  unfold State.failMove
  refine unplan ?_
  exact h.bump.log.onMem fun _ hm => hm.releaseFrames

theorem poisonTiles (h : Keeps s t) {frames tiles} : Keeps s (t.poisonTiles frames tiles) := by
  unfold State.poisonTiles
  exact h.forEach fun _ _ h => (h.forEach fun _ _ h' => h'.poisonWord)

theorem finishMove (h : Keeps s t) {m data crcOk} : Keeps s (t.finishMove m data crcOk) := by
  unfold State.finishMove
  split
  · extract_lets _ _ r
    split
    · exact h.failMove
    · split
      · have hr : ∀ x, r = some x → Keeps s x.2 := fun x e => by
          unfold r at e
          split at e
          · exact h.moveFrames e
          · cases e; exact h
        clear_value r
        split
        · exact h
        · extract_lets _ s1 _ s2 s3
          have h1 : Keeps s s1 := (hr _ rfl).verFill.poisonTiles
          have h2 : Keeps s s2 := h1.bump.ite h1
          have h3 : Keeps s s3 := h2.bump.ite h2
          exact h3.modMem.applyMove.noteTiers.ite h3.setMove
      · extract_lets _ _ s1
        have h1 : Keeps s s1 := (h.bump.bump.bump.ite h).bump.noteProgrammed
        exact h1.modMem.applyMove.noteTiers.ite h1.setMove
  · exact h

theorem planEffect (h : Keeps s t) {p} : Keeps s (t.planEffect p) := by
  unfold State.planEffect
  extract_lets _ _ s2 _ s3 _ _ s5 _ _ _ _ s9 s10
  have h2 : Keeps s s2 := by
    unfold s2
    refine h.modMem.forEach fun _ _ h => ?_
    extract_lets s1
    have h1 : Keeps s s1 := by
      unfold s1
      split
      exacts [h.dropFrames, h]
    exact h1.modInst
  have h3 : Keeps s s3 := h2.forEach fun _ _ h => by
    exact h.onMem fun _ hm => hm.releaseFrames
  have h5 : Keeps s s5 := h3.modMem.forEach fun _ _ h => h.modMem.applyMove.ite h.setMove.bump
  have h9 : Keeps s s9 := (h5.modMem.forEach fun _ _ h => h.modMem).setReg.setReg
  have h10 : Keeps s s10 := by
    unfold s10
    split
    exacts [h9.sendControl, h9]
  exact h10.noteTiers

theorem placeBoundary (h : Keeps s t) {c b} : Keeps s (t.placeBoundary c b) := by
  unfold State.placeBoundary
  exact h.ite ((h.modMem.forEach fun _ _ h => h.planEffect).ite (h.modMem.forEach fun _ _ h => h.planEffect).modMem)

theorem createInst (h : Keeps s t) {x owner o tier} : Keeps s (t.createInst x owner o tier) := by
  unfold State.createInst
  extract_lets i r
  have hr : ∀ y, r = some y → Keeps s y.2 := fun y e => h.takeObject e
  clear_value r
  split
  · split
    exacts [(hr _ rfl).modMem, h.modMem]
  · exact h.modMem
  · exact h.noteProgrammed.modMem

theorem createAll (h : Keeps s t) {owner l} : Keeps s (t.createAll owner l) := by
  unfold State.createAll
  refine h.forEach fun _ _ h => ?_
  split
  exacts [h.createInst, h]

theorem placePinned (h : Keeps s t) {owner} : Keeps s (t.placePinned owner) := by
  unfold State.placePinned
  exact h.createAll

theorem placeRest (h : Keeps s t) {owner} : Keeps s (t.placeRest owner) := by
  unfold State.placeRest
  exact (h.createAll.ite h.createAll.modMem).setReg.noteTiers

theorem placeInitial (h : Keeps s t) {owner} : Keeps s (t.placeInitial owner) := by
  unfold State.placeInitial
  exact h.placePinned.placeRest

theorem releaseStaging (h : Keeps s t) {g} : Keeps s (t.releaseStaging g) := by
  unfold State.releaseStaging
  exact h.onMem (fun _ hm => hm.releaseFrames)

theorem freeHints {k : Nat} {t : State} (h : Keeps s t) {n} : Keeps s (t.freeHints n k) := by
  induction k generalizing t with
  | zero => exact h
  | succ k ih =>
    unfold State.freeHints
    split
    · exact h
    · split
      exacts [h, ih h.releaseStaging]

theorem startStaging (h : Keeps s t) {user c q x layer tiles} : Keeps s (t.startStaging user c q x layer tiles) := by
  unfold State.startStaging
  split
  · exact h
  · extract_lets n s1 g add r
    have h1 : Keeps s s1 := h.freeHints
    have hr : ∀ y, r = some y → s1.mem.Canonical → y.2.2.Canonical := fun y e hm => by
      unfold r at e
      split at e
      · exact hm.takeFrames e
      · cases e
    clear_value r
    split
    · exact (h1.withMem (hr _ rfl)).modMem
    · exact h1.bump.ite h1.bump.modMem

theorem stagingHint (h : Keeps s t) {layer expert} : Keeps s (t.stagingHint layer expert) := by
  unfold State.stagingHint
  split
  · exact h
  · split
    exacts [h.ite h.startStaging, h]

theorem dropHints (h : Keeps s t) {layer} : Keeps s (t.dropHints layer) := by
  unfold State.dropHints
  exact h.forEach fun _ _ h => h.releaseStaging

theorem dropStagings (h : Keeps s t) {c} : Keeps s (t.dropStagings c) := by
  unfold State.dropStagings
  exact h.forEach fun _ _ h => h.releaseStaging

theorem stagingTile (h : Keeps s t) {g o tile data crcOk} : Keeps s (t.stagingTile g o tile data crcOk) := by
  unfold State.stagingTile
  extract_lets _ _ _ _ s2 _ _ s3 _ s4
  have h2 : Keeps s s2 := (h.ite h.bump.log).modInst
  have h3 : Keeps s s3 := h.bump.ite h
  have h4 : Keeps s s4 := by
    unfold s4
    split
    exacts [h3.memWrite, h3]
  split
  · split
    · split
      · exact h2
      · split
        exacts [h2.ctxFault, h2]
    · exact h2
  · exact h4.modMem

theorem refetch (h : Keeps s t) {x1} : Keeps s (t.refetch x1) := by
  unfold State.refetch
  split
  exacts [h, h.forEach fun _ _ h => (h.forEach fun _ _ h' => (h'.startStaging.ite h'))]

theorem fetchStart (h : Keeps s t) {c q} : Keeps s (t.fetchStart c q) := by
  unfold State.fetchStart
  split
  · exact h
  · split
    · exact h
    · split
      exacts [h, h.ite h.startStaging]

/-! CrewEngine -/

theorem pumpColl (h : Keeps s t) {owner c j k} : Keeps s (t.pumpColl owner c j k).1 := by
  unfold State.pumpColl
  refine h.foldl_fst fun a _ h => ?_
  refine List.foldlRecOn _ _ (motive := Keeps s) h fun t h p _ => ?_
  extract_lets b s1
  have h1 : Keeps s s1 := by
    unfold s1
    split
    exacts [h.bump, h]
  split
  exacts [h1.sendTo, h1.sendTree]

theorem pumpScan (h : Keeps s t) {owner c crew cr self experts k v} : Keeps s (t.pumpScan owner c crew cr self experts k v).1 := by
  unfold State.pumpScan
  refine h.foldl_fst fun a _ h => ?_
  refine List.foldlRecOn _ _ (motive := Keeps s) h fun t h p _ => ?_
  extract_lets b s1
  have h1 : Keeps s s1 := by
    unfold s1
    split
    exacts [h.bump, h]
  exact h1.sendTo

theorem sendEnters (h : Keeps s t) {owner c crew cr op tree root self k} :
    Keeps s (t.sendEnters owner c crew cr op tree root self k) := by
  unfold State.sendEnters
  exact h.forEach fun _ _ h => h.sendTo

theorem takeHeld (h : Keeps s t) {crew k} : Keeps s (t.takeHeld crew k).1 := by
  unfold State.takeHeld
  exact fst h.frame

theorem takeInstance (h : Keeps s t) {crew k} : Keeps s (t.takeInstance crew k).2 := by
  unfold State.takeInstance
  split
  exacts [snd h, snd h.advanceCount]

/-! Exchange -/

theorem waitFetch (h : Keeps s t) {c q x3} : Keeps s (t.waitFetch c q x3) := by
  unfold State.waitFetch
  split
  exacts [h, h.modMem.ite h.modMem.startStaging]

theorem hubAccess (h : Keeps s t) {c q ps} : Keeps s (t.hubAccess c q ps).1 := by
  unfold State.hubAccess
  extract_lets _ s1
  have h1 : Keeps s s1 := h.modRun
  split
  · exact fst h1.waitFetch
  · split
    exacts [fst h1.hubInputs, fst h1.hubInputs.ctxFault, fst h1.hubInputs.actDetected, fst h1.hubInputs]

theorem xchSend (h : Keeps s t) {owner c done l id kind hdr bytes mk} :
    Keeps s (t.xchSend owner c done l id kind hdr bytes mk).1 := by
  unfold State.xchSend
  refine h.foldl_fst fun _ _ h => ?_
  dsimp only
  split
  exacts [h, h.sendTo.fst, h.sendTree.fst]

theorem deliveryAcked (h : Keeps s t) {x1 a} : Keeps s (t.deliveryAcked x1 a) := by
  unfold State.deliveryAcked
  split
  · split
    exacts [h.modRun, h]
  · exact h

theorem stageCount (h : Keeps s t) {c q k n} : Keeps s (t.stageCount c q k n) := by
  unfold State.stageCount
  exact h.modRun

theorem xchCount (h : Keeps s t) {c layer k n} : Keeps s (t.xchCount c layer k n) := by
  unfold State.xchCount
  split
  exacts [h.stageCount, h.ite h.modCtx]

theorem exchangeInit (h : Keeps s t) {c q} : Keeps s (t.exchangeInit c q) := by
  unfold State.exchangeInit
  split
  · exact h
  · split
    exacts [h, h.takeInstance.modRun.noteCrews]

theorem broadcastRow (h : Keeps s t) {c q e lr cr self cmd row done} : Keeps s (t.broadcastRow c q e lr cr self cmd row done) := by
  unfold State.broadcastRow
  exact h.xchSend.xchSend.stageCount

theorem broadcastStart (h : Keeps s t) {c q} : Keeps s (t.broadcastStart c q) := by
  unfold State.broadcastStart
  split
  · exact h
  · split
    · exact h
    · split
      exacts [h, h.hubAccess.modRun.ite (h.hubAccess.modRun.forEach fun _ _ h => h.broadcastRow)]

theorem poolRead (h : Keeps s t) {c b} : Keeps s (t.poolRead c b).2 := by
  unfold State.poolRead
  extract_lets
  split
  exacts [snd h.readRange, snd h.readRange.ctxFault]

theorem poolReads {l : List Buf} {t : State} (h : Keeps s t) {c} : Keeps s (t.poolReads c l).2 := by
  induction l generalizing t with
  | nil => exact h
  | cons b l ih =>
    unfold State.poolReads
    dsimp only
    split
    exacts [h.poolRead, ih h.poolRead]

theorem poolFill (h : Keeps s t) {c b pieces} : Keeps s (t.poolFill c b pieces) := by
  unfold State.poolFill
  extract_lets s1
  have h1 : Keeps s s1 := h.forEach fun _ _ h => h.chanWrite.poolMark
  split
  exacts [h1, h1.freeKept.modCtx.ite h1.freeKept]

theorem land (h : Keeps s t) {c b port first data} : Keeps s (t.land c b port first data) := by
  unfold State.land
  split
  · exact h.poolFill.ite h.poolFill
  · split
    · exact h.modPools
    · extract_lets
      split
      exacts [h.poolRequest.poolFill, h.poolRequest]

theorem discardLanding (h : Keeps s t) {c tag key kind layer first counted} :
    Keeps s (t.discardLanding c tag key kind layer first counted) := by
  unfold State.discardLanding
  extract_lets s1
  have h1 : Keeps s s1 := h.freeKept
  split
  exacts [h1.xchCount.ite h1, h1]

theorem sendList (h : Keeps s t) {c q e cr cmd self id down ms l done} :
    Keeps s (t.sendList c q e cr cmd self id down ms l done) := by
  unfold State.sendList
  exact h.xchSend.stageCount

theorem dropBufs (h : Keeps s t) {l} : Keeps s (t.dropBufs l) := by
  unfold State.dropBufs
  exact h.forEach fun _ _ h => h.poolDrop

theorem setCands (h : Keeps s t) {c q id l} : Keeps s (t.setCands c q id l) := by
  unfold State.setCands
  exact h.modRun

theorem listReady (h : Keeps s t) {c q e cr self cmd id l done} : Keeps s (t.listReady c q e cr self cmd id l done) := by
  unfold State.listReady
  split
  exacts [h.sendList, h.sendList.setCands]

theorem mergeHere (h : Keeps s t) {c e self cmd n id bufs own} : Keeps s (t.mergeHere c e self cmd n id bufs own) := by
  unfold State.mergeHere
  extract_lets _ s1
  have h1 : Keeps s s1 := h.poolReads
  split
  · exact h.poolReads
  · extract_lets _ _ _ s1
    have h1 : Keeps s s1 := by
      unfold s1
      split
      exacts [h1.poolRequest.poolFill, h1.poolRequest]
    exact h1.dropBufs

theorem mergeToken (h : Keeps s t) {c q e lr cr self cmd x8 own} : Keeps s (t.mergeToken c q e lr cr self cmd x8 own) := by
  unfold State.mergeToken
  split
  · exact h
  · split
    · split
      · exact h
      · extract_lets _ _ _ _ _ _ _ s1 s2
        have h1 : Keeps s s1 := h.mergeHere.ite h
        have h2 : Keeps s s2 := by
          unfold s2
          split
          · exact h1
          · split
            · exact h1.listReady.modRun
            · split
              · exact h1
              · extract_lets
                split
                exacts [h1.poolRead.listReady.modRun, h1.poolRead]
        split
        · exact h2
        · split
          · exact h2
          · extract_lets
            split
            exacts [h2.poolRead.dropBufs.setCands, h2.poolRead]
    · exact h

theorem modXch (h : Keeps s t) {c q f} : Keeps s (t.modXch c q f) := by
  unfold State.modXch
  exact h.modRun

theorem enterRound (h : Keeps s t) {c q lr cr self round v} : Keeps s (t.enterRound c q lr cr self round v) := by
  unfold State.enterRound
  split
  · exact h
  · split
    · exact h
    · extract_lets _ _ _ _ s3
      have h3 : Keeps s s3 := h.modXch.sendEnters.takeHeld.modRun
      exact h3.originateAbort.ite h3

theorem dispatchBuild (h : Keeps s t) {c q e lr cr self} : Keeps s (t.dispatchBuild c q e lr cr self) := by
  unfold State.dispatchBuild
  split
  · exact h
  · split
    · exact h
    · extract_lets _ _ _ _ _ _ _ _ _ _ _ _ _ _ _ _ _ _ _ s6
      have h6 : Keeps s s6 := h.modRun.modCtx.modXch.stageCount.stageCount.stageCount.stageCount.stageCount
      exact h6.ite (h6.forEach fun _ _ h => h.xchSend.stageCount)

theorem admissionDone (h : Keeps s t) {c q e lr cr self skip} : Keeps s (t.admissionDone c q e lr cr self skip) := by
  unfold State.admissionDone
  split
  · exact h
  · split
    exacts [h, h.stageCount.modXch.enterRound.ite h.stageCount.dispatchBuild]

theorem nextRound (h : Keeps s t) {c q e lr cr self} : Keeps s (t.nextRound c q e lr cr self) := by
  unfold State.nextRound
  split
  · exact h
  · split
    exacts [h, h.admissionDone.ite h.modXch.enterRound]

theorem startAdmission (h : Keeps s t) {c q e lr cr self} : Keeps s (t.startAdmission c q e lr cr self) := by
  unfold State.startAdmission
  split
  · exact h
  · split
    exacts [h, h.stageCount.modXch.admissionDone.ite h.stageCount.stageCount.modXch.enterRound]

theorem roundDone (h : Keeps s t) {c q e lr cr self pre tot} : Keeps s (t.roundDone c q e lr cr self pre tot) := by
  unfold State.roundDone
  split
  · exact h
  · split
    · exact h
    · split
      · exact h.modXch.dispatchBuild
      · extract_lets _ s1 _ _ s2
        have h1 : Keeps s s1 := h.stageCount
        have h2 : Keeps s s2 := by
          unfold s2
          split
          exacts [h1.log.stageCount.ite h1, h1]
        exact (h2.stageCount.stageCount.modXch.admissionDone.ite h2.modXch.nextRound).ite
            (h1.admissionDone.ite h1.stageCount.modXch.nextRound)

theorem dispatchPump {n : Nat} {t : State} (h : Keeps s t) {c q} : Keeps s (t.dispatchPump c q n) := by
  induction n generalizing t with
  | zero => exact h
  | succ n ih =>
    unfold State.dispatchPump
    split
    · exact h
    · split
      · split
        · exact h
        · split
          · exact h
          · split
            · extract_lets _ _ s1
              have h1 : Keeps s s1 := h.forEach fun _ _ h => h.mergeToken
              split
              · split
                exacts [.ite (ih h1.startAdmission) h1, h1]
              · exact h1
            · split
              · split
                · exact h
                · extract_lets _ s1
                  have h1 : Keeps s s1 := h.pumpScan.modRun
                  split
                  exacts [.ite (ih h1.roundDone) h1, h1]
              · exact h
      · exact h

theorem dispatchStart (h : Keeps s t) {c q} : Keeps s (t.dispatchStart c q) := by
  unfold State.dispatchStart
  split
  · exact h
  · split
    · exact h
    · split
      exacts [h, h.hubAccess.modXch.ite h.hubAccess.modXch.dispatchPump]

theorem exchangePump (h : Keeps s t) {c} : Keeps s (t.exchangePump c) := by
  unfold State.exchangePump
  refine .drainFails ?_
  refine h.forEach fun _ _ h => ?_
  split
  · split
    exacts [(h.broadcastStart.ite h.dispatchStart).ite h.dispatchPump, h]
  · exact h

theorem dispatchBegins (h : Keeps s t) {c q} : Keeps s (t.dispatchBegins c q) := by
  unfold State.dispatchBegins
  split
  exacts [h.modCtx, h]

theorem relayPump (h : Keeps s t) {c} : Keeps s (t.relayPump c) := by
  unfold State.relayPump
  refine h.forEach fun _ _ h => ?_
  split
  · exact h
  · split
    · exact h
    · extract_lets _ s1
      have h1 : Keeps s s1 := h.modPools
      split
      exacts [h1.poolRead, h1.poolRead.xchSend.xchCount]

theorem returnsReadable (h : Keeps s t) {c layer} : Keeps s (t.returnsReadable c layer).1 := by
  unfold State.returnsReadable
  exact fst h.poolReads

theorem combineStage (h : Keeps s t) {c q e} : Keeps s (t.combineStage c q e) := by
  unfold State.combineStage
  split
  · extract_lets _ _ s1
    have h1 : Keeps s s1 := h.modRun
    split
    exacts [h1.verWrite, h1]
  · exact h

theorem commitDrops (h : Keeps s t) {l} : Keeps s (t.commitDrops l).1 := by
  unfold State.commitDrops
  exact h.foldl_fst fun _ _ h => h.poolDrop

theorem sendMirror (h : Keeps s t) {c member layer step data} : Keeps s (t.sendMirror c member layer step data) := by
  unfold State.sendMirror
  split
  exacts [h, h.free.xchSend.xchCount.modCtx.drainFails]

theorem mirrorRows (h : Keeps s t) {c e lr} : Keeps s (t.mirrorRows c e lr) := by
  unfold State.mirrorRows
  exact h.ite (h.log.ite (h.modCtx.ite h.sendMirror))

theorem mirrorDone (h : Keeps s t) {c} : Keeps s (t.mirrorDone c) := by
  unfold State.mirrorDone
  exact h.free.modCtx.log.ite h.free.modCtx.bump

theorem mirrorAcked (h : Keeps s t) {c} : Keeps s (t.mirrorAcked c) := by
  unfold State.mirrorAcked
  split
  · exact h
  · extract_lets s1
    have h1 : Keeps s s1 := h.mirrorDone.ite h
    split
    exacts [h1.modCtx.sendMirror, h1]

theorem settleHints (h : Keeps s t) {c layer own} : Keeps s (t.settleHints c layer own) := by
  unfold State.settleHints
  exact h.bump.bump.modCtx

theorem takeXchCounts (h : Keeps s t) {c} : Keeps s (t.takeXchCounts c) := by
  unfold State.takeXchCounts
  exact (h.forEach fun _ _ h => h.bump).modCtx

theorem exchangeCommitted (h : Keeps s t) {c r} : Keeps s (t.exchangeCommitted c r).1 := by
  unfold State.exchangeCommitted
  split
  · extract_lets s1
    have h1 : Keeps s s1 := h.takeXchCounts.addCounter
    split
    · exact fst h1
    · split
      · exact fst h1
      · extract_lets _ s2
        have h2 : Keeps s s2 := h1.modCtx.settleHints
        split
        exacts [fst (h2.commitDrops.forEach fun _ _ h => h.poolSetRefs), h2.commitDrops]
      · exact fst h1.commitDrops.modCtx.dropHints.mirrorRows
  · exact fst h

theorem expertCommitted (h : Keeps s t) {c layer cmd groups} : Keeps s (t.expertCommitted c layer cmd groups).1 := by
  unfold State.expertCommitted
  split
  exacts [fst (h.forEach fun _ _ h => h.xchSend.xchCount).modCtx.bump.commitDrops, fst h]

/-! Lanes -/

theorem stageAt (h : Keeps s t) {c q tile x4 off ws bs} : Keeps s (t.stageAt c q tile x4 off ws bs) := by
  unfold State.stageAt
  extract_lets s1
  have h1 : Keeps s s1 := by
    unfold s1
    split
    exacts [h, h.modRun]
  split
  exacts [h1.verWrite, h1]

theorem putLoc (h : Keeps s t) {c q r e tile l off bs} : Keeps s (t.putLoc c q r e tile l off bs) := by
  unfold State.putLoc
  split
  exacts [h.stageAt, h]

theorem padGroups (h : Keeps s t) {c q r e tile l f ps} : Keeps s (t.padGroups c q r e tile l f ps) := by
  unfold State.padGroups
  split
  exacts [(h.modRun.forEach fun _ _ h => h.putLoc), h]

theorem sendHint (h : Keeps s t) {c lr ex} : Keeps s (t.sendHint c lr ex) := by
  unfold State.sendHint
  extract_lets
  split
  · exact h.stagingHint
  · split
    · exact h
    · split
      exacts [h.sendControl, h]

theorem lookahead (h : Keeps s t) {c r e lr hidden rows hf pf} : Keeps s (t.lookahead c r e lr hidden rows hf pf) := by
  unfold State.lookahead
  split
  exacts [h, h.ite (h.modCtx.forEach fun _ _ h => h.sendHint)]

/-! Tile -/

theorem setTile (h : Keeps s t) {c q x3} : Keeps s (t.setTile c q x3) := by
  unfold State.setTile
  exact h.modRun

theorem selectionRecord (h : Keeps s t) {c r tile seg n} : Keeps s (t.selectionRecord c r tile seg n) := by
  unfold State.selectionRecord
  exact h.writeWait

theorem checkSequences (h : Keeps s t) {c r} : Keeps s (t.checkSequences c r) := by
  unfold State.checkSequences
  exact h.ite h.bump.log

theorem sinceSlots (h : Keeps s t) {x n end_} : Keeps s (t.sinceSlots x n end_) := by
  unfold State.sinceSlots
  extract_lets one
  have h1 {u b} (h : Keeps s u) : Keeps s (one u b) := by
    unfold one
    split
    exacts [h, h.modStack]
  exact h1 (h1 h)

section
variable {x : SegSt} (h : Keeps s x.s)
include h

theorem segIte {y : SegSt} (h' : Keeps s y.s) {c : Prop} [Decidable c] : Keeps s (if c then x else y).s := by
  split
  exacts [h, h']

theorem segWake {rows n} : Keeps s (x.wake rows n).s := h

theorem segOperand {c r e i} : Keeps s (x.operand c r e i).s := by
  unfold SegSt.operand
  extract_lets _ _ _ _ free _ now x1
  have hf : Keeps s free.2 := h.frame
  have hn : Keeps s now.2 := by
    unfold now
    split
    exacts [h, hf]
  have h1 : Keeps s x1.s := by
    unfold x1
    split
    exacts [h, h.segIte hf, hn]
  split
  exacts [h1, h1]

theorem segLane {c q r e i n} : Keeps s (x.lane c q r e i n).s := by
  unfold SegSt.lane
  extract_lets r' x1 s1 _ _ _ _ _ _ _ _ _ _ s2 s3
  have h1 : Keeps s s1 := h.segOperand
  have h3 : Keeps s s3 := h1.modRun.ite h1.modRun.bump
  exact h3

theorem segDrain {c q r e d n} : Keeps s (x.drain c q r e d n).s := by
  unfold SegSt.drain
  extract_lets _ _ _ _ _ _ _ s1 s2
  have h2 : Keeps s s2 := h.padGroups.forEach fun _ _ h => h.putLoc
  refine segIte ?_ ?_
  exacts [h, h2.modRun]

theorem segLandVec {c q n} : Keeps s (x.landVec c q n).s := by
  unfold SegSt.landVec
  refine foldl_seg h fun _ _ h => ?_
  split
  exacts [h.stageAt, h]

theorem segVecIn {c r e n w k v} : Keeps s (x.vecIn c r e n w k v).2.s := by
  unfold SegSt.vecIn
  split
  · exact h
  · split
    · split
      exacts [h, h.frame]
    · exact h.frame

theorem segVecOut {c q r e v f n ps codes sat} : Keeps s (x.vecOut c q r e v f n ps codes sat).s := by
  unfold SegSt.vecOut
  extract_lets _ _ s1 _ y
  have h1 : Keeps s s1 := h.modRun
  have hy : Keeps s y.1 := by
    unfold y
    split
    · exact h1
    · split
      exacts [h1.padGroups, h1]
  exact hy

theorem segVec {c q r e v n} : Keeps s (x.vec c q r e v n).s := by
  unfold SegSt.vec
  extract_lets _ _ _ operand first
  have ho {y : SegSt} (hy : Keeps s y.s) {k w} : Keeps s (operand y k w).2.s := by
    unfold operand
    split
    exacts [hy.segVecIn, hy]
  split
  · exact h
  · split
    · extract_lets _ y
      have hy : Keeps s y.2.s := by
        unfold y
        clear_value first
        split
        exacts [h, ho h]
      exact hy.segVecOut
    · extract_lets _ _ x1
      have h1 : Keeps s x1.s := (ho h).segVecOut
      exact h1
    · extract_lets _ _ x1
      have h1 : Keeps s x1.s := h
      exact h1.segVecOut
    · exact (ho h).segVecOut
    · exact (ho h).segVecOut.bump
    · exact (ho (ho (ho h))).segVecOut

theorem segHub {c q r e o} : Keeps s (x.hub c q r e o).s := by
  unfold SegSt.hub
  dsimp only
  split
  · split
    · exact h
    · exact modRun (List.foldlRecOn _ _ (motive := Keeps s) h fun _ h _ _ => h.putLoc)
  · split
    exacts [h, h.lookahead]
  · split
    exacts [h, h.selectionRecord]
  · split
    · exact h
    · exact h.selectionRecord.ite (List.foldlRecOn _ _ (motive := Keeps s) h.selectionRecord fun _ h _ _ => h.modRun)
  · split
    exacts [h, h.modRun.selectionRecord]

theorem segRequests {i n} : Keeps s (x.requests i n).s := by
  unfold SegSt.requests
  extract_lets mark x1
  have hm {y : SegSt} (hy : Keeps s y.s) {b} : Keeps s (mark y b).s := by
    unfold mark
    split
    exacts [hy.quietSlot, hy]
  refine foldl_seg (hm (hm h)) fun _ _ h => ?_
  split
  exacts [h, h]

theorem segSet {c q r e i} : Keeps s (x.set c q r e i).s := by
  unfold SegSt.set
  extract_lets _ _ x1 _ x2 x3 _ _ x4 _ x5 _ x6 x7 x8 x9
  have h1 : Keeps s x1.s := h.segWake.bump
  have h2 : Keeps s x2.s := h1.segWake
  have h3 : Keeps s x3.s := h1.segIte h2.bump
  have h4 : Keeps s x4.s := h3.bump
  have h5 : Keeps s x5.s := h4.bump
  have h6 : Keeps s x6.s := h5.segRequests.segLandVec
  have h7 : Keeps s x7.s := foldl_seg h6 fun _ _ h => h.segLane
  have h8 : Keeps s x8.s := foldl_seg h7 fun _ _ h => h.segDrain
  have h9 : Keeps s x9.s := by
    unfold x9
    split
    exacts [h8.segVec, h8]
  exact foldl_seg h9 fun _ _ h => h.segHub

end

theorem runSegment (h : Keeps s t) {c q r x e} : Keeps s (t.runSegment c q r x e).1 := by
  unfold State.runSegment
  extract_lets _ y
  have hy : Keeps s y.s := foldl_seg h fun _ _ h => h.segSet
  exact hy.bump.bump.modTile.sinceSlots.setTile

theorem checkReads (h : Keeps s t) {c q r x e} : Keeps s (t.checkReads c q r x e).1 := by
  unfold State.checkReads
  extract_lets _ _ _ y lost
  have hy : Keeps s y.1 := by
    refine h.foldl_fst fun a w h => ?_
    split
    · exact h
    · extract_lets s1 b z
      have hz : Keeps s z.2 := h.readAt
      split
      · exact hz
      · exact hz.ctxFault
      · exact hz.actDetected
      · extract_lets s2
        have h2 : Keeps s s2 := hz.startLocalDecode
        split
        exacts [h2, h2.setTile]
  split
  · exact hy
  · clear_value lost
    split
    exacts [hy, hy.startRebuild.setTile]

theorem endSchedule (h : Keeps s t) {c q x} : Keeps s (t.endSchedule c q x) := by
  unfold State.endSchedule
  refine .setTile ?_
  exact segLandVec h

theorem endSegment (h : Keeps s t) {c q tile w} : Keeps s (t.endSegment c q tile w).1 := by
  unfold State.endSegment
  split
  · exact fst h
  · split
    · split
      exacts [fst h.closeWait, fst h.setTile]
    · exact fst h

theorem seqStep (h : Keeps s t) {c q tile skip} : Keeps s (t.seqStep c q tile skip).1 := by
  unfold State.seqStep
  split
  · exact fst h
  · split
    · exact fst h
    · split
      · exact fst h.endSchedule
      · split
        · exact fst h.setTile
        · extract_lets _ s1
          have h1 : Keeps s s1 := h.modRun
          split
          · exact fst h1.waitFetch.setTile
          · split
            · exact fst h1.checkReads
            · split
              · exact fst h1.checkReads.setTile
              · split
                exacts [fst h1.checkReads.runSegment.modMem.actDetected, h1.checkReads.runSegment.endSegment]

theorem runTile {n : Nat} {t : State} (h : Keeps s t) {c q tile} : Keeps s (t.runTile c q tile n) := by
  induction n generalizing t with
  | zero => exact h
  | succ n ih =>
    unfold State.runTile
    exact .ite (ih h.seqStep) h.seqStep

theorem wakeTile (h : Keeps s t) {tile} : Keeps s (t.wakeTile tile) := by
  unfold State.wakeTile
  exact h.gatedWait

theorem blockStart (h : Keeps s t) {c q} : Keeps s (t.blockStart c q) := by
  unfold State.blockStart
  split
  · exact h
  · split
    exacts [h, (h.modRun.forEach fun _ _ h => h.wakeTile).forEach fun _ _ h => h.runTile]

theorem endWait (h : Keeps s t) {c q r x w start tick} : Keeps s (t.endWait c q r x w start tick) := by
  unfold State.endWait
  extract_lets s1 _ slot s2 _ s3
  have hq {u b} (h : Keeps s u) : Keeps s (slot u b) := by
    unfold slot
    split
    exacts [h.quietSlot, h]
  have h1 : Keeps s s1 := h.closeWait
  have h2 : Keeps s s2 := h1.ite (hq (hq h1))
  have h3 : Keeps s s3 := by
    unfold s3
    split
    exacts [h2.ite (h2.stageCount.stageCount.modRun), h2]
  exact h3.setTile

theorem deadlineMiss (h : Keeps s t) {c r budget} : Keeps s (t.deadlineMiss c r budget) := by
  unfold State.deadlineMiss
  exact h.bump.ctxFault

/-! MemFabric -/

theorem sendRequest (h : Keeps s t) {c q remote n right piece b} : Keeps s (t.sendRequest c q remote n right piece b).1 := by
  unfold State.sendRequest
  extract_lets
  split
  · exact fst h.bump.log.txnFailed.drainFails
  · split
    · exact fst h.txnFailed.drainFails
    · split
      · exact fst h.sendTo.drainFails
      · extract_lets
        split
        · exact fst h.bump.log.txnFailed.drainFails
        · split
          exacts [fst h, fst h.sendTo.drainFails]

theorem sendPiece (h : Keeps s t) {c q r p x} : Keeps s (t.sendPiece c q r p x).1 := by
  unfold State.sendPiece
  extract_lets
  split
  · exact h.sendRequest
  · split <;> exact h.sendRequest

theorem copyPump {n : Nat} {t : State} (h : Keeps s t) {c q} : Keeps s (t.copyPump c q n) := by
  induction n generalizing t with
  | zero => exact h
  | succ n ih =>
    unfold State.copyPump
    split
    · exact h
    · split
      · split
        · exact h
        · exact .ite h (.ite (ih h.sendPiece.modRun) h.sendPiece)
      · exact h

theorem copyPumpAll (h : Keeps s t) : Keeps s t.copyPumpAll := by
  unfold State.copyPumpAll
  refine h.forEach fun _ _ h => ?_
  refine h.forEach fun _ _ h => ?_
  split
  exacts [h.copyPump, h]

theorem copyStart (h : Keeps s t) {c q} : Keeps s (t.copyStart c q) := by
  unfold State.copyStart
  split
  · exact h
  · split
    · exact h
    · split
      · exact h
      · extract_lets x0 s1 _ _ _ s2
        have h1 : Keeps s s1 := by
          unfold s1
          unfold x0
          split
          exacts [fst h, h.hubAccess]
        have h2 : Keeps s s2 := by
          unfold s2
          split
          exacts [h1.verWrite, h1]
        split
        · unfold x0
          split
          exacts [fst h, h.hubAccess]
        · exact h2.modRun.copyPump.ite (h1.modRun.copyPump.ite h1.modRun.copyPump)

theorem copyRow (h : Keeps s t) {c q op} : Keeps s (t.copyRow c q op) := by
  unfold State.copyRow
  exact h.issue.copyStart.ite h.issue

theorem segmentWrite (h : Keeps s t) {o v off bs} : Keeps s (t.segmentWrite o v off bs) := by
  unfold State.segmentWrite
  exact h.forEach fun _ _ h => h.chanWrite

theorem respond (h : Keeps s t) {src ctx b} : Keeps s (t.respond src ctx b) := by
  unfold State.respond
  exact h.sendTo.drainFails

theorem unbacked (h : Keeps s t) {off} : Keeps s (t.unbacked off) := by
  unfold State.unbacked
  exact h.bump.log

theorem segmentRead (h : Keeps s t) {o v off n} : Keeps s (t.segmentRead o v off n).2 := by
  unfold State.segmentRead
  exact h.readWords

theorem applyRequest (h : Keeps s t) {src ctx txn b} : Keeps s (t.applyRequest src ctx txn b).1 := by
  unfold State.applyRequest
  split
  · split
    · exact fst h.unbacked.respond
    · split
      · extract_lets
        split
        exacts [fst h.segmentRead.startLocalDecode, fst h.segmentRead.bump.respond, fst h.segmentRead.frame.bump.respond]
      · exact fst h.unbacked.respond
  · split
    · exact fst h.unbacked
    · split
      exacts [fst h.segmentWrite.bump, fst h.unbacked]
  · extract_lets
    split
    · exact fst (h.unbacked.ite h.unbacked.respond)
    · split
      · extract_lets _ s1 _ x3 s2
        have h1 : Keeps s s1 := h.segmentRead
        have h2 : Keeps s s2 := by
          unfold s2
          refine .segmentWrite ?_
          unfold x3
          split
          exacts [snd h1, h1.free]
        split
        exacts [fst h.segmentRead.startLocalDecode, fst (h2.bump.bump.ite h2.bump.bump.respond),
            fst (h.segmentRead.free.bump.ite h.segmentRead.free.bump.respond)]
      · exact fst (h.unbacked.ite h.unbacked.respond)
  · split
    exacts [fst h, fst (h.addCounter.ite h).bump.settle]
  · exact fst h

theorem requestApplied (h : Keeps s t) {src} : Keeps s (t.requestApplied src) := by
  unfold State.requestApplied
  split
  exacts [h.modFab.sendAck, h]

theorem serveRequest (h : Keeps s t) {src ctx txn b} : Keeps s (t.serveRequest src ctx txn b) := by
  unfold State.serveRequest
  exact h.modFab.ite (h.applyRequest.requestApplied.ite h.applyRequest.modFab)

theorem serveHeld (h : Keeps s t) : Keeps s t.serveHeld := by
  unfold State.serveHeld
  exact h.modFab.forEach fun _ _ h => h.serveRequest

theorem answered (h : Keeps s t) {x1} : Keeps s (t.answered x1) := by
  unfold State.answered
  exact h.modFab.reapTxns

theorem response (h : Keeps s t) {txn status load put at_} : Keeps s (t.response txn status load put at_) := by
  unfold State.response
  split
  · exact h
  · extract_lets s1
    have h1 : Keeps s s1 := h.answered
    split
    · exact h1
    · split
      · exact h1
      · split
        · exact h1
        · split
          · exact h1.bump.ctxFault
          · extract_lets s1 _ s2
            have h1 : Keeps s s1 := h1.bump.log.ite h1
            have h2 : Keeps s s2 := by
              unfold s2
              split
              exacts [h1.verWrite, h1]
            exact h2.copyPumpAll

/-! Restore -/

theorem slotWrite (h : Keeps s t) {i off bs} : Keeps s (t.slotWrite i off bs) := by
  unfold State.slotWrite
  exact h.bump.onMem fun _ hm => hm.writeFlash

theorem noteSlots (h : Keeps s t) : Keeps s t.noteSlots := by
  unfold State.noteSlots
  exact h.setBulk

theorem voidSlot (h : Keeps s t) {i} : Keeps s (t.voidSlot i) := by
  unfold State.voidSlot
  exact (h.bump.onMem fun _ hm => hm.clearFlash).noteSlots

theorem chooseStep {l : List Nat} {t : State} (h : Keeps s t) {offers members} : Keeps s (t.chooseStep offers members l).2.2 := by
  induction l generalizing t with
  | nil => exact h
  | cons a l ih =>
    unfold State.chooseStep
    split
    exacts [h, ih (h.bump.log.forEach fun _ _ h => h.log)]

theorem putTile (h : Keeps s t) {x1 j bs} : Keeps s (t.putTile x1 j bs) := by
  unfold State.putTile
  split
  · exact h
  · extract_lets
    split
    · exact h
    · extract_lets s1
      have h1 : Keeps s s1 := by
        unfold s1
        split
        · split
          exacts [h.putFrame, h]
        · exact h
      split
      exacts [h1, h1.noteProgrammed.modInst]

theorem putShardTile (h : Keeps s t) {i k bs} : Keeps s (t.putShardTile i k bs) := by
  unfold State.putShardTile
  split
  exacts [h, h.putFrame.ite h.putTile]

theorem putShard {n : Nat} {t : State} (h : Keeps s t) {i k} : Keeps s (t.putShard i n k).1 := by
  induction n generalizing t k with
  | zero => exact h
  | succ n ih =>
    rw [State.putShard]
    split
    exacts [h, ih h.putShardTile]

theorem restoreUnits (h : Keeps s t) {step parity} : Keeps s (t.restoreUnits step parity) := by
  unfold State.restoreUnits
  split
  · exact h
  · extract_lets _ s1 _ s3
    have h1 : Keeps s s1 := by
      unfold s1
      refine h.forEach fun _ _ h => ?_
      split
      exacts [h.modInst.onMem (fun _ hm => hm.releaseFrames), h]
    have h3 : Keeps s s3 := (h1.forEach fun _ _ h => h.modInst).modCoded
    exact (h3.ite (h3.forEach fun _ _ h => h.putFrame)).setReg.setReg.setReg

theorem restoreDone (h : Keeps s t) {i step older} : Keeps s (t.restoreDone i step older) := by
  unfold State.restoreDone
  extract_lets s1
  have h1 : Keeps s s1 := by
    unfold s1
    split
    exacts [h.modCtx.setBulk, h]
  exact h1.setBulk.restoreUnits.modCkpt.setReg.setReg.setReg

theorem sendShard (h : Keeps s t) {i step offers cr} : Keeps s (t.sendShard i step offers cr) := by
  unfold State.sendShard
  exact h.ite (h.forEach fun _ _ h => (h.forEach fun _ _ h' => h'.sendTree))

theorem restoreSelect (h : Keeps s t) {r cr bs} : Keeps s (t.restoreSelect r cr bs) := by
  unfold State.restoreSelect
  extract_lets _ _ _ s1
  have h1 : Keeps s s1 := h.chooseStep
  split
  · exact h1.modCkpt.setReg.setReg
  · extract_lets _ s2
    have h2 : Keeps s s2 := h1.modCkpt.setReg
    split
    exacts [h2, h2.sendShard.ite h2]

/-! Collective -/

theorem noteEntry (h : Keeps s t) {c before after since} : Keeps s (t.noteEntry c before after since) := by
  unfold State.noteEntry
  exact h.bump.ite h

theorem collPump (h : Keeps s t) {c q} : Keeps s (t.collPump c q) := by
  unfold State.collPump
  split
  · exact h
  · split
    · split
      · exact h
      · split
        exacts [h, h.pumpColl.modRun.drainFails]
    · exact h

theorem freeBytes {n : Nat} {t : State} (h : Keeps s t) {place} : Keeps s (t.freeBytes place n).2 := by
  induction n generalizing t with
  | zero => exact h
  | succ n ih => exact ih h.free

theorem collStage (h : Keeps s t) {c q} : Keeps s (t.collStage c q) := by
  unfold State.collStage
  split
  · exact h
  · split
    · split
      · exact h
      · extract_lets
        split
        · extract_lets _ _ _ x
          have hx : Keeps s x.2.2 := by
            unfold x
            split
            · exact h
            · split
              · split
                exacts [h.freeBytes, h]
              · split
                exacts [h, h]
          exact hx.modRun.verWrite
        · exact h
    · exact h

theorem entryChecks (h : Keeps s t) {c q crew k differs} : Keeps s (t.entryChecks c q crew k differs) := by
  unfold State.entryChecks
  split
  · exact h.originateAbort
  · split
    exacts [h.abortAt, h]

theorem collStart (h : Keeps s t) {c q} : Keeps s (t.collStart c q) := by
  unfold State.collStart
  split
  · exact h
  · split
    · exact h
    · split
      · exact h.ctxFault
      · extract_lets _ _ s1
        have h1 : Keeps s s1 := h.takeInstance.modRun
        exact h1.hubAccess.ite h1.hubAccess.modRun.noteCrews.sendEnters.takeHeld.modRun.entryChecks.collPump

theorem collRow (h : Keeps s t) {c q op} : Keeps s (t.collRow c q op) := by
  unfold State.collRow
  split
  · exact h
  · split
    exacts [h, h.ite ((h.collStart.ite h).ite (h.issue.collStart.ite h.issue))]

theorem collRetry (h : Keeps s t) {c} : Keeps s (t.collRetry c) := by
  unfold State.collRetry
  refine h.forEach fun _ _ h => ?_
  split
  exacts [h.collStart.ite h, h]

theorem staleCrew (h : Keeps s t) {crew} : Keeps s (t.staleCrew crew) := by
  unfold State.staleCrew
  exact h.bump

theorem holdEnter (h : Keeps s t) {x1} : Keeps s (t.holdEnter x1) := by
  unfold State.holdEnter
  exact h.staleCrew.ite h.frame

theorem modHelped (h : Keeps s t) {c crew inst f} : Keeps s (t.modHelped c crew inst f) := by
  unfold State.modHelped
  exact h.modCtx

theorem helperPump {n : Nat} {t : State} (h : Keeps s t) {c crew inst} : Keeps s (t.helperPump c crew inst n) := by
  induction n generalizing t with
  | zero => exact h
  | succ n ih =>
    unfold State.helperPump
    split
    · exact h
    · split
      · exact h
      · split
        · split
          exacts [h, h.pumpColl.modHelped.noteCrews]
        · split
          · exact h
          · split
            · extract_lets _ _ _ _ s1
              have h1 : Keeps s s1 := h.pumpScan.modHelped
              exact .ite h1 (.ite (ih h1.sendEnters.takeHeld.modHelped) h1.modHelped.noteCrews)
            · exact h.modHelped.noteCrews

theorem helperStart (h : Keeps s t) {c x2 att} : Keeps s (t.helperStart c x2 att) := by
  unfold State.helperStart
  split
  exacts [h, h.withdraw.bump.sendEnters.takeHeld.modHelped.noteCrews.helperPump]

theorem restorePump (h : Keeps s t) : Keeps s t.restorePump := by
  unfold State.restorePump
  split
  · split
    · exact h
    · extract_lets _ _ s1
      have h1 : Keeps s s1 := h.pumpColl.modCkpt
      split
      exacts [h1.restoreSelect.ite h1, h1]
  · exact h

theorem restoreEnterCrew (h : Keeps s t) {ceiling} : Keeps s (t.restoreEnterCrew ceiling) := by
  unfold State.restoreEnterCrew
  split
  · extract_lets _ _ _ _ _ _ _ s4
    have h4 : Keeps s s4 := h.takeInstance.modCkpt.sendEnters.takeHeld.modCkpt
    exact h4.restoreFail.ite h4.restorePump
  · exact h.setReg.setReg

theorem enterRun (h : Keeps s t) {c q r k e} : Keeps s (t.enterRun c q r k e) := by
  unfold State.enterRun
  split
  · exact h.staleCrew
  · split
    · exact h.holdEnter.abortAt
    · split
      · split
        · exact h
        · split
          · exact h.holdEnter
          · split
            · exact h.staleCrew
            · split
              · exact h.originateAbort
              · split
                exacts [h, h.noteEntry.modRun.collPump.exchangePump]
      · split
        · exact h
        · split
          · exact h.holdEnter
          · split
            · exact h.staleCrew
            · split
              · exact h.originateAbort
              · split
                exacts [h, h.noteEntry.modRun.collPump.exchangePump]

theorem enterHelped (h : Keeps s t) {c x2 e} : Keeps s (t.enterHelped c x2 e) := by
  unfold State.enterHelped
  split
  exacts [h.holdEnter.helperStart.ite h.staleCrew,
      h.staleCrew.ite (h.holdEnter.helperStart.ite (h.holdEnter.ite (h.helperFail.ite h.modHelped.helperPump)))]

theorem strokeAdds (h : Keeps s t) {job k stage num src first elems upsets} :
    Keeps s (t.strokeAdds job k stage num src first elems upsets).1 := by
  unfold State.strokeAdds
  split
  · exact fst h
  · split
    · extract_lets s1
      have h1 : Keeps s s1 := h.bump
      split
      exacts [fst h1.bump, fst h1]
    · exact fst h

theorem noteAbort (h : Keeps s t) {c crew origin inst code} : Keeps s (t.noteAbort c crew origin inst code) := by
  unfold State.noteAbort
  exact h.setReg

theorem lateAbort (h : Keeps s t) {c q r k att code origin} : Keeps s (t.lateAbort c q r k att code origin) := by
  unfold State.lateAbort
  exact h.ite (h.modRun.ctxFault.ite h.modRun.logCtx)

theorem settleAbort (h : Keeps s t) {c q r k ab} : Keeps s (t.settleAbort c q r k ab) := by
  unfold State.settleAbort
  exact h.noteAbort.ctxFault.ite h.noteAbort.logCtx.bump.modRun

theorem crabAll (h : Keeps s t) : Keeps s t.crabAll := by
  unfold State.crabAll
  refine h.forEach fun _ _ h => ?_
  refine h.forEach fun _ _ h => ?_
  split
  exacts [h.bump.originateAbort.ite h, h]

theorem closeInstances (h : Keeps s t) {crew} : Keeps s (t.closeInstances crew) := by
  unfold State.closeInstances
  exact h.forEach fun _ _ h => (h.modCtx.forEach fun _ _ h' => h'.releaseHeld)

theorem crewCommitted (h : Keeps s t) {c r} : Keeps s (t.crewCommitted c r) := by
  unfold State.crewCommitted
  split
  · exact h
  · extract_lets s1 s2
    have h1 : Keeps s s1 := h.bump
    have h2 : Keeps s s2 := h1.closeInstances.ite h1
    exact (h2.bump.ite h2).modCtx.noteCrews

theorem closeAllInstances (h : Keeps s t) : Keeps s t.closeAllInstances := by
  unfold State.closeAllInstances
  exact h.forEach fun _ _ h => (h.modCtx.forEach fun _ _ h' => h'.releaseHeld)

/-! Timing -/

theorem setGcState (h : Keeps s t) {st} : Keeps s (t.setGcState st) := by
  unfold State.setGcState
  exact h.ite (h.setReg.bump.log.ite h.setReg)

theorem noteSource (h : Keeps s t) {src stratum port} : Keeps s (t.noteSource src stratum port) := by
  unfold State.noteSource
  exact h.setReg.setReg.setReg

theorem chooseUpstream (h : Keeps s t) : Keeps s t.chooseUpstream := by
  unfold State.chooseUpstream
  split
  · exact h
  · split
    · exact h.noteSource.ite h.noteSource.setGcState
    · extract_lets
      split
      · exact h.setGcState.setRegI.noteSource
      · split
        exacts [h, h.noteSource.setGcState.modTime.ite h.noteSource]

theorem trackUpstream (h : Keeps s t) {off} : Keeps s (t.trackUpstream off) := by
  unfold State.trackUpstream
  extract_lets _ _ _ _ s2 _ s3
  have h2 : Keeps s s2 := h.modTime.setRegI.setRegI
  have h3 : Keeps s s3 := h2.modTime
  exact h.modTime.bump.log.ite ((h3.setGcState.ite h3).ite (h2.setGcState.modTime.ite h2))

theorem beaconTime (h : Keeps s t) {p b} : Keeps s (t.beaconTime p b) := by
  unfold State.beaconTime
  exact h.modPort.chooseUpstream.modTime.trackUpstream.ite h.modPort.chooseUpstream

theorem gcLatch (h : Keeps s t) : Keeps s t.gcLatch := by
  unfold State.gcLatch
  exact h.setReg

theorem recordPair (h : Keeps s t) {kind host} : Keeps s (t.recordPair kind host) := by
  unfold State.recordPair
  exact h.modTime.advanceCount

/-! Port -/

theorem takeEffect (h : Keeps s t) {k} : Keeps s (t.takeEffect k) := by
  unfold State.takeEffect
  exact h.modAcc

theorem startRecord (h : Keeps s t) {kind stage item fallback reason elapsed detail} :
    Keeps s (t.startRecord kind stage item fallback reason elapsed detail) := by
  unfold State.startRecord
  exact h.modStart.bump

theorem setPortState (h : Keeps s t) {p st} : Keeps s (t.setPortState p st) := by
  unfold State.setPortState
  exact h.setReg.modPort

theorem beginAttempt (h : Keeps s t) {p n} : Keeps s (t.beginAttempt p n) := by
  unfold State.beginAttempt
  exact h.setPortState.bump.modPort

theorem startTraining (h : Keeps s t) {p} : Keeps s (t.startTraining p) := by
  unfold State.startTraining
  extract_lets s1
  have h1 : Keeps s s1 := h.takeEffect.takeEffect.modPort
  exact h1.setReg.beginAttempt.ite h1.setPortState

theorem skipPort (h : Keeps s t) {p status reason} : Keeps s (t.skipPort p status reason) := by
  unfold State.skipPort
  exact h.startRecord.setReg.modPort

theorem holdDown (h : Keeps s t) {p status} : Keeps s (t.holdDown p status) := by
  unfold State.holdDown
  exact (h.setPortState.setReg.setReg.skipPort.ite h.setPortState.setReg.setReg).modPort.log

theorem failAttempt (h : Keeps s t) {p} : Keeps s (t.failAttempt p) := by
  unfold State.failAttempt
  exact h.holdDown.ite h.setPortState.setReg.modPort

theorem addCredits (h : Keeps s t) {p cr} : Keeps s (t.addCredits p cr) := by
  unfold State.addCredits
  exact h.modPort

theorem takeIn (h : Keeps s t) {p fl} : Keeps s (t.takeIn p fl) := by
  unfold State.takeIn
  exact h.addCredits.bump

theorem rxLink (h : Keeps s t) {p fl} : Keeps s (t.rxLink p fl) := by
  unfold State.rxLink
  exact h.takeIn.bump.pump.ite h

theorem sendAwait (h : Keeps s t) {p m} : Keeps s (t.sendAwait p m) := by
  unfold State.sendAwait
  exact h.sendLink.modPort

theorem answeredMsg (h : Keeps s t) {p f} : Keeps s (t.answeredMsg p f) := by
  unfold State.answeredMsg
  exact h.modPort

theorem sendProbes (h : Keeps s t) {p} : Keeps s (t.sendProbes p) := by
  unfold State.sendProbes
  exact ((h.forEach fun _ _ h => h.sendLink).ite h).modPort

theorem checkCaps (h : Keeps s t) {p o} : Keeps s (t.checkCaps p o) := by
  unfold State.checkCaps
  extract_lets s1
  have h1 : Keeps s s1 := h.modPort
  exact h1.holdDown.ite h1.setReg.setReg.setReg.answeredMsg.setPortState.sendProbes

theorem modTag (h : Keeps s t) {p x2 f} : Keeps s (t.modTag p x2 f) := by
  unfold State.modTag
  exact h.modPort

theorem settleRequest (h : Keeps s t) : Keeps s t.settleRequest := by
  unfold State.settleRequest
  exact h.ite ((h.modFab.setReg.ite h.modFab.setReg.modFab).forEach fun _ _ h => h.modPort)

theorem offerTag (h : Keeps s t) {p x2} : Keeps s (t.offerTag p x2) := by
  unfold State.offerTag
  exact h.modTag.sendAwait.ite h.modTag

theorem askTag (h : Keeps s t) {p x2 byRequest} : Keeps s (t.askTag p x2 byRequest) := by
  unfold State.askTag
  split
  exacts [h.modTag.ite (h.ite h.modTag.offerTag), h.modPort.offerTag]

theorem dropTransit (h : Keeps s t) {p x2 ingress own} : Keeps s (t.dropTransit p x2 ingress own) := by
  unfold State.dropTransit
  exact h.ite (h.modFab.forEach fun _ _ h => (h.bump.ite h.bump.freeBuffers))

theorem endHandshake (h : Keeps s t) {p x2} : Keeps s (t.endHandshake p x2) := by
  unfold State.endHandshake
  split
  · exact h
  · extract_lets s1
    have h1 : Keeps s s1 := h.answeredMsg.dropTransit
    exact (h1.modTag.offerTag.ite h1.modPort).settleRequest.pump

theorem dropTag (h : Keeps s t) {p x2 byRequest} : Keeps s (t.dropTag p x2 byRequest) := by
  unfold State.dropTag
  split
  · exact h
  · extract_lets s1
    have h1 : Keeps s s1 := h.answeredMsg
    exact h1.modTag.ite (h1.modTag.sendAwait.dropTransit.ite h1.modPort)

theorem enableEgress (h : Keeps s t) {p x2} : Keeps s (t.enableEgress p x2) := by
  unfold State.enableEgress
  exact h.modTag.answeredMsg

theorem setLink (h : Keeps s t) {word b down} : Keeps s (t.setLink word b down) := by
  unfold State.setLink
  exact h.modFab

theorem noteLink (h : Keeps s t) {p coord down} : Keeps s (t.noteLink p coord down) := by
  unfold State.noteLink
  exact h.setLink.ite (h.ite h.setLink)

theorem reportLink (h : Keeps s t) {p up} : Keeps s (t.reportLink p up) := by
  unfold State.reportLink
  exact h.ite (h.ite (h.noteLink.ite h.noteLink.sendLine))

theorem noteCrc (h : Keeps s t) {p n} : Keeps s (t.noteCrc p n) := by
  unfold State.noteCrc
  exact h.bump.modPort

theorem linkUp (h : Keeps s t) {p} : Keeps s (t.linkUp p) := by
  unfold State.linkUp
  exact (h.setPortState.setReg.setReg.setReg.modPort.forEach fun _ _ h => h.offerTag).reportLink.chooseUpstream

theorem abortCopies (h : Keeps s t) {p x left originates} : Keeps s (t.abortCopies p x left originates) := by
  unfold State.abortCopies
  refine h.forEach fun _ _ h => ?_
  split
  exacts [h, h.sendAbortFlit.modPort.bump.ite h.sendAbortFlit.modPort]

theorem discardArriving (h : Keeps s t) {p x originates} : Keeps s (t.discardArriving p x originates) := by
  unfold State.discardArriving
  exact (h.modFab.freeBuffers.ite h.modFab).abortCopies.modPort

theorem rerouteFrom (h : Keeps s t) {p} : Keeps s (t.rerouteFrom p) := by
  unfold State.rerouteFrom
  extract_lets
  refine h.modFab.forEach fun _ _ h => ?_
  extract_lets _ _ s1
  have h1 : Keeps s s1 := h.bump
  split
  · exact h1.ite h1.freeBuffers
  · split
    · exact h.forwardTree
    · split
      exacts [h.forward1, h]

theorem linkLost (h : Keeps s t) {p status} : Keeps s (t.linkLost p status) := by
  unfold State.linkLost
  extract_lets s1
  have h1 : Keeps s s1 := by
    unfold s1
    split
    exacts [h.discardArriving, h]
  exact h1.setPortState.setReg.setReg.modPort.bump.logModule.reportLink.rerouteFrom.settleRequest.chooseUpstream.pump

theorem packetFlitFails (h : Keeps s t) {p} : Keeps s (t.packetFlitFails p) := by
  unfold State.packetFlitFails
  split
  exacts [h.discardArriving, h.ite h.bump.modPort.sendAwait]

theorem flitsFail (h : Keeps s t) {p kind n} : Keeps s (t.flitsFail p kind n) := by
  unfold State.flitsFail
  exact h.noteCrc.linkLost.ite (h.noteCrc.ite h.noteCrc.packetFlitFails)

theorem enablePort (h : Keeps s t) {p} : Keeps s (t.enablePort p) := by
  unfold State.enablePort
  exact h.modPort.ite (h.startTraining.ite h)

theorem disablePort (h : Keeps s t) {p} : Keeps s (t.disablePort p) := by
  unfold State.disablePort
  exact (h.linkLost.ite h).setPortState.modPort

theorem forwardTransit (h : Keeps s t) {p pk} : Keeps s (t.forwardTransit p pk) := by
  unfold State.forwardTransit
  split
  · exact h.dropHere.log
  · split
    · exact h.forwardTree
    · split
      exacts [h.forward1, h]

theorem forwardLine (h : Keeps s t) {p pk} : Keeps s (t.forwardLine p pk) := by
  unfold State.forwardLine
  extract_lets s1
  have h1 : Keeps s s1 := h.modFab
  exact h1.freeBuffers.ite (h1.bump.freeBuffers.ite (h1.bump.freeBuffers.ite h1.queuePacket))

/-! Preempt -/

theorem preemptKill (h : Keeps s t) {c q} : Keeps s (t.preemptKill c q) := by
  unfold State.preemptKill
  split
  exacts [h, h.ite (h.log.beginTeardown.ite h.killRun)]

theorem preemptCtx (h : Keeps s t) {c} : Keeps s (t.preemptCtx c) := by
  unfold State.preemptCtx
  exact h.ite (h.modCtx.forEach fun _ _ h => h.preemptKill).settlePreempt

theorem raiseMismatch (h : Keeps s t) : Keeps s t.raiseMismatch := by
  unfold State.raiseMismatch
  extract_lets s1
  have h1 : Keeps s s1 := h.setReg.modAcc
  exact h1.ite (h1.modAcc.logModule.forEach fun _ _ h => h.preemptCtx)

theorem noteCovered (h : Keeps s t) : Keeps s t.noteCovered := by
  unfold State.noteCovered
  exact h.setReg.modAcc

theorem selfWrite (h : Keeps s t) {k v} : Keeps s (t.selfWrite k v) := by
  unfold State.selfWrite
  exact h.setReg.takeEffect.modAcc.log.ite h.setReg.takeEffect.raiseMismatch

/-! Coded -/

theorem ckptMiss (h : Keeps s t) {x1} : Keeps s (t.ckptMiss x1) := by
  unfold State.ckptMiss
  exact h.bump.log

theorem setCoded (h : Keeps s t) {v} : Keeps s (t.setCoded v) := by
  unfold State.setCoded
  extract_lets s1
  have h1 : Keeps s s1 := h.setReg
  split
  exacts [h1.modCkpt.setReg.ckptMiss.ite h1, h1]

theorem ensureParity (h : Keeps s t) : Keeps s t.ensureParity := by
  unfold State.ensureParity
  extract_lets _ _ s1 _ _ _ _ s2
  have h1 : Keeps s s1 := h.setReg.setReg
  have h2 : Keeps s s2 := h1.forEach fun _ _ h => by
    exact h.onMem fun _ hm => hm.releaseFrames
  refine h1.ite ?_
  split
  · exact h1
  · extract_lets s3 s4
    have h3 : Keeps s s3 := by
      refine h2.onMem fun _ hm => ?_
      exact ⟨wf_cellClear _ _ _ hm.1, hm.2⟩
    have h4 : Keeps s s4 := h3.modCoded.setReg
    exact h4.forEach fun _ _ h => h.putFrame

theorem noteLost (h : Keeps s t) : Keeps s t.noteLost := by
  unfold State.noteLost
  exact h.setReg

theorem noteCount (h : Keeps s t) {index units} : Keeps s (t.noteCount index units) := by
  unfold State.noteCount
  extract_lets _ s1
  have h1 : Keeps s s1 := h.modCoded.ensureParity
  exact (h1.forEach fun _ _ h => h.setUnit).noteLost.ite h1

theorem tellGroup (h : Keeps s t) {flags} : Keeps s (t.tellGroup flags) := by
  unfold State.tellGroup
  refine h.forEach fun _ _ h => ?_
  split
  · exact h
  · split
    exacts [h.sendTo, h]

theorem codedJoin (h : Keeps s t) : Keeps s t.codedJoin := by
  unfold State.codedJoin
  extract_lets _ _ _ _ s4
  have h4 : Keeps s s4 := (h.forEach fun _ _ h => h.takeEffect).modAcc.modCoded.setReg.setReg
  exact h4.setReg.setCoded.ite (h4.setCoded.ite (h4.setCoded.log.ite h4.setReg.setCoded.noteGroup.noteCount.tellGroup))

theorem sendDelta (h : Keeps s t) {gen stripe row delta} : Keeps s (t.sendDelta gen stripe row delta) := by
  unfold State.sendDelta
  extract_lets _ _ _ s1
  have h1 : Keeps s s1 := h.bump.bump
  split
  exacts [h.codingFail, h1.sendTo.ite (h1.forEach fun _ _ h => h.sendTo)]

theorem applyDelta (h : Keeps s t) {d} : Keeps s (t.applyDelta d) := by
  unfold State.applyDelta
  exact h.putFrame.setUnit.bump

theorem pumpDeltas (h : Keeps s t) : Keeps s t.pumpDeltas := by
  unfold State.pumpDeltas
  exact h.forEach fun _ _ h => (h.modCoded.ite (h.modCoded.applyDelta.ite h))

theorem recordGen (h : Keeps s t) {g} : Keeps s (t.recordGen g) := by
  unfold State.recordGen
  extract_lets _ _ s3 s4 s5
  have h3 : Keeps s s3 := h.pumpDeltas.setReg.setReg.setReg.modCoded
  have h4 : Keeps s s4 := h3.setCoded.ite h3
  have h5 : Keeps s s5 := by
    unfold s5
    split
    exacts [h4.setReg.ite h4, h4]
  exact h5.pumpDeltas

theorem checkRecord (h : Keeps s t) : Keeps s t.checkRecord := by
  unfold State.checkRecord
  extract_lets _ s1
  have h1 : Keeps s s1 := by
    unfold s1
    refine h.forEach fun _ _ h => ?_
    split
    · exact h
    · split
      exacts [h.sendTo, h]
  exact h.ite h1.recordGen

theorem checkGroupDone (h : Keeps s t) : Keeps s t.checkGroupDone := by
  unfold State.checkGroupDone
  exact h.ite h.modCoded.sendGroupDone.checkRecord

theorem codedCommitted (h : Keeps s t) {x1 g} : Keeps s (t.codedCommitted x1 g) := by
  unfold State.codedCommitted
  split
  · exact h
  · split
    · exact h
    · refine h.forEach fun _ _ h => ?_
      split
      exacts [h.setUnit, h]

theorem retainUnit (h : Keeps s t) {g u} : Keeps s (t.retainUnit g u) := by
  unfold State.retainUnit
  split
  exacts [h, h.setUnit]

theorem dropPrev (h : Keeps s t) : Keeps s t.dropPrev := by
  unfold State.dropPrev
  refine h.forEach fun _ _ h => ?_
  split
  exacts [h, h.modInst.dropFrames]

theorem groupCommitStart (h : Keeps s t) {g} : Keeps s (t.groupCommitStart g) := by
  unfold State.groupCommitStart
  extract_lets _ _ s1
  have h1 : Keeps s s1 := h.setReg.modCoded
  exact h.dropPrev.ite ((h1.setCoded.ite h1).forEach
      fun _ _ h => (h.sendDelta.sendDelta.ite h.sendDelta.sendDelta.retainUnit)).dropPrev.drainFails.pumpDeltas.checkGroupDone

theorem pumpSupply (h : Keeps s t) {x} : Keeps s (t.pumpSupply x) := by
  unfold State.pumpSupply
  extract_lets unit _ _ s1
  have h1 : Keeps s s1 := h.ite h.modCoded
  clear_value unit
  split
  · exact h
  · extract_lets _ _ _ s3
    have h3 : Keeps s s3 := (h1.forEach fun _ _ h => h.sendTo).modCoded
    exact h3.bump.ite h3

theorem pumpSupplies (h : Keeps s t) : Keeps s t.pumpSupplies := by
  unfold State.pumpSupplies
  exact h.forEach fun _ _ h => h.pumpSupply

theorem unitAvailable (h : Keeps s t) : Keeps s t.unitAvailable := by
  unfold State.unitAvailable
  exact h.pumpDeltas.pumpSupplies.serveHeld.forEach fun _ _ h => h.exchangePump.collRetry

theorem rebuildNext (h : Keeps s t) : Keeps s t.rebuildNext := by
  unfold State.rebuildNext
  split
  · exact h
  · split
    exacts [h.startRebuild, h]

theorem rebuildDone (h : Keeps s t) : Keeps s t.rebuildDone := by
  unfold State.rebuildDone
  exact h.ite h.selfWrite.modCoded.noteGroup.setCoded.log.tellGroup

theorem finishUnit (h : Keeps s t) {stripe cs} : Keeps s (t.finishUnit stripe cs) := by
  unfold State.finishUnit
  extract_lets _ _ s2
  have h2 : Keeps s s2 := h.unitDecoded.modCoded
  exact (h2.ite h2.setUnit.bump.modCoded.setReg.noteLost).unitAvailable.rebuildDone.rebuildNext

theorem codeUnit (h : Keeps s t) {q stripe data} : Keeps s (t.codeUnit q stripe data).2 := by
  unfold State.codeUnit
  extract_lets
  split
  · split
    exacts [snd h.bump, snd h]
  · exact snd h

theorem relayTerm (h : Keeps s t) {req stripe data} : Keeps s (t.relayTerm req stripe data) := by
  unfold State.relayTerm
  split
  exacts [h, (h.modCoded.codeUnit.forEach fun _ _ h => h.sendTo).ite h.modCoded]

theorem memberLost (h : Keeps s t) {a} : Keeps s (t.memberLost a) := by
  unfold State.memberLost
  exact h.modFab.sendLine.sendLine.failAddr

theorem releaseReruns (h : Keeps s t) : Keeps s t.releaseReruns := by
  unfold State.releaseReruns
  refine h.forEach fun _ _ h => ?_
  refine h.forEach fun _ _ h => ?_
  split
  · exact h
  · split
    exacts [h, h.bump.modRun.ite h]

theorem setRank (h : Keeps s t) {rank a} : Keeps s (t.setRank rank a) := by
  unfold State.setRank
  extract_lets s1
  have h1 : Keeps s s1 := by
    unfold s1
    split
    exacts [h.requeueRank.ite h, h]
  exact h1.setBulk.regroup.releaseReruns

theorem placeTaken (h : Keeps s t) : Keeps s t.placeTaken := by
  unfold State.placeTaken
  exact h.modMem.createAll.createAll.startReplicas.setReg.noteTiers

theorem findSelves (h : Keeps s t) : Keeps s t.findSelves := by
  unfold State.findSelves
  split
  exacts [h, (h.forEach fun _ _ h => h.setReg)]

theorem applyTakeover (h : Keeps s t) {rank spare} : Keeps s (t.applyTakeover rank spare) := by
  unfold State.applyTakeover
  split
  exacts [h, h.ite ((h.modCoded.forEach fun _ _ h => (h.forEach fun _ _ h' => h'.modRun)).setRank.log.bump.ite (h.modCoded.forEach
      fun _ _ h => (h.forEach fun _ _ h' => h'.modRun)).setRank.log.bump.selfWrite.findSelves.placeTaken.setCoded)]

theorem resendDeltas (h : Keeps s t) {index} : Keeps s (t.resendDeltas index) := by
  unfold State.resendDeltas
  extract_lets _ _ _ s2
  have h2 : Keeps s s2 := by
    unfold s2
    refine h.modCoded.forEach fun _ _ h => ?_
    extract_lets
    split
    exacts [h, h.sendDelta]
  exact h.ite h2.drainFails.checkGroupDone

theorem survivorDecision (h : Keeps s t) {view gen index} : Keeps s (t.survivorDecision view gen index) := by
  unfold State.survivorDecision
  extract_lets s1 s2 s3
  have h1 : Keeps s s1 := h.modCoded
  have h2 : Keeps s s2 := h1.ite h1.setCoded
  have h3 : Keeps s s3 := by
    unfold s3
    split
    exacts [h2.ite h2.sendTo, h2]
  exact h3.modCoded.ite (h3.resendDeltas.ite h3)

theorem decideIndex (h : Keeps s t) {index} : Keeps s (t.decideIndex index) := by
  unfold State.decideIndex
  extract_lets _ _ _ _ _ tell s1 x s2 _ sp s3 _ s4
  have ht {u b} (h : Keeps s u) : Keeps s (tell u b) := h.forEach fun _ _ h => by
    split
    · exact h
    · split
      exacts [h.ite h.sendTo, h]
  clear_value tell
  have h1 : Keeps s s1 := ht h
  have hx : Keeps s x.1 := by
    unfold x
    split
    · exact h
    · split
      · exact (h1.recordGen.ite h1).fst
      · split
        exacts [h.modCoded.fst, h.fst]
  have h3 : Keeps s s3 := by
    unfold s3
    clear_value sp
    split
    · exact applyTakeover (List.foldlRecOn _ _ (motive := Keeps s) hx fun _ h _ _ => h.sendLine.sendLine)
    · exact hx.log
  have h4 : Keeps s s4 := by
    unfold s4
    clear_value sp
    split
    exacts [h3.sendTo, h3]
  exact (ht h4).survivorDecision

theorem decideLosses (h : Keeps s t) : Keeps s t.decideLosses := by
  unfold State.decideLosses
  exact h.ite (h.forEach fun _ _ h => h.decideIndex).modCoded

theorem loseAddr (h : Keeps s t) {a code} : Keeps s (t.loseAddr a code) := by
  unfold State.loseAddr
  exact h.failAddr.decideLosses

theorem spareStart (h : Keeps s t) {gen view index layout ranks spares} :
    Keeps s (t.spareStart gen view index layout ranks spares) := by
  unfold State.spareStart
  extract_lets _ s2
  have h2 : Keeps s s2 := h.modCoded.setReg.setReg
  exact ((h2.setReg.ite h2).setCoded.modCoded.ensureParity.modCoded.forEach
      fun _ _ h => (h.startRebuild.ite h)).noteGroup.noteLost.rebuildDone.rebuildNext.pumpDeltas

theorem codedRevert (h : Keeps s t) {g} : Keeps s (t.codedRevert g) := by
  unfold State.codedRevert
  extract_lets _ _ _ put s1 s2 _ _ _ s6 s7
  have hput u parity f x (h : Keeps s u) : Keeps s (put parity f u x) := by
    unfold put
    split
    · exact h
    · refine setUnit (h.ite ?_)
      split
      exacts [h.putFrame, h]
  clear_value put
  have h1 : Keeps s s1 := h.forEach fun _ _ h => hput _ _ _ _ h
  have h2 : Keeps s s2 := h1.forEach fun _ _ h => hput _ _ _ _ h
  have h6 : Keeps s s6 := (h2.forEach fun _ _ h => h.modInst).dropPrev.modCoded.setReg
  have h7 : Keeps s s7 := h6.setReg.ite h6
  exact h.setReg.ite (h.setReg.ite (h7.setCoded.ite h7).setReg)

/-! NI -/

theorem takeSeq (h : Keeps s t) {a tc seq} : Keeps s (t.takeSeq a tc seq) := by
  unfold State.takeSeq
  extract_lets
  split
  exacts [h.modFab, h.bump]

theorem acceptSeq (h : Keeps s t) {a tc seq} : Keeps s (t.acceptSeq a tc seq) := by
  unfold State.acceptSeq
  exact h.takeSeq.sendAck

theorem acceptPacket (h : Keeps s t) {pk seq} : Keeps s (t.acceptPacket pk seq) := by
  unfold State.acceptPacket
  exact (h.takeSeq.modFab.ite h.acceptSeq).ite h.freeRefused.acceptSeq

theorem txnAcked (h : Keeps s t) {x1 a} : Keeps s (t.txnAcked x1 a) := by
  unfold State.txnAcked
  exact h.modFab.ite h.modFab.deliveryAcked

theorem afterTxns (h : Keeps s t) : Keeps s t.afterTxns := by
  unfold State.afterTxns
  exact (h.reapTxns.drainFails.forEach fun _ _ h => h.mirrorAcked.exchangePump).copyPumpAll.checkGroupDone.drainFails

theorem resend (h : Keeps s t) {x1} : Keeps s (t.resend x1) := by
  unfold State.resend
  exact h.modFab.bump.inject

theorem sendSkip (h : Keeps s t) {tc ctx d} : Keeps s (t.sendSkip tc ctx d) := by
  unfold State.sendSkip
  exact h.modFab.inject

theorem exhausted (h : Keeps s t) {x1} : Keeps s (t.exhausted x1) := by
  unfold State.exhausted
  extract_lets s1 _ _ s3
  have h1 : Keeps s s1 := h.modFab
  have h3 : Keeps s s3 := (h1.forEach fun _ _ h => h.sendSkip).bump.log
  split
  exacts [h1.loseAddr, (h3.ite h3.txnFailed).niResume.drainFails]

theorem takeAlloc (h : Keeps s t) : Keeps s t.takeAlloc := by
  unfold State.takeAlloc
  exact h.ite (h.modFab.forEach fun _ _ h => (h.bump.modPort.sendAwait.ite h))

theorem joinPartition (h : Keeps s t) {x1} : Keeps s (t.joinPartition x1) := by
  unfold State.joinPartition
  exact h.setReg.ite (h.setReg.setReg.modFab.takeAlloc.codedJoin.forEach fun _ _ h => h.askTag).settleRequest

theorem leavePartition (h : Keeps s t) : Keeps s t.leavePartition := by
  unfold State.leavePartition
  exact h.ite (h.setReg.setReg.modFab.forEach fun _ _ h => h.dropTag).settleRequest

theorem setTransit (h : Keeps s t) {p old new} : Keeps s (t.setTransit p old new) := by
  unfold State.setTransit
  exact (h.forEach fun _ _ h => h.dropTag).forEach fun _ _ h => h.askTag

theorem rankRemap (h : Keeps s t) {v} : Keeps s (t.rankRemap v) := by
  unfold State.rankRemap
  exact h.setRank

theorem clearFailed (h : Keeps s t) {v} : Keeps s (t.clearFailed v) := by
  unfold State.clearFailed
  exact h.modFab.regroup.releaseReruns

/-! Ckpt -/

theorem notePending (h : Keeps s t) : Keeps s t.notePending := by
  unfold State.notePending
  exact h.setBulk

theorem addTarget (h : Keeps s t) {x1 reason} : Keeps s (t.addTarget x1 reason) := by
  unfold State.addTarget
  exact h.ite (h.ckptMiss.ite h.modCkpt.notePending)

theorem ckptRequestNow (h : Keeps s t) {reason} : Keeps s (t.ckptRequestNow reason) := by
  unfold State.ckptRequestNow
  exact h.addTarget.ite (h.addTarget.forEach fun _ _ h => h.modCkpt.sendLine.sendLine)

theorem ckptIgnored (h : Keeps s t) {reason} : Keeps s (t.ckptIgnored reason) := by
  unfold State.ckptIgnored
  exact h.log

theorem ckptNotice (h : Keeps s t) : Keeps s t.ckptNotice := by
  unfold State.ckptNotice
  exact h.ckptRequestNow.ite h.ckptIgnored

theorem ckptSoftware (h : Keeps s t) : Keeps s t.ckptSoftware := by
  unfold State.ckptSoftware
  exact h.ckptRequestNow

theorem ewSettle (h : Keeps s t) {none_} : Keeps s (t.ewSettle none_) := by
  unfold State.ewSettle
  split
  · exact h.modCkpt
  · split
    exacts [h.modCkpt, h.setReg.ite h]

theorem abortUpload (h : Keeps s t) {slot} : Keeps s (t.abortUpload slot) := by
  unfold State.abortUpload
  split
  exacts [h.free.modCkpt.setReg.setReg.ite h, h]

theorem ckptStart (h : Keeps s t) {x1 reason} : Keeps s (t.ckptStart x1 reason) := by
  unfold State.ckptStart
  exact h.abortUpload.voidSlot.modCkpt.modCkpt.setReg

theorem ckptBoundary (h : Keeps s t) {x1} : Keeps s (t.ckptBoundary x1) := by
  unfold State.ckptBoundary
  extract_lets _ _ s2 s3
  have h2 : Keeps s s2 := (h.forEach fun _ _ h => h.ckptMiss).modCkpt
  have h3 : Keeps s s3 := by
    unfold s3
    split
    exacts [h2, (h2.setReg.log.ite (h2.ckptMiss.ite h2.ckptStart)).modCkpt]
  exact h3.notePending

theorem ckptRelease (h : Keeps s t) {items} : Keeps s (t.ckptRelease items) := by
  unfold State.ckptRelease
  extract_lets s1
  have h1 : Keeps s s1 := h.forEach fun _ _ h => h.releaseHeld
  exact h1.ite h1.modCoded

theorem ckptDrop (h : Keeps s t) {status} : Keeps s (t.ckptDrop status) := by
  unfold State.ckptDrop
  split
  exacts [h, h.modCkpt.setReg.setReg.ckptRelease]

theorem ckptRead (h : Keeps s t) {handle u} : Keeps s (t.ckptRead handle u) := by
  unfold State.ckptRead
  split
  exacts [h, h.ite h.modCkpt.ckptRelease]

theorem directory {l : List (Nat × List (List Host.Cell))} {t : State} (h : Keeps s t) {first} :
    Keeps s (t.directory first l).2 := by
  induction l generalizing t first with
  | nil => exact h
  | cons x l ih =>
    unfold State.directory
    extract_lets _ a b f
    have ha : Keeps s a.2 := h.free
    have hb : Keeps s b.2 := ha.free
    have hf : Keeps s f.2.2.2 := by
      unfold f
      split
      exacts [h, hb]
    exact ih hf

theorem slotPutTile (h : Keeps s t) {slot off cs} : Keeps s (t.slotPutTile slot off cs) := by
  unfold State.slotPutTile
  exact h.ite (h.bump.onMem fun _ hm => hm.putFlash)

theorem writeShard (h : Keeps s t) {k} : Keeps s (t.writeShard k) := by
  unfold State.writeShard
  extract_lets _ _ _ _ _ _ s1
  have h1 : Keeps s s1 := h.directory
  exact ((h1.forEach fun _ _ h => h.slotPutTile).ite h1).slotWrite.slotWrite.slotWrite.modCkpt.slotWrite

theorem startXfer (h : Keeps s t) {desc} : Keeps s (t.startXfer desc) := by
  unfold State.startXfer
  extract_lets _ s1
  have h1 : Keeps s s1 := h.modCkpt.setReg.setReg
  exact h.setReg.ite (h.setReg.ite (h1.modCkpt.voidSlot.ite h1))

theorem restoreRequest (h : Keeps s t) {ceiling} : Keeps s (t.restoreRequest ceiling) := by
  unfold State.restoreRequest
  exact h.setReg.ite h.setReg.restoreEnterCrew

theorem restoreBad (h : Keeps s t) {tile} : Keeps s (t.restoreBad tile) := by
  unfold State.restoreBad
  exact h.log.restoreFail

theorem restoreTiles {l : List Nat} {t : State} (h : Keeps s t) {i} : Keeps s (t.restoreTiles i l) := by
  induction l generalizing t with
  | nil => exact h
  | cons a l ih =>
    unfold State.restoreTiles
    split
    exacts [h, .ite h.restoreBad (ih h.putShardTile.modCkpt)]

theorem restoreTake (h : Keeps s t) : Keeps s t.restoreTake := by
  unfold State.restoreTake
  split
  · exact h
  · split
    · exact h
    · split
      exacts [h.restoreTiles, h]

/-! Commit -/

theorem formResult (h : Keeps s t) {c q r} : Keeps s (t.formResult c q r) := by
  unfold State.formResult
  split
  · exact h.collStage
  · split
    exacts [h.combineStage.ite h, h]

theorem formAccess (h : Keeps s t) {c q r} : Keeps s (t.formAccess c q r).1 := by
  unfold State.formAccess
  split
  · exact fst h
  · extract_lets
    split
    exacts [h.hubAccess.returnsReadable, fst h.hubAccess]

theorem reachCommit (h : Keeps s t) {c q} : Keeps s (t.reachCommit c q) := by
  unfold State.reachCommit
  split
  exacts [h, (h.formAccess.formResult.modRun.ite h.formAccess).ite h]

theorem installVersion (h : Keeps s t) {c r x} : Keeps s (t.installVersion c r x) := by
  unfold State.installVersion
  split
  · extract_lets _ _ _ _ s1 s2
    have h1 : Keeps s s1 := h.onMem (fun _ hm => hm.rehold)
    have h2 : Keeps s s2 := by
      unfold s2
      split
      exacts [h1, h1.modInst.ite h1.dropFrames]
    exact h2.modInst.restartMoves.codedCommitted
  · exact h.dropStaged

theorem sendSignals (h : Keeps s t) {c l} : Keeps s (t.sendSignals c l) := by
  unfold State.sendSignals
  refine h.forEach fun _ _ h => ?_
  split
  · exact h.addCounter
  · split
    exacts [h.sendTo, h.addCounter.ite h.sendTo]

theorem countReads (h : Keeps s t) {c r} : Keeps s (t.countReads c r) := by
  unfold State.countReads
  exact h.ite (h.forEach fun _ _ h => h.modInst)

theorem finishEntry (h : Keeps s t) {c q r} : Keeps s (t.finishEntry c q r) := by
  unfold State.finishEntry
  exact h.postRecord.endStreams.modQueue

theorem commitRepair (h : Keeps s t) {c q r x4} : Keeps s (t.commitRepair c q r x4) := by
  unfold State.commitRepair
  exact ((h.forEach fun _ _ h => h.installVersion).forEach fun _ _ h => h.dropStaged).setRun.noteHbm

theorem commitKind (h : Keeps s t) {c r} : Keeps s (t.commitKind c r).1 := by
  unfold State.commitKind
  split
  · exact h.exchangeCommitted
  · split
    exacts [h.expertCommitted, fst h]

theorem commitNow (h : Keeps s t) {c q r} : Keeps s (t.commitNow c q r) := by
  unfold State.commitNow
  extract_lets s1 _ s3 s4 _ _ _ _ _ s9
  have h1 : Keeps s s1 := by
    unfold s1
    split
    exacts [h.bump, h]
  have h3 : Keeps s s3 := h1.writeSat.forEach fun _ _ h => h.bump
  have h4 : Keeps s s4 := h3.crewCommitted.ite h3
  have h9 : Keeps s s9 :=
    ((h4.ite h4.checkSequences).forEach
        fun _ _ h => h.installVersion).commitKind.countReads.sendSignals.finishEntry.noteHbm.noteTiers.noteCrews.drainFails
  split
  exacts [h3.commitRepair, h9.ctxFault.ite h9]

theorem strictFails (h : Keeps s t) {c q r} : Keeps s (t.strictFails c q r) := by
  unfold State.strictFails
  extract_lets _ s2
  have h2 : Keeps s s2 := h.writeSat.forEach fun _ _ h => h.bump
  exact h2.originateAbort.ite h2.ctxFault

theorem commitPoint (h : Keeps s t) {c q} : Keeps s (t.commitPoint c q) := by
  unfold State.commitPoint
  extract_lets s1
  have h1 : Keeps s s1 := h.reachCommit
  split
  · exact h1
  · split
    · exact h1
    · split
      · exact h1.strictFails
      · split
        exacts [h1.deadlineMiss, h1.ite ((h1.forEach
            fun _ _ h => h.startRebuild).ite (h1.modRun.ite h1.commitNow.settlePreempt.exchangePump.copyPumpAll.settle))]

theorem applyCmt (h : Keeps s t) {c} : Keeps s (t.applyCmt c) := by
  unfold State.applyCmt
  exact h.modAcc

theorem boundary (h : Keeps s t) {c} : Keeps s (t.boundary c) := by
  unfold State.boundary
  extract_lets _ _ _ s3 s4
  have h3 : Keeps s s3 := h.applyCmt.placeBoundary.dropStagings.takeCap.modCtx
  have h4 : Keeps s s4 := h3.groupCommitStart.ite h3
  exact h4.ckptBoundary.ite h4

theorem stepBoundary (h : Keeps s t) {c q} : Keeps s (t.stepBoundary c q) := by
  unfold State.stepBoundary
  split
  · exact h
  · split
    · exact h
    · split
      exacts [h.deadlineMiss, h.ite h.boundary.sendSignals.modCtx.finishEntry.drainFails.settlePreempt.settle]

theorem doorbellRefused (h : Keeps s t) {c q tail} : Keeps s (t.doorbellRefused c q tail) := by
  unfold State.doorbellRefused
  exact h.bump.log

theorem ringDoorbell (h : Keeps s t) {c q tail} : Keeps s (t.ringDoorbell c q tail) := by
  unfold State.ringDoorbell
  exact h.doorbellRefused.ite (h.doorbellRefused.ite h.modQueue.settle)

theorem ackRecords (h : Keeps s t) {c n} : Keeps s (t.ackRecords c n) := by
  unfold State.ackRecords
  exact h.setReg.flushRecords.settle

theorem resumeCtx (h : Keeps s t) {c} : Keeps s (t.resumeCtx c) := by
  unfold State.resumeCtx
  exact h.ite h.setReg.settle

/-! Launch -/

theorem startKind (h : Keeps s t) {c q} : Keeps s (t.startKind c q) := by
  unfold State.startKind
  split
  · exact h
  · split
    · exact h.blockStart
    · split
      · extract_lets s1
        have h1 : Keeps s s1 := h.exchangeInit
        exact h1.broadcastStart.drainFails.ite (h1.dispatchBegins.dispatchStart.drainFails.ite h1)
      · exact h
    · exact h.collStart
    · exact h.copyStart
    · exact h.fetchStart
    · exact h

theorem freeDraw (h : Keeps s t) : Keeps s t.freeDraw := by
  unfold State.freeDraw
  exact h.modPower

/-! Context -/

theorem takeExports (h : Keeps s t) {c} : Keeps s (t.takeExports c) := by
  unfold State.takeExports
  exact h.forEach fun _ _ h => (h.setBulkByte.modCtx.ite h.setBulkByte)

theorem codedResident (h : Keeps s t) {c} : Keeps s (t.codedResident c) := by
  unfold State.codedResident
  exact h.ite ((h.forEach fun _ _ h => h.putFrame).modCoded.setReg.setReg.setReg.ite (h.forEach
      fun _ _ h => h.putFrame).modCoded.setReg.setReg)

theorem makeResident (h : Keeps s t) {c} : Keeps s (t.makeResident c) := by
  unfold State.makeResident
  extract_lets _ _ _ _ _ _ _ s6 _ s7
  have h6 : Keeps s s6 := ((h.forEach fun _ _ h => h.takeEffect).modAcc.modCtx.placeInitial.forEach fun _ _ h => h.setReg).frame
  have h7 : Keeps s s7 := by
    refine h6.ite (h6.onMem fun _ hm => ?_)
    exact ⟨wf_cellClear _ _ _ hm.1, hm.2⟩
  exact h7.codedResident.takeExports.setReg.noteHbm

theorem clearCtx (h : Keeps s t) {c} : Keeps s (t.clearCtx c) := by
  unfold State.clearCtx
  exact h.setReg.setReg.setReg.setReg

theorem ctxRequest (h : Keeps s t) {op c} : Keeps s (t.ctxRequest op c) := by
  unfold State.ctxRequest
  extract_lets _ s1
  have h1 : Keeps s s1 := h.setReg
  split
  · exact h1
  · split
    exacts [h.setReg.makeResident, h.setReg.beginTeardown, h1.clearCtx]

theorem setStep (h : Keeps s t) {c v} : Keeps s (t.setStep c v) := by
  unfold State.setStep
  exact h.modCtx.ite h.setReg

/-! Image -/

theorem dropImage (h : Keeps s t) : Keeps s t.dropImage := by
  unfold State.dropImage
  extract_lets s1 s2 s3 s4 s5 s6 s7 _ _ _ _ s12
  have h1 : Keeps s s1 := h.closeAllInstances
  have h2 : Keeps s s2 := by
    unfold s2
    split
    exacts [h1.forEach fun _ _ h => h.setReg.setReg, h1]
  have h3 : Keeps s s3 := h2.setReg.setReg
  have h4 : Keeps s s4 := by
    unfold s4
    split
    exacts [h3.forEach fun _ _ h => h.setReg, h3]
  have h5 : Keeps s s5 := by
    refine h4.onMem fun _ hm => ?_
    exact ⟨hm.clearAreas, hm.2⟩
  have h7 : Keeps s s7 := h5.modPools.forEach fun _ _ h => h.setReg.modCtx
  have h12 : Keeps s s12 := (h7.forEach fun _ _ h => h.setReg.setReg).setReg.setReg.setReg.setReg.modCoded.setReg.setReg.setReg.setReg
  exact (h12.setReg.ite h12).frame.noteTiers

theorem noteCapacity (h : Keeps s t) : Keeps s t.noteCapacity := by
  unfold State.noteCapacity
  exact h.setReg.setReg.setReg

/-- What keeps a state keeps the state from which `take` has taken an area. -/
def AreaKeeps (take : State → Nat → Holder → Option (Nat × State)) : Prop :=
  ∀ s t n holder x, Keeps s t → take t n holder = some x → Keeps s x.2

theorem areaKeeps_takeArea : AreaKeeps State.takeArea := by
  delta State.takeArea
  generalize Mem.stretch = stretch
  revert stretch
  refine id fun stretch s t n holder x h e => ?_
  dsimp only at e
  split at e
  · cases e
  · cases e
    refine snd ?_
    exact h.onMem fun _ hm => ⟨wf_cellClear _ _ _ hm.1, hm.2⟩

theorem takeArea (h : Keeps s t) {n holder x} (e : t.takeArea n holder = some x) : Keeps s x.2 :=
  areaKeeps_takeArea s t n holder x h e

theorem placeRings (h : Keeps s t) {n} : Keeps s (t.placeRings n) := by
  unfold State.placeRings
  refine h.forEach fun _ _ h => ?_
  split
  · next e => exact (h.takeArea e).setReg
  · exact h

theorem placeCoded (h : Keeps s t) {im} : Keeps s (t.placeCoded im) := by
  have ht := areaKeeps_takeArea
  unfold State.placeCoded
  generalize State.takeArea = take at ht ⊢
  split
  · exact h
  · extract_lets s1 _ s2
    have h1 : Keeps s s1 := h.modCoded.ensureParity
    have h2 : Keeps s s2 := by
      unfold s2
      split
      · next e => exact ht _ _ _ _ _ h1 e
      · exact h1
    split
    · next e => exact ht _ _ _ _ _ h2 e
    · exact h2

/-- What keeps a state keeps the state in which `place` has placed the pools. -/
def PoolsKeep (place : State → State × Bool) : Prop := ∀ s t, Keeps s t → Keeps s (place t).1

theorem poolsKeep_placePools : PoolsKeep State.placePools := by
  delta State.placePools
  generalize Mem.stretch = stretch
  generalize List.range 16 = pools
  revert stretch pools
  refine id fun stretch pools s t h => ?_
  beta_reduce
  extract_lets sizes counts s1 r
  have h1 : Keeps s s1 := h.modPools
  have hr : Keeps s r.1 := h1.foldl_fst fun a p h => by
    refine h.iteFst ?_
    cases List.findSome? (fun st => stretch a.1.mem st (tilesOf (a.1.poolCount p * a.1.poolSize p))) (a.1.poolStacks p) with
    | none => exact h.fst
    | some f =>
      refine fst (setReg ?_)
      exact h.onMem fun _ hm => ⟨wf_cellClear _ _ _ hm.1, hm.2⟩
  exact hr.setReg.setReg

theorem placePools (h : Keeps s t) : Keeps s t.placePools.1 := poolsKeep_placePools s t h

theorem beforeLoad (h : Keeps s t) {im} : Keeps s (t.beforeLoad im) := by
  unfold State.beforeLoad
  exact h.dropImage.modAcc.frame.findSelves

theorem installImage (h : Keeps s t) {im} : Keeps s (t.installImage im).1 := by
  unfold State.installImage
  extract_lets s1 s2 s3 s4 s5 r s6
  have h2 : Keeps s s2 := h.beforeLoad.noteCapacity.forEach fun _ _ h => h.setReg
  have h4 : Keeps s s4 := h2.setReg.setReg.setReg.forEach fun _ _ h => h.setReg
  have h5 : Keeps s s5 := h4.placePinned.placeRings.placeCoded
  have hr : Keeps s r.1 := h5.placePools
  have h6 : Keeps s s6 := hr.noteCapacity.placeRest.modMem
  exact h6

theorem reportImage (h : Keeps s t) {im} : Keeps s (t.reportImage im) := by
  unfold State.reportImage
  exact h.setBulk.setReg.setReg

theorem loadImage (h : Keeps s t) {blocks} : Keeps s (t.loadImage blocks).2 := by
  unfold State.loadImage
  extract_lets _ _ im _ r
  have hr : Keeps s r.1 := h.installImage
  exact h.iteSnd (h.iteSnd (h.iteSnd (h.iteSnd (h.iteSnd (h.iteSnd (h.iteSnd (h.iteSnd (h.iteSnd (h.iteSnd (h.iteSnd
    hr.reportImage))))))))))

theorem unloadImage (h : Keeps s t) : Keeps s t.unloadImage := by
  unfold State.unloadImage
  split
  · exact h
  · extract_lets s1
    have h1 : Keeps s s1 := h.dropImage.setBulk
    exact h1.setReg.setReg.modMem.noteCapacity

theorem endLoad (h : Keeps s t) : Keeps s t.endLoad := by
  unfold State.endLoad
  split
  exacts [h, h.frame.setReg.log]

theorem imageRequest (h : Keeps s t) {op} : Keeps s (t.imageRequest op) := by
  unfold State.imageRequest
  exact h.endLoad.frame.endLoad.ite (h.endLoad.loadImage.frame.ite h.endLoad.unloadImage.frame)

/-! DictAccess -/

theorem noteRead (h : Keeps s t) {k} : Keeps s (t.noteRead k) := by
  unfold State.noteRead
  exact h.gcLatch.ite (h.modPower.ite h)

theorem refuse (h : Keeps s t) {k code} : Keeps s (t.refuse k code) := by
  unfold State.refuse
  exact h.bump.setReg

theorem beginRun (h : Keeps s t) : Keeps s t.beginRun := by
  unfold State.beginRun
  exact h.setReg.modAcc.noteCapacity.chooseUpstream.settle

theorem stateRequest (h : Keeps s t) {v} : Keeps s (t.stateRequest v) := by
  unfold State.stateRequest
  exact h.setReg.ite (h.setReg.setReg.ite h.setReg.beginRun)

theorem commitReference (h : Keeps s t) {v} : Keeps s (t.commitReference v) := by
  unfold State.commitReference
  exact h.setReg.modAcc

theorem writeCmt (h : Keeps s t) {k v} : Keeps s (t.writeCmt k v) := by
  unfold State.writeCmt
  exact h.setReg.modAcc.noteCovered

theorem writeRwc (h : Keeps s t) {k v} : Keeps s (t.writeRwc k v) := by
  unfold State.writeRwc
  exact h.setReg.modAcc.noteCovered

theorem selectBulk (h : Keeps s t) {v} : Keeps s (t.selectBulk v) := by
  unfold State.selectBulk
  exact h.setReg.modAcc

theorem writeRw (h : Keeps s t) {k v} : Keeps s (t.writeRw k v) := by
  unfold State.writeRw
  split
  · exact h.commitReference
  · split
    · exact h.setReg.modPower.capIdle
    · split
      · exact h.selectBulk
      · split
        · exact h.setReg.enablePort.ite h.setReg.disablePort
        · split
          exacts [h.ackRecords, h.setReg]

theorem fallbackReset (h : Keeps s t) : Keeps s t.fallbackReset := by
  unfold State.fallbackReset
  exact h.startRecord.modStart

theorem applyBulk (h : Keeps s t) {k e bs} : Keeps s (t.applyBulk k e bs) := by
  unfold State.applyBulk
  split
  · exact h.setBulk.modAcc.noteCovered
  · split
    · exact h.setBulk.modAcc.noteCovered
    · split
      · exact h.startXfer
      · split
        · exact h.setBulk.modPower
        · split
          · exact h.setBulk.regroup.releaseReruns
          · split
            exacts [h.setBulk.setTransit, h.setBulk]

theorem bulkCommit (h : Keeps s t) : Keeps s t.bulkCommit := by
  unfold State.bulkCommit
  split
  · exact h.setReg
  · split
    exacts [h.refuse.setReg, h.refuse.setReg.ite h.applyBulk.setReg]

theorem applyAction (h : Keeps s t) {dxp k v} : Keeps s (t.applyAction dxp k v) := by
  unfold State.applyAction
  exact h.imageRequest.ite <| (h.forEach fun _ _ h => h.preemptCtx).ite <| (h.forEach fun _ _ h => h.resumeCtx).ite <|
    (h.leavePartition.ite h.joinPartition).ite <| h.rankRemap.ite <| h.clearFailed.ite <| h.recordPair.ite <| h.codedRevert.ite <|
    h.ckptSoftware.ite <| h.ckptNotice.ite <| h.restoreRequest.ite <| .ite (by split; exacts [h.ctxRequest, h]) <|
    h.ackMask.ite <| h.stateRequest.ite <| h.bulkCommit.ite <| h.fallbackReset.ite <| by
      split
      exacts [h.setStep.ite h.ackMask, h]

theorem applyScalar (h : Keeps s t) {dxp k v a} : Keeps s (t.applyScalar dxp k v a) := by
  unfold State.applyScalar
  split
  exacts [h, h.writeRw, h.applyAction, h.writeRwc, h.writeCmt]

theorem writeScalar (h : Keeps s t) {dxp k v} : Keeps s (t.writeScalar dxp k v).2 := by
  unfold State.writeScalar
  extract_lets
  split
  · exact snd h.refuse
  · split
    exacts [snd h.applyScalar, snd h]

theorem writeBulk (h : Keeps s t) {k bs} : Keeps s (t.writeBulk k bs).2 := by
  unfold State.writeBulk
  extract_lets
  split
  · exact snd h.refuse
  · split
    exacts [snd h.applyBulk, snd h]

theorem pf0 (h : Keeps s t) : Keeps s t.pf0 := by
  unfold State.pf0
  extract_lets s1
  have h1 : Keeps s s1 := by
    unfold s1
    split
    exacts [h.refuse, h]
  exact h1.modAcc

theorem readWord (h : Keeps s t) {a} : Keeps s (t.readWord a) := by
  unfold State.readWord
  refine h.toHost.ite (h.toHost.ite ?_)
  extract_lets k
  cases t.entry? k with
  | none =>
    cases t.highOf k with
    | none => exact h.toHost
    | some e => exact h.toHost
  | some e => exact h.toHost.ite (h.modAcc.ite h).noteRead.toHost

theorem windowRead (h : Keeps s t) {a} : Keeps s (t.windowRead a) := by
  unfold State.windowRead
  split
  · exact h
  · split
    · exact h.toHost
    · split
      exacts [h.pf0.toHost.ite h.pf0.readWord, h.pf0.readWord]

theorem stageWrite (h : Keeps s t) {off v} : Keeps s (t.stageWrite off v) := by
  unfold State.stageWrite
  exact h.modAcc

theorem writeWord (h : Keeps s t) {a v} : Keeps s (t.writeWord a v) := by
  unfold State.writeWord
  refine h.stageWrite.ite (h.ite ?_)
  extract_lets k
  cases (if k = Key.compatLevel then dictEntry? k else t.entry? k) with
  | none =>
    cases t.highOf k with
    | none => exact h.refuse
    | some e => exact h.refuse
  | some e => exact h.refuse.ite (h.modAcc.ite h.writeScalar)

theorem windowWrite (h : Keeps s t) {a value} : Keeps s (t.windowWrite a value) := by
  unfold State.windowWrite
  extract_lets
  split
  · exact h
  · split
    · exact h.toHost
    · split
      exacts [h.modAcc.writeScalar.ite h.pf0.writeWord, h.pf0.writeWord]

theorem hostPut (h : Keeps s t) {k v} : Keeps s (t.hostPut k v) := by
  unfold State.hostPut
  split
  exacts [h.windowWrite.windowWrite.ite h.windowWrite, h]

theorem hostPutBulk (h : Keeps s t) {k bs} : Keeps s (t.hostPutBulk k bs) := by
  unfold State.hostPutBulk
  exact (h.hostPut.forEach fun _ _ h => h.windowWrite).hostPut

theorem crcPass (h : Keeps s t) {ms} : Keeps s (t.crcPass ms) := by
  unfold State.crcPass
  extract_lets _ _ _ s2
  have h2 : Keeps s s2 := h.setReg.setReg.modAcc
  exact h2.ite (h2.setReg.modAcc.ite (h2.raiseMismatch.ite h2))

/-! Dxp -/

theorem signQuote (h : Keeps s t) {nonce} : Keeps s (t.signQuote nonce).2 := by
  unfold State.signQuote
  exact snd h.bump.frame

theorem sendDxp (h : Keeps s t) {d a} : Keeps s (t.sendDxp d a) := by
  unfold State.sendDxp
  exact h.frame

theorem modSession (h : Keeps s t) {n f} : Keeps s (t.modSession n f) := by
  unfold State.modSession
  exact h.modAcc

theorem endSession (h : Keeps s t) {n} : Keeps s (t.endSession n) := by
  unfold State.endSession
  exact h.modAcc

theorem dxpReadOp (h : Keeps s t) {room o} : Keeps s (t.dxpReadOp room o).2 := by
  unfold State.dxpReadOp
  split
  · exact snd h
  · split
    · exact snd h
    · split
      · split
        exacts [snd h.signQuote, snd h]
      · split
        · split
          exacts [snd h, snd h.noteRead]
        · split <;> exact snd h

theorem dxpRefuse (h : Keeps s t) {o code} : Keeps s (t.dxpRefuse o code).2 := by
  unfold State.dxpRefuse
  exact snd h.refuse

theorem dropPiece (h : Keeps s t) {n} : Keeps s (t.dropPiece n) := by
  unfold State.dropPiece
  exact h.modSession

theorem dxpPiece (h : Keeps s t) {n o e open_} : Keeps s (t.dxpPiece n o e open_).2 := by
  unfold State.dxpPiece
  extract_lets _ s1 x2
  have h1 : Keeps s s1 := h.dropPiece
  split
  · split
    · unfold x2
      extract_lets
      split
      · exact snd h.modSession
      · split
        exacts [h1.dxpRefuse, h1.writeBulk]
    · exact h.dropPiece.dxpRefuse
  · split
    · exact h.dxpRefuse
    · split
      · exact h.dxpRefuse
      · unfold x2
        extract_lets
        split
        · exact snd h.modSession
        · split
          exacts [h1.dxpRefuse, h1.writeBulk]

theorem dxpWriteOp (h : Keeps s t) {n o} : Keeps s (t.dxpWriteOp n o).2 := by
  unfold State.dxpWriteOp
  split
  · exact h.dxpRefuse
  · split
    · split
      exacts [h.dxpRefuse, h.writeScalar]
    · split
      · exact h.dxpRefuse
      · split
        · exact h.writeBulk
        · split
          exacts [h.dropPiece.dxpRefuse, h.dxpPiece]

theorem dxpWriteOps {l : List DxpOp} {t : State} (h : Keeps s t) {n} : Keeps s (t.dxpWriteOps n l).2 := by
  induction l generalizing t with
  | nil => exact h
  | cons o l ih => exact ih h.dxpWriteOp

theorem dxpAtomic (h : Keeps s t) {n ops} : Keeps s (t.dxpAtomic n ops).2 := by
  unfold State.dxpAtomic
  extract_lets
  split
  exacts [h.dxpWriteOps, snd (h.forEach fun _ _ h => h.refuse)]

theorem dxpReadOps {l : List DxpOp} {t : State} (h : Keeps s t) {room} : Keeps s (t.dxpReadOps room l).2 := by
  induction l generalizing t room with
  | nil => exact h
  | cons o l ih => exact ih h.dxpReadOp

theorem dxpRun (h : Keeps s t) {k x d} : Keeps s (t.dxpRun k x d).2 := by
  unfold State.dxpRun
  split
  · exact h.dxpReadOps
  · exact snd h
  · split
    · exact snd (h.forEach fun _ _ h => h.refuse)
    · split
      exacts [h.dxpAtomic, h.dxpWriteOps]
  · exact snd h.endSession
  · exact snd h

theorem dxpServe (h : Keeps s t) {k d} : Keeps s (t.dxpServe k d) := by
  unfold State.dxpServe
  split
  · exact h.sendDxp
  · extract_lets s1 s2
    have h1 : Keeps s s1 := h.modSession
    have h2 : Keeps s s2 := h1.sendDxp
    split
    · exact h1.dxpRun.modSession.sendDxp
    · split
      · split
        exacts [h1.sendDxp, h2]
      · exact h2

theorem dxpRequest (h : Keeps s t) {k d} : Keeps s (t.dxpRequest k d) := by
  unfold State.dxpRequest
  exact h.ite (h.bump.ite (h.sendDxp.ite h.dxpServe))

theorem dxpOpenSession (h : Keeps s t) {d offer want} : Keeps s (t.dxpOpenSession d offer want) := by
  unfold State.dxpOpenSession
  exact h.log.sendDxp.ite (h.sendDxp.ite h.free.modAcc.sendDxp)

/-! Startup -/

theorem raiseFallback (h : Keeps s t) {st} : Keeps s (t.raiseFallback st) := by
  unfold State.raiseFallback
  split
  exacts [h.modStart, h]

theorem degrade (h : Keeps s t) {b} : Keeps s (t.degrade b) := by
  unfold State.degrade
  exact h.setReg

theorem railsDown (h : Keeps s t) : Keeps s t.railsDown :=
  ⟨fun hs => have ⟨h1, h2, h3⟩ := h.canonical hs
    ⟨sparseWf_filter dictDefault _ _ h1, sparseWf_filter bulkDefaultAt _ _ h2, rfl, rfl, h3.2.2⟩, h.pending⟩

theorem powerOff (h : Keeps s t) {aux} : Keeps s (t.powerOff aux) :=
  ⟨fun hs => have ⟨h1, _, h3⟩ := h.canonical hs; ⟨sparseWf_filter dictDefault _ _ h1, rfl, rfl, rfl, h3.2.2⟩, h.pending⟩

theorem beginStart (h : Keeps s t) {st} : Keeps s (t.beginStart st) := by
  unfold State.beginStart
  exact h.modStart.bump.startRecord

theorem beginSt0 (h : Keeps s t) : Keeps s t.beginSt0 := by
  unfold State.beginSt0
  extract_lets s1 s2
  have h1 : Keeps s s1 := h.modStart
  have h2 : Keeps s s2 := by
    unfold s2
    split
    exacts [h1.modStart.bump.ite h1, h1]
  exact h2.beginStart

theorem beginAgain (h : Keeps s t) : Keeps s t.beginAgain := by
  unfold State.beginAgain
  exact h.railsDown.beginStart.modPower

theorem beginStage (h : Keeps s t) {st} : Keeps s (t.beginStage st) := by
  unfold State.beginStage
  extract_lets s1
  have h1 : Keeps s s1 := h.modStart
  exact (h1.modPower.ite h1).ite ((h1.forEach fun _ _ h => h.startTraining).ite h1)

theorem enterSafe (h : Keeps s t) {railsOn} : Keeps s (t.enterSafe railsOn) := by
  unfold State.enterSafe
  extract_lets _ _ s1 _ s3 _ _ _ s7
  have h1 : Keeps s s1 := ⟨h.canonical, h.pending⟩
  have h3 : Keeps s s3 := (h1.forEach fun _ _ h => h.setReg).forEach fun _ _ h => h.ite h.setReg.setReg
  have h7 : Keeps s s7 := h3.modCkpt.setReg.setReg.setReg.setReg.setReg.setReg.modTime.modPower
  exact (h7.ite h7.frame).setReg.modStart

theorem startSafe (h : Keeps s t) {st items} : Keeps s (t.startSafe st items) := by
  unfold State.startSafe
  exact (h.forEach fun _ _ h => h.startRecord).enterSafe.setReg

theorem measure (h : Keeps s t) {st meas} : Keeps s (t.measure st meas) := by
  unfold State.measure
  exact h.forEach fun _ _ h => h.setBulk

theorem endPorts (h : Keeps s t) : Keeps s t.endPorts := by
  unfold State.endPorts
  exact (h.raiseFallback.ite h).degrade.ite (h.raiseFallback.ite h)

theorem applyDefaults (h : Keeps s t) : Keeps s t.applyDefaults := by
  unfold State.applyDefaults
  extract_lets _ s1
  have h1 : Keeps s s1 :=
    ⟨fun hs => have ⟨h1, h2, h3⟩ := h.canonical hs
      ⟨sparseWf_filter dictDefault _ _ h1, sparseWf_filter bulkDefaultAt _ _ h2, h3⟩, h.pending⟩
  exact h1.modAcc.setReg.setReg

theorem enterConfig (h : Keeps s t) : Keeps s t.enterConfig := by
  unfold State.enterConfig
  exact h.setReg.setReg.setReg.startRecord.modStart

theorem stageWork (h : Keeps s t) {st vals} : Keeps s (t.stageWork st vals) := by
  unfold State.stageWork
  extract_lets _ _ _ s2
  have h2 : Keeps s s2 := h.setReg.setReg
  split
  exacts [h.setReg, h.setReg.modTime, h.ite h.setReg.setReg.degrade, h.noteCapacity, h.setReg.setReg.setReg.noteSlots.noteCapacity,
      h.endPorts, h2.degrade.ite h2, h.setReg.setReg.setReg.setReg, h.applyDefaults.noteCapacity, h]

theorem stageDone (h : Keeps s t) {st meas vals} : Keeps s (t.stageDone st meas vals) := by
  unfold State.stageDone
  exact h.measure.stageWork.setReg.enterConfig.ite h.measure.stageWork.setReg.beginStage

theorem startAgainSoon (h : Keeps s t) : Keeps s t.startAgainSoon := by
  unfold State.startAgainSoon
  exact h.railsDown.modStart

theorem portsLate (h : Keeps s t) : Keeps s t.portsLate := by
  unfold State.portsLate
  exact h.forEach fun _ _ h => h.setPortState.setReg.setReg.skipPort

theorem stageFails (h : Keeps s t) {st items} : Keeps s (t.stageFails st items) := by
  unfold State.stageFails
  extract_lets _ record
  have h1 (kind) : Keeps s (record kind) := h.forEach fun _ _ h => h.startRecord
  split
  exacts [(h1 1).raiseFallback.startAgainSoon.ite h.startSafe, (h1 1).raiseFallback.startAgainSoon.ite h.startSafe,
    (h1 1).raiseFallback.startAgainSoon.ite (h1 2).degrade.noteCapacity.beginStage, (h1 2).degrade.setReg.noteCapacity.beginStage,
    h.portsLate.endPorts.setReg.beginStage, h.startSafe]

theorem bistWave (h : Keeps s t) {results} : Keeps s (t.bistWave results) := by
  unfold State.bistWave
  exact h.ite (h.modStart.ite h.modStart.startSafe.setReg)

theorem noteVolts (h : Keeps s t) {k mV} : Keeps s (t.noteVolts k mV) := by
  unfold State.noteVolts
  exact h.setReg

theorem takeBackFailure (h : Keeps s t) : Keeps s (t.takeBackFailure).1 := by
  unfold State.takeBackFailure
  extract_lets
  split
  · split
    exacts [fst h.modStart.setReg, fst h]
  · exact fst h

theorem loseInput (h : Keeps s t) : Keeps s t.loseInput := by
  unfold State.loseInput
  extract_lets _ s1
  have h1 : Keeps s s1 := h.modPower
  exact h1.ite (h1.railsDown.ite h1.takeBackFailure.startRecord.railsDown).modStart

/-! Power -/

theorem refreshRate (h : Keeps s t) {st mC} : Keeps s (t.refreshRate st mC) := by
  unfold State.refreshRate
  exact h.setReg.modStack.ite ((h.modStack.ite h).ite h.modStack)

theorem sample (h : Keeps s t) {sensor mC} : Keeps s (t.sample sensor mC) := by
  unfold State.sample
  extract_lets _ _ s3
  have h3 : Keeps s s3 := h.setBulk.setRegI.modPower
  split
  exacts [h3.refreshRate.ite h3, h3]

theorem beginEmergency (h : Keeps s t) {sensor} : Keeps s (t.beginEmergency sensor) := by
  unfold State.beginEmergency
  exact h.setReg.bump.modPower.setCap.modTime.logModule.crabAll

/-! Commands -/

theorem execActDetected (h : Keeps s t) {c q handle addr} : Answers s (execActDetected c q handle addr t) := by
  refine .next ?_
  split
  exacts [h, h.ite (h.readAt.actDetected.ite h)]

theorem execHostMemRead (h : Keeps s t) {addr len found} : Answers s (execHostMemRead addr len found t) := by
  refine .next ?_
  split
  · exact h
  · split
    · exact h.bump.toHost
    · exact h.bump.toHost
    · split
      · exact h.bump.toHost
      · extract_lets _ x1 s1 _ _ s4
        have h1 : Keeps s s1 := by
          unfold s1
          unfold x1
          split
          exacts [snd h.noteFound.readRange, h.readOther]
        have h4 : Keeps s s4 := h1.bump.toHost.frame
        exact (h4.hubUncorrectable.ite h4).ite h1.toHost

theorem execHostMemWrite (h : Keeps s t) {addr data found} : Answers s (execHostMemWrite addr data found t) := by
  refine .next ?_
  split
  · exact h
  · split
    exacts [h.bump, h.bump, h.bump, h.bump.ite h.noteFound.chanWrite]

theorem execScrubRead (h : Keeps s t) {chan found} : Answers s (execScrubRead chan found t) := by
  refine .next ?_
  split
  · exact h
  · split
    · extract_lets _ s1
      have h1 : Keeps s s1 := by
        unfold s1
        split
        exacts [h.bump.modMem.memError, h.bump.memError, h]
      exact h1.modMem
    · exact h.ite h.tellFound.scrubTransfer

theorem execScrubWriteback (h : Keeps s t) {addr} : Answers s (execScrubWriteback addr t) := .next (h.modMem.ite h)

theorem execRefreshSlot (h :
    Keeps s t) {stack dt found} : Answers s (execRefreshSlot stack dt found t) := .next (h.advance.tellFound.quietSlot.ite h.advance)

theorem execForcedRefresh (h : Keeps s t) {stack dt} : Answers s (execForcedRefresh stack dt t) := by
  refine .next ?_
  extract_lets s1
  have h1 : Keeps s s1 := h.advance
  exact h1.ite (h1.bump.log.bump.bump.forEach fun _ _ h => (h.forEach fun _ _ h' => h'.modRun)).modStack

theorem execRefreshDoubledClear (h : Keeps s t) {stack dt} : Answers s (execRefreshDoubledClear stack dt t) := by
  refine .next ?_
  extract_lets s1
  have h1 : Keeps s s1 := h.advance
  split
  exacts [h1.setReg.modStack.ite h1, h1]

theorem execErrorRateUpdate (h :
    Keeps s t) {dt} : Answers s (execErrorRateUpdate dt t) :=
      .next ((h.advance.forEach fun _ _ h => h.modStack.setReg).modMem.setReg.forEach fun _ _ h => h.modPort.setReg)

theorem execPlanComplete (h : Keeps s t) : Answers s (execPlanComplete t) := by
  refine .next ?_
  split
  exacts [h, h.modMem.startMoves]

theorem execPlanDigest (h : Keeps s t) {digest} : Answers s (execPlanDigest digest t) := .next (h.ite h.bump.log)

theorem execStagingHint (h : Keeps s t) {layer expert} : Answers s (execStagingHint layer expert t) := .next (h.stagingHint.ite h)

theorem execMoveComplete (h : Keeps s t) {handle owner data crcOk} : Answers s (execMoveComplete handle owner data crcOk t) := by
  refine .next ?_
  split
  exacts [h, h.ite (h.finishMove.ite h.finishMove.refetch)]

theorem execCodecTileDone (h : Keeps s t) {handle tile data crcOk} : Answers s (execCodecTileDone handle tile data crcOk t) := by
  refine .next ?_
  extract_lets
  split
  · exact h.ite h.stagingTile
  · split
    exacts [h, h.ite (h.failMove.refetch.ite h.setMove)]
  · exact h

theorem execFetch (h : Keeps s t) {c q} : Answers s (execFetch c q t) := .next (h.issue.fetchStart.ite h.issue)

theorem execBroadcast (h :
    Keeps s t) {c q found} : Answers s (execBroadcast c q found t) :=
      .next (h.tellFound.issue.exchangeInit.broadcastStart.drainFails.ite h.tellFound.issue)

theorem execDispatch (h :
    Keeps s t) {c q found} : Answers s (execDispatch c q found t) :=
      .next (h.tellFound.issue.exchangeInit.dispatchBegins.dispatchStart.drainFails.ite h.tellFound.issue)

theorem execLanding (h :
    Keeps s t) {port tag layer key experts relay first total row} : Answers s
        (execLanding port tag layer key experts relay first total row t) := by
  refine .next ?_
  split
  · exact h.discardLanding
  · split
    · exact h.discardLanding
    · split
      · exact h.discardLanding
      · split
        exacts [h.discardLanding, (h.discardLanding.log.ite h.discardLanding).ite h.land.relayPump.exchangePump]

theorem execPoolWaitGrant (h : Keeps s t) {pool} : Answers s (execPoolWaitGrant pool t) := by
  refine .next ?_
  extract_lets
  split
  · exact h.poolTestHead
  · split
    exacts [h.poolTestHead, h.poolTestHead.poolFill.xchCount.relayPump.exchangePump]

theorem execMergeList (h : Keeps s t) {tag layer key down cands} : Answers s (execMergeList tag layer key down cands t) := by
  refine .next ?_
  extract_lets
  split
  exacts [h.discardLanding, h.discardLanding.ite (h.discardLanding.ite h.land.exchangePump)]

theorem execReturnArrival (h :
    Keeps s t) {port tag layer key expert first total row} : Answers s
        (execReturnArrival port tag layer key expert first total row t) := by
  refine .next ?_
  extract_lets
  split
  · exact h.discardLanding
  · split
    · exact h.discardLanding
    · split
      · exact h.discardLanding
      · split
        exacts [h.discardLanding, h.land]

theorem execCombine (h :
    Keeps s t) {c q found} : Answers s (execCombine c q found t) := .next (h.tellFound.issue.exchangeInit.ite h.tellFound.issue)

theorem execMirrorArrival (h :
    Keeps s t) {ctx layer rows step pass data} : Answers s (execMirrorArrival ctx layer rows step pass data t) := by
  refine .next ?_
  split
  exacts [h, h.ite (h.log.ite h.chanWrite.modCtx.setReg.setReg)]

theorem execBlock (h :
    Keeps s t) {c q found} : Answers s (execBlock c q found t) := .next (h.tellFound.issue.blockStart.ite h.tellFound.issue)

theorem execBlockWaitResume (h : Keeps s t) {c q tile dt found} : Answers s (execBlockWaitResume c q tile dt found t) := by
  refine .next ?_
  extract_lets s1
  have h1 : Keeps s s1 := h.advance.tellFound
  split
  · exact h1
  · split
    exacts [h1.endWait.runTile.ite h1, h1.runTile]

theorem execNearStreamStallEnd (h : Keeps s t) {c q tile found} : Answers s (execNearStreamStallEnd c q tile found t) := by
  refine .next ?_
  extract_lets s1
  have h1 : Keeps s s1 := h.tellFound
  split
  exacts [h1, h1.ite (h1.setTile.seqStep.runTile.ite h1.setTile.seqStep)]

theorem execWaitFeather (h : Keeps s t) {c q tile dt} : Answers s (execWaitFeather c q tile dt t) := by
  refine .next ?_
  extract_lets s1
  have h1 : Keeps s s1 := h.advance
  split
  · exact h1
  · split
    exacts [h1, h1.ite h1.setTile]

theorem execBlockBudgetExpiry (h : Keeps s t) {c q} : Answers s (execBlockBudgetExpiry c q t) := by
  refine .next ?_
  split
  exacts [h, h.deadlineMiss.ite h]

theorem execCopyLocal (h : Keeps s t) {c q found} : Answers s (execCopyLocal c q found t) := .next h.tellFound.copyRow

theorem execPut (h : Keeps s t) {c q found} : Answers s (execPut c q found t) := .next h.tellFound.copyRow

theorem execGet (h : Keeps s t) {c q} : Answers s (execGet c q t) := .next h.copyRow

theorem execAtomicList (h : Keeps s t) {c q found} : Answers s (execAtomicList c q found t) := .next h.tellFound.copyRow

theorem execLoad (h :
    Keeps s t) {src ctx txn off len found} : Answers s (execLoad src ctx txn off len found t) :=
      .next (h.tellFound.serveRequest.ite h)

theorem execStore (h :
    Keeps s t) {src ctx txn off data found} : Answers s (execStore src ctx txn off data found t) :=
      .next (h.tellFound.serveRequest.ite h)

theorem execAtomic (h :
    Keeps s t) {src ctx txn off op size noReturn operand compare found} : Answers s
        (execAtomic src ctx txn off op size noReturn operand compare found t) := .next (h.tellFound.serveRequest.ite h)

theorem execSignal (h :
    Keeps s t) {src ctx counter increment} : Answers s (execSignal src ctx counter increment t) := .next (h.serveRequest.ite h)

theorem execLoadData (h : Keeps s t) {txn status data} : Answers s (execLoadData txn status data t) := .next h.response

theorem execAtomicData (h : Keeps s t) {txn status old} : Answers s (execAtomicData txn status old t) := .next h.response

theorem execMfResponseTimeout (h : Keeps s t) {txn dt} : Answers s (execMfResponseTimeout txn dt t) := by
  refine .next ?_
  extract_lets s1
  have h1 : Keeps s s1 := h.advance
  split
  · exact h1
  · split
    exacts [h1, h1.ite h1.bump.answered.txnFailed.drainFails.copyPumpAll]

theorem execAllReduce (h : Keeps s t) {c q found} : Answers s (execAllReduce c q found t) := .next h.tellFound.collRow

theorem execReduceScatter (h : Keeps s t) {c q found} : Answers s (execReduceScatter c q found t) := .next h.tellFound.collRow

theorem execAllGather (h : Keeps s t) {c q found} : Answers s (execAllGather c q found t) := .next h.tellFound.collRow

theorem execCollectiveBroadcast (h :
    Keeps s t) {c q found} : Answers s (execCollectiveBroadcast c q found t) := .next h.tellFound.collRow

theorem execAllToAll (h : Keeps s t) {c q found} : Answers s (execAllToAll c q found t) := .next h.tellFound.collRow

theorem execBarrier (h : Keeps s t) {c q} : Answers s (execBarrier c q t) := .next h.collRow

theorem execEnter (h : Keeps s t) {src crew round inst att sig} : Answers s (execEnter src crew round inst att sig t) := by
  refine .next ?_
  extract_lets
  split
  · exact h.restoreFail.ite h.modCkpt.restorePump
  · split
    exacts [h.enterHelped, h.enterRun.ite (h.holdEnter.ite h.staleCrew), h.holdEnter.ite h.staleCrew]

theorem execStroke (h :
    Keeps s t) {src crew num stage inst att first elems upsets} : Answers s
        (execStroke src crew num stage inst att first elems upsets t) := by
  refine .next ?_
  extract_lets
  split
  · exact h.modCkpt.restorePump
  · split
    · split
      exacts [h.staleCrew, h.staleCrew.ite (h.strokeAdds.helperFail.ite h.strokeAdds.modHelped.helperPump)]
    · split
      · exact h.ite h.staleCrew
      · split
        · exact h
        · split
          exacts [h, h.strokeAdds.originateAbort.ite h.strokeAdds.modRun.collPump]
    · exact h.staleCrew

theorem execScan (h :
    Keeps s t) {src crew round num stage inst att first vals} : Answers s
        (execScan src crew round num stage inst att first vals t) := by
  refine .next ?_
  extract_lets
  split
  · split
    exacts [h.staleCrew, h.staleCrew.ite h.modHelped.helperPump]
  · exact (h.ite h.staleCrew).ite (h.ite h.modRun.exchangePump)
  · exact h.staleCrew

theorem execCrewAbort (h :
    Keeps s t) {_src crew origin inst att code} : Answers s (execCrewAbort _src crew origin inst att code t) := by
  refine .next ?_
  split
  · exact h.restoreFail
  · split
    · extract_lets s1
      have h1 : Keeps s s1 := by
        unfold s1
        split
        exacts [h.helperFail.ite h, h]
      exact h1.modHelped.ctxFault.ite h1
    · exact h.ite (h.lateAbort.ite h.abortAt)
    · exact h

theorem execStrokeTimeout (h : Keeps s t) {c q dt} : Answers s (execStrokeTimeout c q dt t) := by
  refine .next ?_
  extract_lets s1 s2
  have h1 : Keeps s s1 := h.advance
  have h2 : Keeps s s2 := by
    unfold s2
    split
    exacts [h1.restoreFail.ite h1, h1]
  split
  · exact h2
  · split
    exacts [h2, h2.originateAbort.ite h2]

theorem execAbortSettle (h : Keeps s t) {c q dt} : Answers s (execAbortSettle c q dt t) := by
  refine .next ?_
  extract_lets s1
  have h1 : Keeps s s1 := h.advance
  split
  · exact h1
  · split
    exacts [h1.settleAbort.ite h1, h1]

theorem execUpstreamLost (h : Keeps s t) {dt} : Answers s (execUpstreamLost dt t) := .next h.advance.chooseUpstream

theorem execGcValueRead (h : Keeps s t) : Answers s (execGcValueRead t) := .next (h.gcLatch.toHost.ite h)

theorem execPtmDialog (h :
    Keeps s t) {x0 dt} : Answers s (execPtmDialog x0 dt t) := .next (h.advance.modTime.recordPair.ite h.advance)

theorem execRampStart (h : Keeps s t) {c q dt} : Answers s (execRampStart c q dt t) := by
  refine .next ?_
  extract_lets s1
  have h1 : Keeps s s1 := h.advance
  split
  exacts [h1, h1.modTime.bump.ite h1]

theorem execRampEnd (h : Keeps s t) {dt} : Answers s (execRampEnd dt t) := by
  refine .next ?_
  extract_lets s1
  have h1 : Keeps s s1 := h.advance
  split
  exacts [h1, h1.modTime.ite h1]

theorem execDetectComplete (h : Keeps s t) {p} : Answers s (execDetectComplete p t) := .next (h.setPortState.ite h)

theorem execTrainComplete (h :
    Keeps s t) {p ppm skew inverted reversed} : Answers s (execTrainComplete p ppm skew inverted reversed t) := by
  refine .next ?_
  split
  · exact h
  · extract_lets s1
    have h1 : Keeps s s1 := h.setPortState.sendAwait
    split
    exacts [h1.checkCaps, h1]

theorem execCaps (h :
    Keeps s t) {p fl other} : Answers s (execCaps p fl other t) :=
      .next (h.rxLink.checkCaps.ite (h.rxLink.modPort.ite (h.rxLink.sendLink.ite h.rxLink)))

theorem execBoundary (h : Keeps s t) {p fl tag} : Answers s (execBoundary p fl tag t) := by
  refine .next ?_
  extract_lets s1
  have h1 : Keeps s s1 := h.rxLink
  split
  · exact h1
  · split
    exacts [h1.sendLink, h1.sendLink.endHandshake.ite h1.modTag.dropTransit.sendLink.settleRequest]

theorem execBoundaryAck (h : Keeps s t) {p fl tag} : Answers s (execBoundaryAck p fl tag t) := by
  refine .next ?_
  extract_lets s1
  have h1 : Keeps s s1 := h.rxLink
  split
  exacts [h1.endHandshake.ite h1, h1]

theorem execBoundaryTimeout (h : Keeps s t) {p tag dt} : Answers s (execBoundaryTimeout p tag dt t) := by
  refine .next ?_
  extract_lets s1 s2
  have h1 : Keeps s s1 := h.advance
  have h2 : Keeps s s2 := h1.bump.log
  split
  · split
    exacts [(h2.modFab.ite h2).endHandshake.ite h1, h1]
  · exact h1

theorem execTagSet (h : Keeps s t) {p fl tag} : Answers s (execTagSet p fl tag t) := by
  refine .next ?_
  extract_lets s1
  have h1 : Keeps s s1 := h.rxLink
  split
  exacts [h1.enableEgress.sendLink.settleRequest.pump.ite h1, h1]

theorem execTagSetAck (h : Keeps s t) {p fl tag} : Answers s (execTagSetAck p fl tag t) := by
  refine .next ?_
  extract_lets s1
  have h1 : Keeps s s1 := h.rxLink
  split
  exacts [h1.enableEgress.settleRequest.pump.ite h1, h1]

theorem execVerifyEnd (h :
    Keeps s t) {p crcFails corrected} : Answers s (execVerifyEnd p crcFails corrected t) :=
      .next (h.ite (h.bump.noteCrc.linkUp.ite h.bump.noteCrc.failAttempt))

theorem execTrainAttemptTimeout (h :
    Keeps s t) {p dt} : Answers s (execTrainAttemptTimeout p dt t) := .next (h.advance.failAttempt.ite h.advance)

theorem execRetryWaitEnd (h : Keeps s t) {p dt} : Answers s (execRetryWaitEnd p dt t) := .next (h.advance.beginAttempt.ite h.advance)

theorem execLinkMsgRepeat (h :
    Keeps s t) {p dt} : Answers s (execLinkMsgRepeat p dt t) := .next (h.advance.forEach fun _ _ h => h.sendLink).modPort

theorem execLatProbe (h :
    Keeps s t) {p fl seq hold} : Answers s (execLatProbe p fl seq hold t) := .next (h.rxLink.sendLink.ite h.rxLink)

theorem execLatEcho (h :
    Keeps s t) {p fl seq hold roundTrip} : Answers s (execLatEcho p fl seq hold roundTrip t) :=
      .next ((h.rxLink.modPort.setReg.ite h.rxLink.modPort).ite h.rxLink)

theorem execLatencyRemeasure (h :
    Keeps s t) {p dt} : Answers s (execLatencyRemeasure p dt t) := .next (h.advance.sendProbes.ite h.advance)

theorem execResync (h : Keeps s t) {p fl} : Answers s (execResync p fl t) := .next (h.rxLink.modPort.sendAwait.ite h.rxLink)

theorem execResyncMark (h :
    Keeps s t) {p fl} : Answers s (execResyncMark p fl t) := .next (h.rxLink.ite h.rxLink.modPort.sendLink.answeredMsg)

theorem execCreditSet (h :
    Keeps s t) {p fl free} : Answers s (execCreditSet p fl free t) := .next (h.rxLink.modPort.answeredMsg.pump.ite h.rxLink)

theorem execFlitCrcFail (h :
    Keeps s t) {p kind corrected} : Answers s (execFlitCrcFail p kind corrected t) := .next (h.bump.flitsFail.ite h)

theorem execCrcBurst (h : Keeps s t) {p fails} : Answers s (execCrcBurst p fails t) := .next (h.flitsFail.ite h)

theorem execAbortFlit (h : Keeps s t) {p fl} : Answers s (execAbortFlit p fl t) := by
  refine .next ?_
  split
  · exact h
  · extract_lets s1 s2
    have h1 : Keeps s s1 := h.takeIn.bump
    have h2 : Keeps s s2 := by
      unfold s2
      split
      exacts [h1, (h1.ite h1.discardArriving).modPort]
    exact h2.pump

theorem execOrphanFlit (h : Keeps s t) {p fl tag tc vc} : Answers s (execOrphanFlit p fl tag tc vc t) := by
  refine .next ?_
  split
  · exact h
  · extract_lets s1
    have h1 : Keeps s s1 := h.takeIn
    split
    · split
      exacts [h1.pump.ite h1.packetFlitFails.pump, h1.pump]
    · exact h1.bump.bump.modPort.pump

theorem execBeacon (h : Keeps s t) {p fl b} : Answers s (execBeacon p fl b t) := .next (h.takeIn.beaconTime.pump.ite h)

theorem execLockLost (h : Keeps s t) {p} : Answers s (execLockLost p t) := .next (h.linkLost.ite h)

theorem execLinkSilenceEnd (h : Keeps s t) {p dt} : Answers s (execLinkSilenceEnd p dt t) := by
  refine .next ?_
  extract_lets s1 _ s2
  have h1 : Keeps s s1 := h.advance
  have h2 : Keeps s s2 := h1.modPort
  split
  exacts [h1, (h2.startTraining.ite h2).ite h1]

theorem execPacketArrival (h : Keeps s t) {p fl pk} : Answers s (execPacketArrival p fl pk t) := by
  refine .next ?_
  split
  · exact h
  · extract_lets _ _ _ s2 s3
    have h2 : Keeps s s2 := h.takeIn.bump.modPort
    have h3 : Keeps s s3 := by
      unfold s3
      split
      · exact h2.dropHere
      · split
        · exact h2.forwardTransit
        · split
          · exact h2.forwardLine
          · split
            · exact h2.forwardTree
            · split
              exacts [h2.forward1, h2]
    exact h3.pump

theorem execLinkState (h : Keeps s t) {dim port up coord} : Answers s (execLinkState dim port up coord t) := .next (h.noteLink.ite h)

theorem execParityDelta (h :
    Keeps s t) {src stripe gen slot row first total granules} : Answers s
        (execParityDelta src stripe gen slot row first total granules t) := by
  refine .next ?_
  extract_lets _ _ _ _ _ _ s1
  have h1 : Keeps s s1 := h.modCoded
  exact h.ite (h.modCoded.ite (h1.ite (h1.startRebuild.ite h1).pumpDeltas))

theorem execGroupDone (h :
    Keeps s t) {gen index} : Answers s (execGroupDone gen index t) := .next (h.ite (h.modCoded.ite h.modCoded.checkRecord))

theorem execGroupRecord (h : Keeps s t) {gen} : Answers s (execGroupRecord gen t) := .next (h.recordGen.ite h)

theorem execDecodeRead (h :
    Keeps s t) {stripe view index coeff req next pos} : Answers s (execDecodeRead stripe view index coeff req next pos t) :=
      .next (h.ite (h.startRebuild.ite (h.startLocalDecode.ite h)).modCoded.pumpSupplies)

theorem execDecodeTerm (h : Keeps s t) {req stripe pos data} : Answers s (execDecodeTerm req stripe pos data t) := by
  refine .next ?_
  split
  · exact h.modCoded.pumpSupplies
  · split
    exacts [h.relayTerm, h.finishUnit.ite h.modCoded]

theorem execDecodeData (h :
    Keeps s t) {req stripe index data} : Answers s (execDecodeData req stripe index data t) := .next (h.finishUnit.ite h)

theorem execTakeover (h :
    Keeps s t) {line rank spare copy tick} : Answers s (execTakeover line rank spare copy tick t) :=
      .next (h.ite (h.modFab.sendLine.ite h.modFab).applyTakeover)

theorem execGroupState (h : Keeps s t) {recorded opened units index flags} :
    Answers s (execGroupState recorded opened units index flags t) := by
  refine .next (h.ite ?_)
  extract_lets _ s1 s2 s3 s4 s5
  have h1 : Keeps s s1 := h.noteCount
  have h2 : Keeps s s2 := h1.modCoded.noteGroup
  have h3 : Keeps s s3 := (h2.setCoded.ite h2).ite h1
  have h4 : Keeps s s4 := h3.setReg.setReg.modCoded.ite h3
  have h5 : Keeps s s5 := h4.modCoded
  exact h5.decideLosses.ite (h5.modCoded.ite h5.modCoded)

theorem execCodedReportWait (h : Keeps s t) {index dt} : Answers s (execCodedReportWait index dt t) := by
  refine .next ?_
  extract_lets s1
  have h1 : Keeps s s1 := h.advance
  split
  · exact h1
  · split
    exacts [h1.memberLost.decideLosses, h1]

theorem execTakeoverWait (h : Keeps s t) {c q dt} : Answers s (execTakeoverWait c q dt t) := by
  refine .next ?_
  extract_lets s1
  have h1 : Keeps s s1 := h.advance.releaseReruns
  split
  · exact h1
  · split
    exacts [h1, h1.bump.ctxFault.ite h1]

theorem execRebuildStart (h :
    Keeps s t) {gen view index layout ranks spares} : Answers s (execRebuildStart gen view index layout ranks spares t) :=
      .next (h.spareStart.ite (h.survivorDecision.ite h))

theorem execPacketAccept (h : Keeps s t) {pk} : Answers s (execPacketAccept pk t) := by
  refine .next ?_
  extract_lets s1
  have h1 : Keeps s s1 := h.modFab
  split
  · exact h1
  · split
    exacts [h1.acceptPacket, h1.freeRefused]

theorem execSkip (h : Keeps s t) {src tc seq} : Answers s (execSkip src tc seq t) := .next (h.acceptSeq.ite h)

theorem execAck (h :
    Keeps s t) {src streams} : Answers s (execAck src streams t) :=
      .next (h.forEach fun _ _ h => (h.forEach fun _ _ h' => h'.txnAcked)).afterTxns

theorem execRetryTimerExpiry (h : Keeps s t) {txn dt} : Answers s (execRetryTimerExpiry txn dt t) := by
  refine .next ?_
  extract_lets s1
  have h1 : Keeps s s1 := h.advance
  split
  exacts [h1, h1.ite (h1.exhausted.afterTxns.ite ((h1.forEach fun _ _ h => h.resend).ite h1.resend))]

theorem execHeartbeatSend (h :
    Keeps s t) {dt} : Answers s (execHeartbeatSend dt t) := .next ((h.advance.forEach fun _ _ h => h.sendControl).ite h.advance)

theorem execHeartbeat (h : Keeps s t) {src tick} : Answers s (execHeartbeat src tick t) := .next (h.ite h.modFab)

theorem execHeartbeatDeclare (h : Keeps s t) {a dt} : Answers s (execHeartbeatDeclare a dt t) := by
  refine .next ?_
  extract_lets s1
  have h1 : Keeps s s1 := h.advance
  split
  exacts [h1, h1.ite (h1.forEach fun _ _ h => (h.logCtx.ite h)).bump.modFab.memberLost.decideLosses.afterTxns]

theorem execMemberLostCopy (h : Keeps s t) {a dt} : Answers s (execMemberLostCopy a dt t) := by
  refine .next ?_
  extract_lets s1
  have h1 : Keeps s s1 := h.advance
  split
  exacts [h1, h1.ite h1.modFab.sendLine.sendLine]

theorem execMemberLost (h :
    Keeps s t) {line a copy tick} : Answers s (execMemberLost line a copy tick t) :=
      .next (h.ite ((h.modFab.sendLine.ite h.modFab).ite (h.modFab.sendLine.ite h.modFab).log.loseAddr.afterTxns))

theorem execCkptRequest (h :
    Keeps s t) {line target origin reason copy tick} : Answers s (execCkptRequest line target origin reason copy tick t) :=
      .next (h.ite (h.modCkpt.sendLine.ite h.modCkpt).addTarget)

theorem execEarlyWarningCheck (h : Keeps s t) {dt} : Answers s (execEarlyWarningCheck dt t) := by
  refine .next ?_
  extract_lets s1 _ _ s3
  have h1 : Keeps s s1 := h.advance
  have h3 : Keeps s s3 := h1.modCkpt.ewSettle
  exact h1.ite (h3.ite (h3.ckptIgnored.ite (h3.ite (h3.modCkpt.forEach fun _ _ h => h.setReg.log).ckptRequestNow)))

theorem execCkptVersionRead (h : Keeps s t) {handle unit} : Answers s (execCkptVersionRead handle unit t) := .next h.ckptRead

theorem execCkptWriteDone (h : Keeps s t) : Answers s (execCkptWriteDone t) := by
  refine .next ?_
  split
  · exact h
  · split
    · exact h
    · extract_lets s1
      have h1 : Keeps s s1 := h.forEach fun _ _ h => h.ckptRead
      split
      exacts [h1, h1.writeShard.modCkpt.setReg.setReg.setReg.bump.noteSlots]

theorem execFlashProgramFail (h :
    Keeps s t) {remapped} : Answers s (execFlashProgramFail remapped t) :=
      .next (h.ite ((h.bump.setReg.ite h.bump).ite (h.bump.setReg.ite h.bump).ckptDrop.log))

theorem execXferComplete (h : Keeps s t) {data} : Answers s (execXferComplete data t) := by
  refine .next ?_
  split
  · exact h
  · extract_lets s1 s2
    have h1 : Keeps s s1 := h.modCkpt.setReg.setReg
    have h2 : Keeps s s2 := h1.slotWrite.noteSlots
    exact h1.toHost.ite (h2.modCkpt.ite h2)

theorem execCkptTile (h : Keeps s t) {shard step tile piece data} : Answers s (execCkptTile shard step tile piece data t) := by
  refine .next ?_
  split
  exacts [h, h.ite h.modCkpt.restoreTake]

theorem execRestoreComplete (h : Keeps s t) {flashOk} : Answers s (execRestoreComplete flashOk t) := by
  refine .next ?_
  extract_lets s1
  have h1 : Keeps s s1 := h.restoreTake
  split
  · exact h1
  · split
    · exact h1
    · split
      · exact h1
      · extract_lets
        split
        · exact h1.free.putShard.restoreBad.ite h1.free.restoreBad
        · split
          · split
            exacts [h1.putShard.restoreBad, h1.putShard.restoreDone]
          · exact h1.ite h1.restoreDone

theorem execCommit (h : Keeps s t) {c q} : Answers s (execCommit c q t) := .next h.issue

theorem execCommitPoint (h : Keeps s t) {c q found} : Answers s (execCommitPoint c q found t) := by
  refine .next ?_
  extract_lets s1
  have h1 : Keeps s s1 := h.tellFound
  split
  exacts [h1.stepBoundary.ite h1.commitPoint, h1]

theorem execStepBoundary (h : Keeps s t) {c} : Answers s (execStepBoundary c t) := by
  refine .next ?_
  split
  · split
    exacts [h.stepBoundary, h]
  · exact h

theorem execCommandBudgetExpiry (h : Keeps s t) {c q dt} : Answers s (execCommandBudgetExpiry c q dt t) := by
  refine .next ?_
  extract_lets s1
  have h1 : Keeps s s1 := h.advance
  split
  exacts [h1, h1.deadlineMiss.ite h1]

theorem execLaunchTick (h : Keeps s t) {c q dt found} : Answers s (execLaunchTick c q dt found t) := by
  refine .next ?_
  extract_lets s1
  have h1 : Keeps s s1 := h.advance
  exact h1.tellFound.issue.ite (h1.tellFound.issue.freeDraw.ite h1.tellFound.issue).startKind

theorem execTeardownComplete (h : Keeps s t) {c} : Answers s (execTeardownComplete c t) := by
  refine .next ?_
  split
  exacts [h, h.ite (h.flushRecords.applyCmt.ckptDrop.ite h.flushRecords.applyCmt).setReg.modCtx]

theorem execImageLoadEnd (h : Keeps s t) {dt} : Answers s (execImageLoadEnd dt t) := .next h.advance.endLoad

theorem execRegisterWrite (h : Keeps s t) {addr v} : Answers s (execRegisterWrite addr v t) := .next h.windowWrite

theorem execU64LowRead (h : Keeps s t) {addr} : Answers s (execU64LowRead addr t) := .next h.windowRead

theorem execU64HighRead (h : Keeps s t) {addr} : Answers s (execU64HighRead addr t) := .next h.windowRead

theorem execU64LowWrite (h : Keeps s t) {addr v} : Answers s (execU64LowWrite addr v t) := .next h.windowWrite

theorem execU64HighWrite (h : Keeps s t) {addr v} : Answers s (execU64HighWrite addr v t) := .next h.windowWrite

theorem execBulkSelect (h : Keeps s t) {v} : Answers s (execBulkSelect v t) := .next h.hostPut

theorem execBulkApertureWrite (h : Keeps s t) {off v} : Answers s (execBulkApertureWrite off v t) := .next h.windowWrite

theorem execBulkCommit (h : Keeps s t) : Answers s (execBulkCommit t) := .next h.hostPut

theorem execImageLoad (h : Keeps s t) {blocks} : Answers s (execImageLoad blocks t) := .next (h.frame.ite h).hostPut

theorem execImageUnload (h : Keeps s t) : Answers s (execImageUnload t) := .next h.hostPut

theorem execDoorbell (h : Keeps s t) {c q tail} : Answers s (execDoorbell c q tail t) := .next (h.ringDoorbell.ite h)

theorem execCompletionAck (h : Keeps s t) {c n} : Answers s (execCompletionAck c n t) := .next h.hostPut

theorem execPreempt (h : Keeps s t) {mask} : Answers s (execPreempt mask t) := .next h.hostPut

theorem execResume (h : Keeps s t) {mask} : Answers s (execResume mask t) := .next h.hostPut

theorem execPortEnable (h : Keeps s t) {p} : Answers s (execPortEnable p t) := .next h.hostPut

theorem execPortDisable (h : Keeps s t) {p} : Answers s (execPortDisable p t) := .next h.hostPut

theorem execPartitionJoin (h : Keeps s t) {tag} : Answers s (execPartitionJoin tag t) := .next h.hostPut

theorem execPartitionTeardown (h : Keeps s t) : Answers s (execPartitionTeardown t) := .next h.hostPut

theorem execTransitTagsWrite (h : Keeps s t) {p tags} : Answers s (execTransitTagsWrite p tags t) := .next h.hostPutBulk

theorem execRankRemap (h : Keeps s t) {v} : Answers s (execRankRemap v t) := .next h.hostPut

theorem execNiFailedClear (h : Keeps s t) {v} : Answers s (execNiFailedClear v t) := .next h.hostPut

theorem execHostTimeWrite (h : Keeps s t) {x0} : Answers s (execHostTimeWrite x0 t) := .next h.hostPut

theorem execCodedRevert (h : Keeps s t) {gen} : Answers s (execCodedRevert gen t) := .next h.hostPut

theorem execCkptPreemptNotice (h : Keeps s t) : Answers s (execCkptPreemptNotice t) := .next h.hostPut

theorem execCkptSoftwareRequest (h : Keeps s t) : Answers s (execCkptSoftwareRequest t) := .next h.hostPut

theorem execCkptXferDesc (h : Keeps s t) {desc} : Answers s (execCkptXferDesc desc t) := .next h.hostPutBulk

theorem execCkptRestore (h : Keeps s t) {ceiling} : Answers s (execCkptRestore ceiling t) := .next h.hostPut

theorem execCtxResident (h : Keeps s t) {c} : Answers s (execCtxResident c t) := .next h.hostPut

theorem execCtxRelease (h : Keeps s t) {c} : Answers s (execCtxRelease c t) := .next h.hostPut

theorem execCtxClear (h : Keeps s t) {c} : Answers s (execCtxClear c t) := .next h.hostPut

theorem execCtxStepSet (h : Keeps s t) {c v} : Answers s (execCtxStepSet c v t) := .next h.hostPut

theorem execCtxFaultAck (h : Keeps s t) {c w} : Answers s (execCtxFaultAck c w t) := .next h.hostPut

theorem execModuleFaultAck (h : Keeps s t) {w} : Answers s (execModuleFaultAck w t) := .next h.hostPut

theorem execEventAck (h : Keeps s t) {w} : Answers s (execEventAck w t) := .next h.hostPut

theorem execStateRequestConfig (h : Keeps s t) : Answers s (execStateRequestConfig t) := .next h.hostPut

theorem execStateRequestRun (h : Keeps s t) : Answers s (execStateRequestRun t) := .next h.hostPut

theorem execConfigCrcRef (h : Keeps s t) {v} : Answers s (execConfigCrcRef v t) := .next h.hostPut

theorem execQuoteNonce (h : Keeps s t) {nonce} : Answers s (execQuoteNonce nonce t) := .next h.hostPutBulk

theorem execPowerCap (h : Keeps s t) {v} : Answers s (execPowerCap v t) := .next h.hostPut

theorem execStartFallbackReset (h : Keeps s t) : Answers s (execStartFallbackReset t) := .next h.hostPut

theorem execCompatLevel (h : Keeps s t) {v} : Answers s (execCompatLevel v t) := .next (h.hostPut.ite (h.writeScalar.ite h))

theorem execConfigCrcPassEnd (h : Keeps s t) {ms} : Answers s (execConfigCrcPassEnd ms t) := .next (h.crcPass.ite h)

theorem execConfigCrcGrace (h : Keeps s t) {dt} : Answers s (execConfigCrcGrace dt t) := by
  refine .next ?_
  extract_lets s1
  have h1 : Keeps s s1 := h.advance
  split
  exacts [h1, h1.raiseMismatch.ite h1]

theorem execQuoteSigned (h : Keeps s t) : Answers s (execQuoteSigned t) := by
  refine .next ?_
  split
  exacts [h, h.modPower.signQuote.setBulk]

theorem execDxpOpen (h :
    Keeps s t) {d offer want} : Answers s (execDxpOpen d offer want t) := .next (h.ite (h.bump.ite h.dxpOpenSession))

theorem execDxpClose (h : Keeps s t) {d} : Answers s (execDxpClose d t) := .next h.dxpRequest

theorem execDxpKeepalive (h : Keeps s t) {d} : Answers s (execDxpKeepalive d t) := .next h.dxpRequest

theorem execDxpRead (h : Keeps s t) {d} : Answers s (execDxpRead d t) := .next h.dxpRequest

theorem execDxpWrite (h : Keeps s t) {d} : Answers s (execDxpWrite d t) := .next h.dxpRequest

theorem execDxpDescribe (h : Keeps s t) {d} : Answers s (execDxpDescribe d t) := .next h.dxpRequest

theorem execQuoteRead (h : Keeps s t) {d} : Answers s (execQuoteRead d t) := .next h.dxpRequest

theorem execDxpSessionTimeout (h : Keeps s t) {session dt} : Answers s (execDxpSessionTimeout session dt t) := by
  refine .next ?_
  extract_lets s1
  have h1 : Keeps s s1 := h.advance
  split
  exacts [h1, h1.endSession.ite h1]

theorem execStageComplete (h : Keeps s t) {ms meas vals} : Answers s (execStageComplete ms meas vals t) := by
  refine .next ?_
  split
  · exact h
  · extract_lets s1
    have h1 : Keeps s s1 := h.advance
    split
    exacts [h1, h1.ite (h1.measure.stageFails.ite (h1.ite h1.stageDone))]

theorem execStageBudgetExpiry (h : Keeps s t) {ms items meas} : Answers s (execStageBudgetExpiry ms items meas t) := by
  refine .next ?_
  split
  · exact h
  · extract_lets s1
    have h1 : Keeps s s1 := h.advance
    split
    exacts [h1, h1.ite (h1.ite h1.measure.stageFails)]

theorem execBistWaveComplete (h :
    Keeps s t) {ms results} : Answers s (execBistWaveComplete ms results t) := .next (h.advance.bistWave.ite h.advance)

theorem execStartAgain (h : Keeps s t) {dt} : Answers s (execStartAgain dt t) := by
  refine .next ?_
  extract_lets s1
  have h1 : Keeps s s1 := h.advance
  split
  exacts [h1, h1.beginAgain.ite h1]

theorem execAuxPowerUp (h :
    Keeps s t) {mV straps} : Answers s (execAuxPowerUp mV straps t) := .next (h.ite h.modPower.noteVolts.beginSt0)

theorem execInputInRange (h : Keeps s t) {mV} : Answers s (execInputInRange mV t) := by
  refine .next ?_
  extract_lets s1 s2
  have h1 : Keeps s s1 := h.noteVolts.ite h
  have h2 : Keeps s s2 := h1.modPower
  exact h1.ite (h2.beginAgain.ite (h2.beginStage.ite h2))

theorem execInputLoss (h :
    Keeps s t) {mV dt} : Answers s (execInputLoss mV dt t) :=
      .next ((h.advance.noteVolts.ite h.advance).loseInput.ite (h.advance.noteVolts.ite h.advance))

theorem execAuxLoss (h : Keeps s t) {mV} : Answers s (execAuxLoss mV t) := .next (h.powerOff.ite h)

theorem execMcReset (h : Keeps s t) {dt} : Answers s (execMcReset dt t) := .next (h.advance.powerOff.noteVolts.beginSt0.ite h.advance)

theorem execPerstAssert (h : Keeps s t) : Answers s (execPerstAssert t) := .next h.modPower.setReg.setReg

theorem execPerstDeassert (h :
    Keeps s t) : Answers s (execPerstDeassert t) :=
      .next (h.ite (h.modPower.modStart.ite (h.modPower.ite h.modPower.free.free.setReg.setReg)))

theorem execFieldNetworkLink (h : Keeps s t) {up} : Answers s (execFieldNetworkLink up t) := .next (h.setReg.ite h)

theorem execClockFault (h : Keeps s t) {pllLost} : Answers s (execClockFault pllLost t) := by
  refine .next ?_
  split
  · exact h
  · extract_lets _ _ s2
    have h2 : Keeps s s2 := h.setReg.log
    split
    exacts [h2.startSafe, h2.enterSafe]

theorem execTemperatureSample (h : Keeps s t) {sensor mC} : Answers s (execTemperatureSample sensor mC t) := .next (h.sample.ite h)

theorem execThermalEmergency (h :
    Keeps s t) {sensor mC} : Answers s (execThermalEmergency sensor mC t) := .next (h.ite (h.sample.beginEmergency.ite h.sample))

theorem execThermalEmergencyEnd (h : Keeps s t) {dt} : Answers s (execThermalEmergencyEnd dt t) := by
  refine .next ?_
  extract_lets s1
  have h1 : Keeps s s1 := h.advance
  split
  exacts [h1, h1.setReg.setCap.logModule.settle.ite h1]

theorem execThermalShutdown (h : Keeps s t) {sensor mC} : Answers s (execThermalShutdown sensor mC t) := by
  refine .next ?_
  split
  · exact h
  · extract_lets s1
    have h1 : Keeps s s1 := h.sample
    split
    · split
      exacts [h1.startSafe.modPower, h1.enterSafe]
    · exact h1

theorem execEmergencyIssueWindow (h :
    Keeps s t) {dt} : Answers s (execEmergencyIssueWindow dt t) := .next (h.advance.settle.ite h.advance)

theorem execFlashDetached (h : Keeps s t) : Answers s (execFlashDetached t) := by
  refine .next ?_
  split
  · exact h
  · extract_lets s1 s2 _ s3
    have h1 : Keeps s s1 := h.setReg
    have h2 : Keeps s s2 := h1.ckptDrop.log.ite h1
    have h3 : Keeps s s3 := by
      unfold s3
      split
      exacts [h2.free.modCkpt.setReg.setReg, h2]
    exact h3.noteCapacity

theorem execOvervoltage (h : Keeps s t) {aux mV} (hv : ¬ (if aux then 4000 else 60000) < mV) :
    Answers s (execOvervoltage aux mV t) := by
  unfold Machine.execOvervoltage
  cases aux
  · rw [if_neg Bool.false_ne_true, if_neg (show ¬60000 < mV from hv)]
    extract_lets s1
    have h1 : Keeps s s1 := h.noteVolts.ite h
    exact .next (h1.loseInput.ite h1)
  · rw [if_pos rfl, if_neg (show ¬4000 < mV from hv)]
    exact .next (h.powerOff.ite h)

theorem execOvervoltage_fault {aux mV} (hv : (if aux then 4000 else 60000) < mV) :
    Machine.execOvervoltage aux mV t = .fault .ratingsExceeded := by
  unfold Machine.execOvervoltage
  cases aux
  · rw [if_neg Bool.false_ne_true, if_pos (show 60000 < mV from hv)]
  · rw [if_pos rfl, if_pos (show 4000 < mV from hv)]

/-- Every command but an overvoltage answers a next state that keeps the queue and the canonical memories. -/
theorem exec_answers (h : Keeps s t) {i : Instr} (hi : ∀ aux mV, i ≠ .overvoltage aux mV) : Answers s (exec i t) := by
  cases i
  case overvoltage aux mV => exact absurd rfl (hi aux mV)
  case takeoverWait c q dt => exact h.execTakeoverWait (c := c) (q := q) (dt := dt)
  exacts [h.execImageLoad, h.execImageUnload, h.execDoorbell, h.execBlock, h.execBroadcast, h.execDispatch, h.execCombine,
      h.execAllReduce, h.execReduceScatter, h.execAllGather, h.execCollectiveBroadcast, h.execAllToAll, h.execBarrier,
      h.execCopyLocal, h.execPut, h.execGet, h.execAtomicList, h.execFetch, h.execCommit, h.execLaunchTick, h.execCommitPoint,
      h.execCompletionAck, h.execStepBoundary, h.execPreempt, h.execResume, h.execBlockBudgetExpiry, h.execCommandBudgetExpiry,
      h.execTeardownComplete, h.execActDetected, h.execBlockWaitResume, h.execNearStreamStallEnd, h.execWaitFeather,
      h.execHostMemRead, h.execHostMemWrite, h.execRefreshSlot, h.execForcedRefresh, h.execTemperatureSample,
      h.execRefreshDoubledClear, h.execScrubRead, h.execScrubWriteback, h.execErrorRateUpdate, h.execPlanComplete,
      h.execMoveComplete, h.execPlanDigest, h.execCodecTileDone, h.execStagingHint, h.execLanding, h.execPoolWaitGrant,
      h.execMergeList, h.execReturnArrival, h.execMirrorArrival, h.execPortEnable, h.execPortDisable, h.execDetectComplete,
      h.execTrainComplete, h.execCaps, h.execVerifyEnd, h.execTrainAttemptTimeout, h.execRetryWaitEnd, h.execLinkMsgRepeat,
      h.execBoundary, h.execBoundaryAck, h.execTagSet, h.execTagSetAck, h.execResync, h.execResyncMark, h.execCreditSet,
      h.execLatProbe, h.execLatEcho, h.execLatencyRemeasure, h.execFlitCrcFail, h.execAbortFlit, h.execOrphanFlit, h.execBeacon,
      h.execLockLost, h.execCrcBurst, h.execLinkSilenceEnd, h.execPartitionJoin, h.execPartitionTeardown, h.execTransitTagsWrite,
      h.execBoundaryTimeout, h.execPacketArrival, h.execPacketAccept, h.execAck, h.execRetryTimerExpiry, h.execSkip, h.execLinkState,
      h.execHeartbeatSend, h.execHeartbeat, h.execHeartbeatDeclare, h.execMemberLost, h.execRankRemap, h.execNiFailedClear,
      h.execLoad, h.execStore, h.execAtomic, h.execSignal, h.execLoadData, h.execAtomicData, h.execMfResponseTimeout, h.execEnter,
      h.execStroke, h.execScan, h.execCrewAbort (_src := 0), h.execStrokeTimeout, h.execAbortSettle, h.execClockFault,
      h.execUpstreamLost, h.execGcValueRead, h.execHostTimeWrite, h.execPtmDialog, h.execRampStart, h.execRampEnd, h.execParityDelta,
      h.execGroupDone, h.execGroupRecord, h.execGroupState, h.execCodedReportWait, h.execTakeover, h.execRebuildStart,
      h.execDecodeRead, h.execDecodeTerm, h.execDecodeData, h.execCodedRevert, h.execEarlyWarningCheck, h.execCkptPreemptNotice,
      h.execCkptSoftwareRequest, h.execCkptRequest, h.execCkptWriteDone, h.execFlashProgramFail, h.execCkptXferDesc,
      h.execXferComplete, h.execCkptRestore, h.execCkptTile, h.execRestoreComplete, h.execCtxResident, h.execCtxRelease,
      h.execCtxClear, h.execCtxStepSet, h.execCtxFaultAck, h.execModuleFaultAck, h.execEventAck, h.execStateRequestConfig,
      h.execStateRequestRun, h.execRegisterWrite, h.execU64LowRead, h.execU64HighRead, h.execU64LowWrite, h.execU64HighWrite,
      h.execBulkSelect, h.execBulkApertureWrite, h.execBulkCommit, h.execConfigCrcRef, h.execConfigCrcPassEnd, h.execConfigCrcGrace,
      h.execDxpOpen, h.execDxpClose, h.execDxpKeepalive, h.execDxpRead, h.execDxpWrite, h.execDxpDescribe, h.execDxpSessionTimeout,
      h.execCompatLevel, h.execQuoteNonce, h.execQuoteSigned, h.execQuoteRead, h.execPowerCap, h.execStartFallbackReset,
      h.execThermalEmergency, h.execThermalEmergencyEnd, h.execThermalShutdown, h.execAuxPowerUp, h.execInputInRange,
      h.execInputLoss, h.execAuxLoss, h.execMcReset, h.execPerstAssert, h.execPerstDeassert, h.execStageComplete,
      h.execStageBudgetExpiry, h.execBistWaveComplete, h.execStartAgain, h.execImageLoadEnd, h.execFlashDetached,
      h.execFieldNetworkLink, h.execMemberLostCopy, h.execEmergencyIssueWindow, h.execCkptVersionRead]

end Keeps

end

/-- A command answers a next state that keeps the queue and the canonical memories, or it is an overvoltage above the ratings. -/
theorem exec_cases (s : State) (i : Instr) : Answers s (exec i s) ∨
    ∃ aux mV, i = .overvoltage aux mV ∧ (if aux then 4000 else 60000) < mV ∧ exec i s = .fault .ratingsExceeded := by
  by_cases hi : ∃ aux mV, i = .overvoltage aux mV
  · obtain ⟨aux, mV, rfl⟩ := hi
    by_cases hv : (if aux then 4000 else 60000) < mV
    · exact .inr ⟨aux, mV, rfl, hv, Keeps.execOvervoltage_fault hv⟩
    · exact .inl ((Keeps.refl s).execOvervoltage hv)
  · exact .inl ((Keeps.refl s).exec_answers fun aux mV e => hi ⟨aux, mV, e⟩)

/-- What a command answers keeps the queue and the canonical memories. -/
theorem keeps_of_exec {i : Instr} {s t : State} (e : exec i s = .next t) : Keeps s t := by
  obtain ⟨u, hu, h⟩ | ⟨aux, mV, -, -, hf⟩ := exec_cases s i
  · rw [hu] at e
    cases e
    exact h
  · rw [hf] at e
    cases e

theorem step_nil {s : State} (h : s.pending = []) : step s = .next (s.advance 1) := by
  unfold step
  rw [h]

theorem step_cons {i : Instr} {s : State} {rest : List Instr} (h : s.pending = i :: rest) :
    step s = exec i { s with pending := rest } := by
  unfold step
  rw [h]

/-- Settles O1: `step` runs the front command by definition. -/
theorem stepRunsTheFrontCommand : Obligations.StepRunsTheFrontCommand := fun _ _ _ h => step_cons h

/-- Settles O2: the idle step is `advance 1`, and what an advance changes is `advance_cases`. -/
theorem emptyQueueLetsOneTickPass : Obligations.EmptyQueueLetsOneTickPass := by
  intro s hp
  refine ⟨s.advance 1, step_nil hp, advance_now s 1, ?_, advance_port s 1, advance_regs s 1⟩
  obtain ⟨R, T, P, I, e, -⟩ := advance_cases s 1
  rw [e]

/-- Settles O6: every command keeps the queue (`keeps_of_exec`). -/
theorem commandsLeaveTheQueueAlone : Obligations.CommandsLeaveTheQueueAlone := fun _ _ _ e => (keeps_of_exec e).pending

/-- Settles O7: the commands’ cases (`exec_cases`). -/
theorem onlyRatingsStopTheModule : Obligations.OnlyRatingsStopTheModule := fun i s =>
  (exec_cases s i).imp_left fun ⟨t, e, _⟩ => ⟨t, e⟩

/-- Settles O5: an idle step keeps canonical memories (`canonical_advance`), and a command does on the state with the queue’s rest. -/
theorem everyStepKeepsMemoriesCanonical : Obligations.EveryStepKeepsMemoriesCanonical := by
  intro s t hs e
  cases hp : s.pending with
  | nil =>
    rw [step_nil hp] at e
    exact Host.Outcome.next.inj e ▸ canonical_advance s 1 hs
  | cons i rest =>
    rw [step_cons hp] at e
    exact (keeps_of_exec e).canonical hs

/-- Settles O3: nothing is stored at reset. -/
theorem resetStateIsCanonical : Obligations.ResetStateIsCanonical := by
  unfold Obligations.ResetStateIsCanonical Canonical
  decide

/-- Settles O4, by evaluation of the reset state. -/
theorem resetLeavesAStartInStage0 : Obligations.ResetLeavesAStartInStage0 := by
  unfold Obligations.ResetLeavesAStartInStage0
  decide

end Sys2Proof.Machine
end

section
/-! SUPPORT. The rows by which the host writes a register of a context, of its commands or of the image (R20, R357, R361, R368). -/
-- Elaborated in order: the whole text stays within the memory of one process only so.
set_option Elab.async false
namespace Sys2Proof.Machine
open Sys2Proof.Safety

/-! ### The register rows of contexts, of their commands and of the image -/

/-- The entries of the module whose writes are actions. -/
abbrev actionKeys : List Nat :=
  [Key.imageLoad, Key.preemptRequest, Key.resumeRequest, Key.partitionRequest, Key.rankRemap, Key.niFailedClear, Key.hostTimeWrite,
    Key.codedRevert, Key.ckptRequest, Key.ckptPreemptNotice, Key.ckptRestore, Key.ctxRequest, Key.moduleFaultAck, Key.stateRequest,
    Key.bulkCommit, Key.startFallbackReset]

theorem applyAction_of_ctx {s : State} {dxp : Bool} {k v : Nat} {c : Fin 4} (h : k ∉ actionKeys)
    (hf : allCtx.find? (fun (d : Fin 4) => k == Key.ctxStepSet d || k == Key.ctxFaultAck d) = some c) :
    s.applyAction dxp k v = if k = Key.ctxStepSet c then s.setStep c v else s.ackMask c v := by
  simp only [List.mem_cons, List.not_mem_nil, or_false, not_or] at h
  simp only [State.applyAction, h, if_false, hf]

section
variable {s : State} (hs : RegistersOpen s)
include hs

theorem hostPut_ctxRequest {op : Nat} (c : Fin 4) (hop : 1 ≤ op ∧ op ≤ 3) :
    s.hostPut Key.ctxRequest (256 * op + c) = s.ctxRequest op c := by
  have hdiv : (256 * op + c.val) / 256 = op := by omega
  have hmod : (256 * op + c.val) % 4 = c.val := by omega
  have hlt : 256 * op + c.val ≤ 65535 := by omega
  have hrange : s.inRange Key.ctxRequest ⟨0x9000, 0x9000, 0x01, 0x01, .u16, 2, .wo, .val 0, 0, 65535⟩ (256 * op + c) = true := by
    simp [State.inRange, Key.ctxRequest, hdiv, hop, hlt]
    exact ⟨by omega, by rw [if_neg (by decide), if_neg (by decide)]; omega⟩
  have hc : ctxIndex? c.val = some c := dif_pos c.isLt
  refine (hostPut_of_open hs (by decide) (fun h => absurd h (by decide)) hrange).trans ?_
  change (match ctxIndex? ((256 * op + c.val) % 4) with | some d => s.ctxRequest ((256 * op + c.val) / 256) d | none => s) = _
  rw [hmod, hc, hdiv]

theorem hostPut_ctxStepSet (c : Fin 4) {v : Nat} (hv : v < 2 ^ 32) : s.hostPut (Key.ctxStepSet c) v = s.setStep c v := by
  have hk : ∀ c : Fin 4, PlainEntry (Key.ctxStepSet c) ⟨0x9020, 0x9023, 0x08, 0x08, .u32, 4, .wo, .val 0, 0, 4294967295⟩ ∧
      Key.ctxStepSet c ∉ actionKeys ∧
      allCtx.find? (fun (d : Fin 4) => Key.ctxStepSet c == Key.ctxStepSet d || Key.ctxStepSet c == Key.ctxFaultAck d) = some c := by
    decide
  obtain ⟨hplain, hother, hfind⟩ := hk c
  rw [hostPut_of_plain hs hplain ⟨Nat.zero_le v, Nat.le_of_lt_succ hv⟩]
  exact (applyAction_of_ctx hother hfind).trans (if_pos rfl)

theorem hostPut_ctxFaultAck (c : Fin 4) {v : Nat} (hv : v < 2 ^ 32) : s.hostPut (Key.ctxFaultAck c) v = s.ackMask c v := by
  have hk : ∀ c : Fin 4, PlainEntry (Key.ctxFaultAck c) ⟨0x9020, 0x9023, 0x0B, 0x0B, .u32, 4, .wo, .val 0, 0, 4294967295⟩ ∧
      Key.ctxFaultAck c ∉ actionKeys ∧ Key.ctxFaultAck c ≠ Key.ctxStepSet c ∧
      allCtx.find? (fun (d : Fin 4) => Key.ctxFaultAck c == Key.ctxStepSet d || Key.ctxFaultAck c == Key.ctxFaultAck d) = some c := by
    decide
  obtain ⟨hplain, hother, hne, hfind⟩ := hk c
  rw [hostPut_of_plain hs hplain ⟨Nat.zero_le v, Nat.le_of_lt_succ hv⟩]
  exact (applyAction_of_ctx hother hfind).trans (if_neg hne)

theorem hostPut_completionAck (c : Fin 4) {v : Nat} (hv : v < 2 ^ 32) (hhead : v ≤ s.reg (Key.completionHead c)) :
    s.hostPut (Key.completionAck c) v = s.ackRecords c v := by
  have hk : ∀ c : Fin 4, HostWritable (Key.completionAck c) ⟨0x9030, 0x9033, 0x0C, 0x0C, .u32, 4, .rw, .val 0, 0, 4294967295⟩ ∧
      Key.completionAck c ∉ [Key.startFallbackReset, Key.configCrcRef, Key.powerCap, Key.bulkSelect] ∧
      allPorts.find? (fun (p : Fin 16) => Key.completionAck c == Key.portEnable p) = none ∧
      allCtx.find? (fun (d : Fin 4) => Key.completionAck c == Key.completionAck d) = some c ∧
      Key.completionAck c / 256 = 0x9030 + c ∧ Key.completionAck c % 256 = 12 := by
    decide
  obtain ⟨hwritable, hother, hport, hfind, hindex, hsub⟩ := hk c
  simp only [List.mem_cons, List.not_mem_nil, or_false, not_or] at hother
  obtain ⟨hreset, href, hcap, hsel⟩ := hother
  have hrange : s.inRange (Key.completionAck c) ⟨0x9030, 0x9033, 0x0C, 0x0C, .u32, 4, .rw, .val 0, 0, 4294967295⟩ v = true := by
    have hctx : 0x9030 ≤ 0x9030 + c.val ∧ 0x9030 + c.val ≤ 0x9033 := by omega
    have hv' : v < 256 ^ 4 ∧ 0 ≤ v ∧ v ≤ 4294967295 := by omega
    simp only [State.inRange, hindex, hsub, if_pos hctx, Nat.add_sub_cancel_left, hhead, hv', decide_true, and_self]
    rfl
  refine (hostPut_of_open hs hwritable (fun h => absurd h hreset) hrange).trans ?_
  unfold State.applyScalar State.writeRw
  simp only [if_neg href, if_neg hcap, if_neg hsel, hport, hfind]

end

/-- Settles O51: each row is the host's write of its entry, which lies in range and is applied. -/
theorem contextRegisterRowsAct : Obligations.ContextRegisterRowsAct := by
  unfold Obligations.ContextRegisterRowsAct
  intro s c v mask dt blocks hs hv hmask
  have hv32 : 0 ≤ v ∧ v ≤ 4294967295 := ⟨Nat.zero_le v, Nat.le_of_lt_succ hv⟩
  have hmask15 : 0 ≤ mask ∧ mask ≤ 15 := ⟨Nat.zero_le mask, Nat.le_of_lt_succ hmask⟩
  have hlink : s.hostLink = true := hs.1.1
  have hbuf : RegistersOpen { s with bufBlocks := blocks } := hs
  refine ⟨?resident, ?release, ?clear, ?step, ?preempt, ?resume, fun hhead => ?ack, ?faultAck, ?moduleAck, ?eventAck, ?load,
    ?unload, rfl⟩
  case resident => exact congrArg Host.Outcome.next (hostPut_ctxRequest hs c (op := 1) (by decide))
  case release => exact congrArg Host.Outcome.next (hostPut_ctxRequest hs c (op := 2) (by decide))
  case clear => exact congrArg Host.Outcome.next (hostPut_ctxRequest hs c (op := 3) (by decide))
  case step => exact congrArg Host.Outcome.next (hostPut_ctxStepSet hs c hv)
  case preempt => exact exec_of_plain hs (e := ⟨0x9034, 0x9034, 0x01, 0x01, .u8, 1, .wo, .val 0, 0, 15⟩) (by decide) hmask15 rfl rfl
  case resume => exact exec_of_plain hs (e := ⟨0x9034, 0x9034, 0x02, 0x02, .u8, 1, .wo, .val 0, 0, 15⟩) (by decide) hmask15 rfl rfl
  case ack => exact congrArg Host.Outcome.next (hostPut_completionAck hs c hv hhead)
  case faultAck => exact congrArg Host.Outcome.next (hostPut_ctxFaultAck hs c hv)
  case moduleAck =>
    exact exec_of_plain hs (e := ⟨0x9000, 0x9000, 0x05, 0x05, .u32, 4, .wo, .val 0, 0, 4294967295⟩) (by decide) hv32 rfl
      (by unfold State.applyScalar State.applyAction; iterate 12 rw [if_neg (by decide)]
          rw [if_pos rfl])
  case eventAck =>
    have hfind : allPorts.find? (fun (p : Fin 16) => Key.eventAck == Key.portEnable p) = none ∧
        allCtx.find? (fun (d : Fin 4) => Key.eventAck == Key.completionAck d) = none := by decide
    obtain ⟨hport, hctx⟩ := hfind
    refine exec_of_plain hs (e := ⟨0x9300, 0x9300, 0x03, 0x03, .u32, 4, .rw, .val 0, 0, 4294967295⟩) (by decide) hv32 rfl ?_
    unfold State.applyScalar State.writeRw
    simp only [if_neg (show Key.eventAck ≠ Key.configCrcRef by decide), if_neg (show Key.eventAck ≠ Key.powerCap by decide),
      if_neg (show Key.eventAck ≠ Key.bulkSelect by decide), hport, hctx]
  case load =>
    have hput := hostPut_of_plain hbuf (k := Key.imageLoad) (v := 1)
      (e := ⟨0x9010, 0x9010, 0x04, 0x04, .u8, 1, .wo, .val 0, 1, 2⟩) (by decide) (by decide)
    change Host.Outcome.next ((if s.hostLink then { s with bufBlocks := blocks } else s).hostPut Key.imageLoad 1) = _
    rw [if_pos hlink, hput]
    rfl
  case unload =>
    exact exec_of_plain hs (e := ⟨0x9010, 0x9010, 0x04, 0x04, .u8, 1, .wo, .val 0, 1, 2⟩) (by decide) (by decide) rfl rfl

end Sys2Proof.Machine
end

section
/-! SUPPORT. What a teardown leaves of the other contexts' states (R355, R360), and the pending bit that a fault event sets and its
acknowledgement clears (R365, R367, R368). -/
-- Elaborated in order: the whole text stays within the memory of one process only so.
set_option Elab.async false
namespace Sys2Proof.Machine
open Sys2Proof.Safety

/-! ### What a teardown leaves -/

/-- A write through the memory controllers leaves every entry but the counts of read-modify-writes, which have sub-index 7. -/
theorem reg_busWrite_of_sub {k : Nat} (hk : k % 256 ≠ 7) (s : State) (a : Nat) (bs : List Byte) : (s.busWrite a bs).reg k = s.reg k := by
  cases h : regionOf a with
  | hbm =>
    obtain ⟨m, e, -⟩ := busWrite_hbm s a bs h
    have hcount : (s.countRmw a bs.length).reg k = s.reg k := by
      refine forEach_induct (fun t => t.reg k = s.reg k) _ (fun t u ht => ?_) _ s rfl
      have hne : k ∉ [Key.hbmRmwCount (stackOfAddr u)] := by
        simp only [List.mem_singleton, Key.hbmRmwCount]
        omega
      exact (onlyRegs_bump t _ 1 _ (List.mem_singleton_self _) k hne).trans ht
    exact (congrArg (fun x : State => x.reg k) e).trans hcount
  | reserve off => rw [State.busWrite, h]; rfl
  | store => rw [State.busWrite, h]; rfl
  | hub | unpopulated | remote => rw [State.busWrite, h]

theorem ctxState_ne_queueHead (d : Fin 4) (c q : Nat) : Key.ctxState d ≠ Key.queueHead c q := by
  have hd := d.isLt
  unfold Key.ctxState Key.queueHead
  omega

theorem cstate_postRecord (s : State) (c d : Fin 4) (r : Record) : (s.postRecord c r).cstate d = s.cstate d := by
  have hhead : Key.ctxState d ≠ Key.completionHead c := by simp only [Key.ctxState, Key.completionHead]; omega
  have hqueue := ctxState_ne_queueHead d c r.queue
  have hsub : Key.ctxState d % 256 ≠ 7 := by simp only [Key.ctxState]; omega
  unfold State.postRecord State.cstate
  dsimp only
  rw [reg_advanceCount_other _ _ _ hqueue, reg_advanceCount_other _ _ _ hhead]
  by_cases hbase : s.force (Key.completionBase c) = 0
  · rw [if_pos hbase]
  · rw [if_neg hbase]
    exact reg_busWrite_of_sub hsub s _ _

theorem cstate_flushRecords (c d : Fin 4) (n : Nat) (s : State) : (s.flushRecords c n).cstate d = s.cstate d := by
  induction n generalizing s with
  | zero => rfl
  | succ n ih =>
    unfold State.flushRecords
    split
    · rfl
    · split_ifs
      · rw [ih]; exact cstate_postRecord s c d _
      · rfl

theorem regs_releaseHeld (s : State) (fs : List Nat) : (s.releaseHeld fs).regs = s.regs := by
  unfold State.releaseHeld
  dsimp only
  split_ifs <;> rfl

theorem regs_ckptRelease (s : State) (items : List (Nat × Nat × Version)) : (s.ckptRelease items).regs = s.regs := by
  have h : (s.forEach items (fun s i => s.releaseHeld i.2.2.frames)).regs = s.regs :=
    forEach_induct (fun t => t.regs = s.regs) _ (fun t i ht => (regs_releaseHeld t i.2.2.frames).trans ht) items s rfl
  unfold State.ckptRelease
  dsimp only
  split_ifs <;> exact h

theorem cstate_ckptDrop (s : State) (status : Nat) (d : Fin 4) : (s.ckptDrop status).cstate d = s.cstate d := by
  have hne : ∀ d : Fin 4, Key.ctxState d ≠ Key.ckptState ∧ Key.ctxState d ≠ Key.ckptLastStatus := by decide
  unfold State.ckptDrop
  split
  · rfl
  · unfold State.cstate State.reg
    rw [regs_ckptRelease]
    exact (reg_setReg_other _ _ _ _ (hne d).2).trans (reg_setReg_other _ _ _ _ (hne d).1)

/-- What a teardown does before the context's state changes: its records are written as space allows, what the context governed
comes into force, and its checkpoint is abandoned. -/
def State.endTeardown (s : State) (c : Fin 4) : State :=
  let u := (s.flushRecords c (s.ctx c).records.length).applyCmt c
  if u.ckptCtx = c.val then u.ckptDrop 2 else u

theorem canonical_endTeardown (s : State) (c : Fin 4) (h : Canonical s) : Canonical (s.endTeardown c) := by
  have hu := (Keeps.refl s).flushRecords (n := (s.ctx c).records.length) (c := c) |>.applyCmt (c := c)
  exact (hu.ckptDrop.ite hu).canonical h

theorem cstate_endTeardown (s : State) (c d : Fin 4) : (s.endTeardown c).cstate d = s.cstate d := by
  have hu : ((s.flushRecords c (s.ctx c).records.length).applyCmt c).cstate d = s.cstate d := cstate_flushRecords c d _ s
  unfold State.endTeardown
  dsimp only
  split_ifs
  · exact (cstate_ckptDrop _ 2 d).trans hu
  · exact hu

/-- Settles O16: the state is set after `endTeardown`, which leaves every context's. -/
theorem teardownCompletesIntoFaultedOrAbsent : Obligations.TeardownCompletesIntoFaultedOrAbsent := by
  unfold Obligations.TeardownCompletesIntoFaultedOrAbsent
  intro s c code hs hteardown hstate
  have hexec : exec (.teardownComplete c) s = .next (((s.endTeardown c).setReg (Key.ctxState c)
      (if code = 0xFF then cxAbsent else cxFaulted)).modCtx c (fun x => { x with teardown := none })) := by
    change execTeardownComplete c s = _
    unfold execTeardownComplete
    rw [hteardown]
    exact congrArg Host.Outcome.next (if_neg (not_not_intro hstate))
  have hmod : ∀ c : Fin 4, dictModulus (Key.ctxState c) = 256 := by decide
  refine ⟨_, hexec, ?_, ?_, fun d hd => ?_⟩
  · have := reg_setReg_same (s.endTeardown c) (Key.ctxState c) (if code = 0xFF then cxAbsent else cxFaulted)
      (canonical_endTeardown s c hs)
    refine this.trans ?_
    rw [hmod]
    split_ifs <;> rfl
  · rw [ctx_modCtx_same]
  · have hne : Key.ctxState d ≠ Key.ctxState c := by
      have := Fin.val_ne_of_ne hd
      simp only [Key.ctxState]
      omega
    exact (reg_setReg_other _ _ _ _ hne).trans (cstate_endTeardown s c d)

/-! ### Fault events (R365, R367, R368) -/

theorem faultBit_lt (code : Nat) : faultBit code < 32 := by
  unfold faultBit
  split <;> decide

theorem seqLe_self (n : Nat) : seqLe n n = true := by
  unfold seqLe
  exact decide_eq_true (by omega)

/-- The sequence number that the next event takes (R367). -/
def State.nextEventSeq (s : State) : Nat := if s.reg Key.eventLogHead = 0xFFFFFFFF then 1 else s.reg Key.eventLogHead + 1

theorem nextEventSeq_lt {s : State} (h : s.reg Key.eventLogHead < 2 ^ 32) : s.nextEventSeq < 2 ^ 32 := by
  unfold State.nextEventSeq
  split_ifs <;> omega

/-- The record of an event (R367). -/
def State.eventOf (s : State) (code sev c src cmd entry value : Nat) : Event :=
  { seq := s.nextEventSeq, code := code, severity := sev, context := c, source := src, tick := s.tick, step := s.stepOf c,
    command := cmd, entry := entry * 256, value := value % 2 ^ 32 }

/-- A record without a pending mask is put before the log and takes the next number, and EVENT_LOST may count one it pushes out. -/
theorem logMask_none_cases (s : State) (code sev c src cmd entry value : Nat) :
    ∃ (r : State) (o : Outputs), s.logMask none code sev c src cmd entry value =
        { s with regs := r.regs, events := (s.eventOf code sev c src cmd entry value :: s.events).take 4096, out := o } ∧
      (r = s.setReg Key.eventLogHead s.nextEventSeq ∨ ∃ v, r = (s.setReg Key.eventLogHead s.nextEventSeq).setReg Key.eventLost v) := by
  obtain ⟨lost, o, h⟩ : ∃ (lost : Bool) (o : Outputs), s.logMask none code sev c src cmd entry value =
      (let w := State.setReg { s with events := (s.eventOf code sev c src cmd entry value :: s.events).take 4096 } Key.eventLogHead
        s.nextEventSeq
      { (if lost then w.bump Key.eventLost 1 else w) with out := o }) := ⟨_, _, rfl⟩
  rw [h]
  cases lost with
  | false => exact ⟨s.setReg Key.eventLogHead s.nextEventSeq, _, rfl, .inl rfl⟩
  | true =>
    obtain e | ⟨v, e⟩ := bump_cases (State.setReg { s with events := (s.eventOf code sev c src cmd entry value :: s.events).take 4096 }
      Key.eventLogHead s.nextEventSeq) Key.eventLost 1 <;> simp only [if_true, e]
    · exact ⟨s.setReg Key.eventLogHead s.nextEventSeq, _, rfl, .inl rfl⟩
    · exact ⟨(s.setReg Key.eventLogHead s.nextEventSeq).setReg Key.eventLost v, _, rfl, .inr ⟨v, rfl⟩⟩

theorem reg_logMask_head (s : State) (code sev c src cmd entry value : Nat) (hs : Canonical s) (hhead : s.reg Key.eventLogHead < 2 ^ 32) :
    (s.logMask none code sev c src cmd entry value).reg Key.eventLogHead = s.nextEventSeq := by
  obtain ⟨r, o, h, hr⟩ := logMask_none_cases s code sev c src cmd entry value
  have hset := reg_setReg_same s Key.eventLogHead s.nextEventSeq hs
  rw [show dictModulus Key.eventLogHead = 2 ^ 32 by decide, Nat.mod_eq_of_lt (nextEventSeq_lt hhead)] at hset
  rw [h]
  obtain rfl | ⟨v, rfl⟩ := hr
  · exact hset
  · exact (reg_setReg_other _ _ _ _ (by decide)).trans hset

/-- The pending bit of a fault event, with its number, follows the record itself. -/
theorem logCtx_of_clear (s : State) (c : Fin 4) (code sev src cmd entry value : Nat)
    (hbit : bit (s.reg (Key.ctxFaultPending c)) (faultBit code) = false) :
    ∃ o, s.logCtx c code sev src cmd entry value =
      { (s.logMask none code sev c src cmd entry value).setReg (Key.ctxFaultPending c)
          (s.reg (Key.ctxFaultPending c) + 2 ^ faultBit code) with
        out := o
        faultSeq := (c.val, faultBit code, s.nextEventSeq) :: s.faultSeq.filter (fun x => !(x.1 == c.val && x.2.1 == faultBit code)) } := by
  have hkey : maskKey c = Key.ctxFaultPending c := if_pos c.isLt
  have hreg : (s.logMask none code sev c src cmd entry value).reg (Key.ctxFaultPending c) = s.reg (Key.ctxFaultPending c) := by
    have hne : ∀ c : Fin 4, Key.ctxFaultPending c ∉ [Key.eventLogHead, Key.eventLost] := by decide
    exact logMask_regs s none code sev c src cmd entry value _ (hne c)
  have hseq : (s.logMask none code sev c src cmd entry value).faultSeq = s.faultSeq := by
    obtain ⟨r, o, h, -⟩ := logMask_none_cases s code sev c src cmd entry value
    rw [h]
  obtain ⟨u, o, hu, h⟩ : ∃ (u : State) (o : Outputs), u = { s.logMask none code sev c src cmd entry value with out := o } ∧
      s.logCtx c code sev src cmd entry value =
        (let v := if bit (u.reg (maskKey c)) (faultBit code) then u
          else u.setReg (maskKey c) (u.reg (maskKey c) + 2 ^ faultBit code)
        { v with faultSeq := (c.val, faultBit code, s.nextEventSeq) ::
                  v.faultSeq.filter (fun x => !(x.1 == c.val && x.2.1 == faultBit code)) }) := ⟨_, _, rfl, rfl⟩
  have hureg : u.reg (Key.ctxFaultPending c) = s.reg (Key.ctxFaultPending c) := by rw [hu]; exact hreg
  rw [hkey, hureg, if_neg (ne_true_of_eq_false hbit)] at h
  refine ⟨o, h.trans ?_⟩
  rw [hu, ← hseq]
  rfl

/-- Acknowledging the only number of a mask that stands for one set bit clears that bit and no other entry's. -/
theorem ackMask_only {t : State} {m b n : Nat} (hgone : t.faultSeq.filter (fun x => x.1 == m && seqLe x.2.2 n) = [(m, b, n)])
    (hbit : bit (t.reg (maskKey m)) b = true) :
    (t.ackMask m n).regs = (t.setReg (maskKey m) (t.reg (maskKey m) - 2 ^ b)).regs := by
  unfold State.ackMask
  dsimp only
  rw [hgone]
  exact congrArg State.regs (if_pos hbit)

/-- Settles O58: the record is `logMask`'s, and its number is the only one of the context that an acknowledgement then meets. -/
theorem faultEventsArePendingUntilAcknowledged : Obligations.FaultEventsArePendingUntilAcknowledged := by
  unfold Obligations.FaultEventsArePendingUntilAcknowledged
  intro s c code sev src cmd entry value hs hhead hpend hbit t n
  obtain ⟨o, ht⟩ := logCtx_of_clear s c code sev src cmd entry value hbit
  obtain ⟨r, o', hrecord, -⟩ := logMask_none_cases s code sev c src cmd entry value
  have hkey : maskKey c = Key.ctxFaultPending c := if_pos c.isLt
  have hmod : ∀ c : Fin 4, dictModulus (Key.ctxFaultPending c) = 2 ^ 32 ∧
      Key.ctxFaultPending c ∉ [Key.eventLogHead, Key.eventLost] := by decide
  obtain ⟨hmod, hne⟩ := hmod c
  have hlt := add_two_pow_lt hbit (faultBit_lt code) hpend
  have hregt : t.reg (Key.ctxFaultPending c) = s.reg (Key.ctxFaultPending c) + 2 ^ faultBit code := by
    have := reg_setReg_same _ (Key.ctxFaultPending c) (s.reg (Key.ctxFaultPending c) + 2 ^ faultBit code)
      (canonical_logMask s none code sev c src cmd entry value hs)
    rw [hmod, Nat.mod_eq_of_lt hlt] at this
    exact (congrArg (fun x : State => x.reg (Key.ctxFaultPending c)) ht).trans this
  have hcanon : Canonical t := canonical_logMask s (some c.val) code sev c src cmd entry value hs
  have hregs : OnlyRegs [Key.eventLogHead, Key.eventLost, Key.ctxFaultPending c] s t := by
    have := logMask_regs s (some c.val) code sev c src cmd entry value
    dsimp only at this
    rwa [hkey] at this
  have hstep : s.stepOf c = (s.ctx c).step % 2 ^ 32 := by
    unfold State.stepOf
    rw [show ctxIndex? c.val = some c from dif_pos c.isLt]
  have hevents : t.events.head? = some (s.eventOf code sev c src cmd entry value) := by
    have := congrArg State.events hrecord
    rw [show t.events = _ from (congrArg State.events ht).trans this]
    rfl
  refine ⟨⟨_, hevents, rfl, rfl, rfl, rfl, rfl, rfl, hstep, rfl, rfl, rfl⟩, ?_, hregt, hregs, ?_, ?_, fun hnone => ?_⟩
  · have hother : Key.eventLogHead ≠ Key.ctxFaultPending c := fun h => hne (h ▸ List.mem_cons_self)
    refine (congrArg (fun x : State => x.reg Key.eventLogHead) ht).trans ?_
    exact (reg_setReg_other _ _ _ _ hother).trans (reg_logMask_head s code sev c src cmd entry value hs hhead)
  · exact State.logCtx_ctxs ..
  · exact State.logCtx_mem ..
  · have hgone : t.faultSeq.filter (fun x => x.1 == c.val && seqLe x.2.2 n) = [(c.val, faultBit code, n)] := by
      have hrest : (s.faultSeq.filter (fun x => !(x.1 == c.val && x.2.1 == faultBit code))).filter
          (fun x => x.1 == c.val && seqLe x.2.2 n) = [] := by
        refine List.filter_eq_nil_iff.mpr fun x hx => ?_
        simp [hnone x (List.mem_of_mem_filter hx)]
      have hself : (c.val == c.val && seqLe n n) = true := Bool.and_eq_true_iff.mpr ⟨beq_self_eq_true c.val, seqLe_self n⟩
      rw [show t.faultSeq = (c.val, faultBit code, n) :: s.faultSeq.filter (fun x => !(x.1 == c.val && x.2.1 == faultBit code)) from
        congrArg State.faultSeq ht, List.filter_cons, if_pos hself, hrest]
    have hack := ackMask_only hgone (by rw [hkey, hregt]; exact bit_add_two_pow hbit)
    rw [hkey] at hack
    refine ⟨?_, ?_⟩
    · have := reg_setReg_same t (Key.ctxFaultPending c) (t.reg (Key.ctxFaultPending c) - 2 ^ faultBit code) hcanon
      have hback : t.reg (Key.ctxFaultPending c) - 2 ^ faultBit code = s.reg (Key.ctxFaultPending c) := by omega
      exact (congrArg (fun r => sparseGet r _ _) hack).trans (this.trans (by rw [hmod, hback, Nat.mod_eq_of_lt hpend]))
    · intro k hk
      exact (congrArg (fun r => sparseGet r _ _) hack).trans (onlyRegs_setReg t _ _ _ (List.mem_singleton_self _) k hk)

end Sys2Proof.Machine
end

section
/-! SUPPORT. The word accesses of the register window that write one scalar entry (R374, R375, R383) or half of a 64-bit entry
(R384, R385). -/
-- Elaborated in order: the whole text stays within the memory of one process only so.
set_option Elab.async false
namespace Sys2Proof.Machine
open Sys2Proof.Safety

/-! ### Words of the entry window -/

/-- The word address of an entry of the window: a good access outside the bulk aperture that names the entry. -/
theorem wordAddr_window {k : Nat} (hend : wordAddr k < 0xB00000) (hlo : 0x1000 ≤ k / 256) (hsub : k % 256 < 64) :
    addrKey (wordAddr k) = k ∧ badAccess (wordAddr k) = false ∧ inAperture (wordAddr k) = false ∧ inWindow (wordAddr k) = true := by
  unfold wordAddr at *
  refine ⟨?_, ?_, ?_, ?_⟩
  · unfold addrKey; omega
  · exact decide_eq_false (by omega)
  · exact decide_eq_false (by omega)
  · exact decide_eq_true (by omega)

theorem entry?_of_not_rom {s : State} (h : s.romStage = false) (k : Nat) : s.entry? k = dictEntry? k := if_neg (by simp [h])

section
variable {s : State} {k v : Nat} {e : DictEntry} (h : WindowOpen s) (hrom : s.romStage = false) (hentry : dictEntry? k = some e)
  (hend : wordAddr k < 0xB00000) (hlo : 0x1000 ≤ k / 256) (hsub : k % 256 < 64)
include h hrom hentry hend hlo hsub

/-- The word of a one-word scalar entry is written as that entry (R374). -/
theorem windowWrite_scalar (hscalar : e.type.scalar = true) (hword : e.type ≠ .u64) (hv : v < 2 ^ 32) :
    s.windowWrite (wordAddr k) v = (s.writeScalar false k v).2 := by
  obtain ⟨hkey, hgood, hap, hwin⟩ := wordAddr_window hend hlo hsub
  rw [windowWrite_of_open h hgood, Nat.mod_eq_of_lt hv]
  simp [State.writeWord, hap, hwin, hkey, entry?_of_not_rom hrom, hentry, hscalar, hword]

end

theorem writeScalar_of_ok {s : State} {k v : Nat} {e : DictEntry} (hentry : dictEntry? k = some e) (hok : s.checkScalar k v = stOk)
    (dxp : Bool) : s.writeScalar dxp k v = (stOk, s.applyScalar dxp k v e.access) := by
  simp [State.writeScalar, hok, hentry]

theorem writeScalar_of_refused {s : State} {k v : Nat} (hc : s.checkScalar k v ≠ stOk) (dxp : Bool) :
    s.writeScalar dxp k v = (s.checkScalar k v, s.refuse k (s.checkScalar k v)) := if_pos hc

/-! ### Refused writes (R375) -/

theorem sameButRegs_refuse (s : State) (k code : Nat) : SameButRegs s (s.refuse k code) :=
  sameButRegs_trans (sameButRegs_bump s _ 1) (sameButRegs_setReg _ _ _)

theorem onlyRegs_refuse (s : State) (k code : Nat) : OnlyRegs [Key.writeRefusedCount, Key.writeLastRefused] s (s.refuse k code) :=
  onlyRegs_trans (onlyRegs_bump s _ 1 _ List.mem_cons_self) (onlyRegs_setReg _ _ _ _ (List.mem_cons_of_mem _ List.mem_cons_self))

theorem reg_refuse_last (s : State) (k code : Nat) (hs : Canonical s) :
    (s.refuse k code).reg Key.writeLastRefused = (k * 256 + code) % 2 ^ 32 :=
  (reg_setReg_same _ _ _ (canonical_bump s _ 1 hs)).trans (congrArg _ (by decide))

theorem reg_refuse_count (s : State) (k code : Nat) (h : s.reg Key.writeRefusedCount + 1 < dictModulus Key.writeRefusedCount) :
    (s.refuse k code).reg Key.writeRefusedCount = s.reg Key.writeRefusedCount + 1 :=
  (reg_setReg_other _ _ _ _ (by decide)).trans (reg_bump_same s _ 1 one_ne_zero h (by decide))

/-- Settles O48: the word is a write of its entry (`windowWrite_scalar`), applied or refused by its check. -/
theorem windowWritesAreCheckedAndApplied : Obligations.WindowWritesAreCheckedAndApplied := by
  unfold Obligations.WindowWritesAreCheckedAndApplied
  intro s k v e h hs hrom hentry hend hlo hsub hscalar hword hv
  have hexec : exec (.registerWrite (wordAddr k) v) s = .next (s.writeScalar false k v).2 :=
    congrArg Host.Outcome.next (windowWrite_scalar h hrom hentry hend hlo hsub hscalar hword hv)
  refine ⟨fun hok => ?applied, fun hc => ⟨s.refuse k (s.checkScalar k v), ?refused, sameButRegs_refuse .., onlyRegs_refuse s k _,
    reg_refuse_last s k _ hs, reg_refuse_count s k _⟩, fun hro => ?readOnly⟩
  case applied => rw [hexec, writeScalar_of_ok hentry hok]
  case refused => rw [hexec, writeScalar_of_refused hc]
  case readOnly => simp [State.checkScalar, entry?_of_not_rom hrom, hentry, hro]

/-! ### Halves of 64-bit entries (R384, R385) -/

theorem windowOpen_refuse {s : State} (h : WindowOpen s) (k code : Nat) : WindowOpen (s.refuse k code) := by
  have hstate := onlyRegs_refuse s k code Key.moduleState (by decide)
  obtain ⟨R, e⟩ : ∃ R, s.refuse k code = { s with regs := R } := by
    unfold State.refuse
    obtain e | ⟨v, e⟩ := bump_cases s Key.writeRefusedCount 1 <;> rw [e] <;> exact ⟨_, rfl⟩
  unfold WindowOpen State.hostLink State.started State.mstate at *
  rw [hstate, e]
  exact h

theorem refuse_modAcc (s : State) (f : Access → Access) (k code : Nat) : (s.modAcc f).refuse k code = (s.refuse k code).modAcc f := by
  have hbump : (s.modAcc f).bump Key.writeRefusedCount 1 = (s.bump Key.writeRefusedCount 1).modAcc f := by
    unfold State.bump
    rw [State.reg_modAcc]
    split_ifs <;> rfl
  unfold State.refuse
  rw [hbump]
  rfl

section
variable {s : State} (h : WindowOpen s)
include h

/-- A low word held refuses its entry at the next access (R385). -/
theorem pf0_of_held (a lo : Nat) : (s.modAcc (fun x => { x with heldLow := some (a, lo) })).pf0 = s.refuse (addrKey a) stSize := by
  have hclear := modAcc_clear_of_open (windowOpen_refuse h (addrKey a) stSize)
  unfold State.pf0
  simp only [State.modAcc_acc, refuse_modAcc]
  exact hclear

theorem windowRead_of_open {a : Nat} (hgood : badAccess a = false) : s.windowRead a = s.readWord a := by
  have hpf0 := pf0_of_open h
  obtain ⟨hlink, hlatch, -⟩ := h
  simp [State.windowRead, hlink, hgood, hlatch, hpf0]

/-- An access that does not complete the write of a held low word is served after that write is refused (R385). -/
theorem windowRead_of_held {a : Nat} (b lo : Nat) (hgood : badAccess a = false) :
    (s.modAcc (fun x => { x with heldLow := some (b, lo) })).windowRead a = (s.refuse (addrKey b) stSize).windowRead a := by
  have hpf0 := pf0_of_held h b lo
  rw [windowRead_of_open (windowOpen_refuse h _ _) hgood]
  obtain ⟨hlink, hlatch, -⟩ := h
  have hlink' : (s.modAcc (fun x => { x with heldLow := some (b, lo) })).hostLink = true := hlink
  simp [State.windowRead, hlink', hgood, hlatch, hpf0]

theorem windowWrite_of_held {a v : Nat} (b lo : Nat) (hgood : badAccess a = false) (hne : a ≠ b + 4) :
    (s.modAcc (fun x => { x with heldLow := some (b, lo) })).windowWrite a v = (s.refuse (addrKey b) stSize).windowWrite a v := by
  have hpf0 := pf0_of_held h b lo
  rw [windowWrite_of_open (windowOpen_refuse h _ _) hgood]
  obtain ⟨hlink, -, -⟩ := h
  have hlink' : (s.modAcc (fun x => { x with heldLow := some (b, lo) })).hostLink = true := hlink
  simp [State.windowWrite, hlink', hgood, hne, hpf0]

end

/-- A read that the latch answers gives the latched word and leaves the window open (R384). -/
theorem windowRead_of_latched {s : State} {a w : Nat} (hlink : s.hostLink = true) (hgood : badAccess a = false)
    (hlatch : s.acc.latch = some (a, w)) (hheld : s.acc.heldLow = none) :
    s.windowRead a = (s.modAcc (fun x => { x with latch := none, heldLow := none })).toHost (.word a w) := by
  simp [State.windowRead, hlink, hgood, hlatch, State.pf0, hheld]

theorem noteRead_acc (s : State) (k : Nat) : (s.noteRead k).acc = s.acc ∧ (s.noteRead k).out = s.out := by
  unfold State.noteRead State.gcLatch
  split_ifs <;> exact ⟨rfl, rfl⟩

/-- The low word of a 64-bit entry answers its low half and latches its high half (R384). -/
theorem readWord_low {s : State} {k : Nat} {e : DictEntry} (hrom : s.romStage = false) (hentry : dictEntry? k = some e)
    (hwide : e.type = .u64) (hend : wordAddr k < 0xB00000) (hlo : 0x1000 ≤ k / 256) (hsub : k % 256 < 64) :
    s.readWord (wordAddr k) =
      ((s.modAcc (fun x => { x with latch := some (wordAddr k + 4, s.readScalar k e / 2 ^ 32) })).noteRead k).toHost
        (.word (wordAddr k) (s.readScalar k e % 2 ^ 32)) := by
  obtain ⟨hkey, -, hap, hwin⟩ := wordAddr_window hend hlo hsub
  have hscalar : DictType.u64.scalar = true := rfl
  simp [State.readWord, hap, hwin, hkey, entry?_of_not_rom hrom, hentry, hscalar, hwide]

/-- The low word of a 64-bit entry is held back (R385). -/
theorem writeWord_low {s : State} {k lo : Nat} {e : DictEntry} (hrom : s.romStage = false) (hentry : dictEntry? k = some e)
    (hwide : e.type = .u64) (hend : wordAddr k < 0xB00000) (hlo : 0x1000 ≤ k / 256) (hsub : k % 256 < 64) :
    s.writeWord (wordAddr k) lo = s.modAcc (fun x => { x with heldLow := some (wordAddr k, lo) }) := by
  obtain ⟨hkey, -, hap, hwin⟩ := wordAddr_window hend hlo hsub
  have hscalar : DictType.u64.scalar = true := rfl
  simp [State.writeWord, hap, hwin, hkey, entry?_of_not_rom hrom, hentry, hscalar, hwide]

theorem wordAddr_succ {k : Nat} (hsub : k % 256 < 255) : wordAddr k + 4 = wordAddr (k + 1) := by
  unfold wordAddr
  omega

theorem highOf_of_low {s : State} {k : Nat} {e : DictEntry} (hrom : s.romStage = false) (hentry : dictEntry? (k - 1) = some e)
    (hwide : e.type = .u64) (hsub : k % 256 ≠ 0) : s.highOf k = some e := by
  unfold State.highOf
  rw [if_neg hsub, entry?_of_not_rom hrom, hentry]
  exact if_pos hwide

/-- A word that no entry has, but that carries the high word of the entry before it, is refused with SIZE (R385). -/
theorem writeWord_high {s : State} {a k v : Nat} {e : DictEntry} (hrom : s.romStage = false) (hnone : dictEntry? k = none)
    (hhigh : s.highOf k = some e) (hkey : addrKey a = k) (hap : inAperture a = false) (hwin : inWindow a = true) :
    s.writeWord a v = s.refuse (k - 1) stSize := by
  have hentry : (if k = Key.compatLevel then dictEntry? k else s.entry? k) = none := by
    rw [entry?_of_not_rom hrom, ite_self, hnone]
  unfold State.writeWord
  rw [if_neg (ne_true_of_eq_false hap), if_neg (by rw [hwin]; decide)]
  dsimp only
  rw [hkey, hentry]
  dsimp only
  rw [hhigh]

/-- Settles O49: the low word latches or is held, the next access completes the entry, and any other access refuses what is held. -/
theorem halvesOfWideEntriesAreOneAccess : Obligations.HalvesOfWideEntriesAreOneAccess := by
  unfold Obligations.HalvesOfWideEntriesAreOneAccess
  intro s k lo hi e h hrom hentry hwide hlo hend hpos hsub hlo32 hhi32
  have hend' : wordAddr k < 0xB00000 := by omega
  obtain ⟨hkey, hgood, -, -⟩ := wordAddr_window hend' hlo (by omega)
  have hgood' : badAccess (wordAddr k + 4) = false := by unfold wordAddr at *; exact decide_eq_false (by omega)
  refine ⟨⟨_, rfl, ?_⟩, ⟨_, rfl, ?_⟩, fun hnone => ?_⟩
  · rw [windowRead_of_open h hgood, readWord_low hrom hentry hwide hend' hlo (by omega)]
    obtain ⟨hacc, hout⟩ := noteRead_acc (s.modAcc (fun x => { x with latch := some (wordAddr k + 4, s.readScalar k e / 2 ^ 32) })) k
    refine ⟨congrArg (fun o : Outputs => o.host ++ [_]) hout, fun u hlink hu => ⟨_, rfl, ?_⟩⟩
    have hu' : u.acc = { s.acc with latch := some (wordAddr k + 4, s.readScalar k e / 2 ^ 32) } := hu.trans hacc
    rw [windowRead_of_latched hlink hgood' (by rw [hu']) (by rw [hu']; exact h.2.2)]
    exact ⟨rfl, ⟨hlink, rfl, rfl⟩, rfl⟩
  · rw [windowWrite_of_open h hgood, Nat.mod_eq_of_lt hlo32, writeWord_low hrom hentry hwide hend' hlo (by omega)]
    refine ⟨rfl, rfl, ?_, fun a v hgood'' => ⟨?_, fun hne => ?_⟩⟩
    · refine congrArg Host.Outcome.next ((windowWrite_high h hgood').trans ?_)
      rw [hkey, Nat.mod_eq_of_lt hhi32]
    · have hread := windowRead_of_held h (wordAddr k) lo hgood''
      rw [hkey] at hread
      exact congrArg Host.Outcome.next hread
    · have hwrite := windowWrite_of_held h (v := v) (wordAddr k) lo hgood'' hne
      rw [hkey] at hwrite
      exact congrArg Host.Outcome.next hwrite
  · refine congrArg Host.Outcome.next ?_
    rw [windowWrite_of_open h hgood']
    rw [wordAddr_succ (by omega)] at hend ⊢
    obtain ⟨hkey', -, hap', hwin'⟩ := wordAddr_window hend (by omega) (by omega)
    have hhigh : s.highOf (k + 1) = some e := highOf_of_low hrom (by rwa [Nat.add_sub_cancel]) hwide (by omega)
    rw [writeWord_high hrom hnone hhigh hkey' hap' hwin', Nat.add_sub_cancel]

end Sys2Proof.Machine
end

section
/-! SUPPORT. The bulk aperture (R387): its staging copy word by word, and the whole of a selection, its words and its commit. -/
-- Elaborated in order: the whole text stays within the memory of one process only so.
set_option Elab.async false
namespace Sys2Proof.Machine
open Sys2Proof.Safety

/-! ### Bytes of words -/

theorem leNat_lt (l : List Byte) : leNat l < 256 ^ l.length := by
  induction l with
  | nil => decide
  | cons b l ih =>
    have hb : b.toNat < 256 := b.isLt
    rw [leNat, List.length_cons, pow_succ]
    omega

/-- Byte `j` of a value made from bytes is byte `j` of those. -/
theorem ofNat_leNat_div (l : List Byte) (j : Nat) : BitVec.ofNat 8 (leNat l / 256 ^ j) = l.getD j 0 := by
  induction l generalizing j with
  | nil => simp [leNat]
  | cons b l ih =>
    have hb : b.toNat < 256 := b.isLt
    cases j with
    | zero =>
      apply BitVec.eq_of_toNat_eq
      simp only [leNat, pow_zero, Nat.div_one, BitVec.toNat_ofNat, List.getD_cons_zero]
      omega
    | succ j =>
      have hdiv : (b.toNat + 256 * leNat l) / 256 ^ (j + 1) = leNat l / 256 ^ j := by
        rw [pow_succ', ← Nat.div_div_eq_div_mul]
        congr 1
        omega
      rw [leNat, hdiv, ih, List.getD_cons_succ]

theorem getD_leBytes {n j : Nat} (v : Nat) (h : j < n) : (leBytes n v).getD j 0 = BitVec.ofNat 8 (v / 256 ^ j) := by
  induction n generalizing v j with
  | zero => omega
  | succ n ih =>
    cases j with
    | zero => simp [leBytes]
    | succ j =>
      rw [leBytes, List.getD_cons_succ, ih _ (by omega), pow_succ', Nat.div_div_eq_div_mul]

/-! ### The staging copy (R387) -/

/-- A staging copy after a word is written at an offset. -/
def stageBytes (off v : Nat) (l : List Byte) : List Byte :=
  ((List.range l.length).zip l).map (fun x => if off ≤ x.1 ∧ x.1 < off + 4 then BitVec.ofNat 8 (v / 256 ^ (x.1 - off)) else x.2)

@[simp] theorem stageBytes_length (off v : Nat) (l : List Byte) : (stageBytes off v l).length = l.length := by simp [stageBytes]

theorem getElem_stageBytes {off v i : Nat} {l : List Byte} (h : i < (stageBytes off v l).length) :
    (stageBytes off v l)[i] =
      if off ≤ i ∧ i < off + 4 then BitVec.ofNat 8 (v / 256 ^ (i - off)) else l[i]'(by simpa using h) := by
  simp [stageBytes]

/-- A word of the value in its place extends the part of the staging copy that has been written. -/
theorem stageBytes_word {bs l : List Byte} (hl : l.length = bs.length) (n : Nat) :
    stageBytes (4 * n) (leNat ((bs.drop (4 * n)).take 4)) (bs.take (4 * n) ++ l.drop (4 * n)) =
      bs.take (4 * (n + 1)) ++ l.drop (4 * (n + 1)) := by
  apply List.ext_getElem
  · simp; omega
  · intro i h h'
    rw [getElem_stageBytes, ofNat_leNat_div]
    have hi : i < bs.length := by
      simp [hl] at h'
      omega
    by_cases hword : 4 * n ≤ i ∧ i < 4 * n + 4
    · have hsum : 4 * n + (i - 4 * n) = i := by omega
      rw [if_pos hword, List.getElem_append_left (by simp; omega), List.getElem_take, List.getD_eq_getElem _ _ (by simp; omega)]
      simp [hsum]
    · rw [if_neg hword]
      by_cases hlow : i < 4 * n
      · rw [List.getElem_append_left (by simp; omega), List.getElem_append_left (by simp; omega), List.getElem_take, List.getElem_take]
      · rw [List.getElem_append_right (by simp; omega), List.getElem_append_right (by simp; omega), List.getElem_drop, List.getElem_drop]
        congr 1
        simp
        omega

theorem stageWrite_of_selected {s : State} {b : Bulk} (h : s.acc.bulk = some b) (off v : Nat) :
    s.stageWrite off v = s.modAcc (fun a => { a with bulk := some { b with staging := stageBytes off v b.staging } }) := by
  unfold State.stageWrite State.modAcc
  dsimp only
  rw [h]
  rfl

/-- A write through the aperture of an open window goes to the staging copy. -/
theorem windowWrite_aperture {s : State} {off v : Nat} (h : WindowOpen s) (halign : off % 4 = 0) (hoff : off < 0x100000)
    (hv : v < 2 ^ 32) : s.windowWrite (0xC00000 + off) v = s.stageWrite off v := by
  have hgood : badAccess (0xC00000 + off) = false := decide_eq_false (by omega)
  have hap : inAperture (0xC00000 + off) = true := decide_eq_true (by omega)
  rw [windowWrite_of_open h hgood, Nat.mod_eq_of_lt hv]
  refine (if_pos hap).trans ?_
  rw [Nat.add_sub_cancel_left]

/-- The words of a value up to one that lies in the aperture are staged in their places. -/
theorem stage_words {s : State} {k : Nat} {snap l bs : List Byte} (h : WindowOpen s) (hsel : s.acc.bulk = some ⟨k, snap, l⟩)
    (hl : l.length = bs.length) (hbs : bs.length ≤ 0x100000) (n : Nat) (hn : 4 * n ≤ bs.length + 3) :
    s.forEach (List.range n) (fun s i => s.windowWrite (0xC00000 + 4 * i) (leNat ((bs.drop (4 * i)).take 4))) =
      s.modAcc (fun a => { a with bulk := some ⟨k, snap, bs.take (4 * n) ++ l.drop (4 * n)⟩ }) := by
  induction n with
  | zero =>
    unfold State.modAcc
    simp only [Nat.mul_zero, List.take_zero, List.drop_zero, List.nil_append, ← hsel]
    rfl
  | succ n ih =>
    have hlt : leNat ((bs.drop (4 * n)).take 4) < 2 ^ 32 :=
      (leNat_lt _).trans_le (Nat.pow_le_pow_right (n := 256) (by decide) (List.length_take_le 4 _))
    have hopen : WindowOpen (s.modAcc (fun a => { a with bulk := some ⟨k, snap, bs.take (4 * n) ++ l.drop (4 * n)⟩ })) := h
    unfold State.forEach at ih ⊢
    rw [List.range_succ, List.foldl_append, ih (by omega), List.foldl_cons, List.foldl_nil,
      windowWrite_aperture hopen (by omega) (by omega) hlt, stageWrite_of_selected rfl]
    dsimp only
    rw [stageBytes_word hl]
    rfl

/-! ### Selection and commit (R387) -/

theorem padTo_length (n : Nat) (d : Byte) (l : List Byte) : (padTo n d l).length = n := by
  simp [padTo]

theorem readBytes_length {s : State} {k : Nat} {e : DictEntry} (h : e.type.scalar = false) : (s.readBytes k e).length = e.bytes := by
  unfold State.readBytes
  rw [if_neg (ne_true_of_eq_false h)]
  split_ifs
  · exact List.length_replicate
  · split
    · exact padTo_length ..
    · simp [State.bulkBytes]

section
variable {s : State} (hs : RegistersOpen s)
include hs

theorem hostPut_bulkSelect {v : Nat} (hv : v < 2 ^ 32) : s.hostPut Key.bulkSelect v = s.selectBulk v :=
  (hostPut_of_plain hs (e := ⟨0x1F20, 0x1F20, 0x01, 0x01, .u32, 4, .rw, .val 0, 0, 4294967295⟩) (by decide)
    ⟨Nat.zero_le v, Nat.le_of_lt_succ hv⟩).trans rfl

theorem hostPut_bulkCommit : s.hostPut Key.bulkCommit 1 = s.bulkCommit := by
  rw [hostPut_of_plain hs (e := ⟨0x1F20, 0x1F20, 0x02, 0x02, .u8, 1, .wo, .val 0, 1, 1⟩) (by decide) (by decide)]
  unfold State.applyScalar State.applyAction
  iterate 14 rw [if_neg (by decide)]
  rw [if_pos rfl]

theorem registersOpen_selectBulk (v : Nat) : RegistersOpen (s.selectBulk v) := by
  have hstate : (s.selectBulk v).mstate = s.mstate := reg_setReg_other s Key.bulkSelect v Key.moduleState (by decide)
  obtain ⟨⟨hlink, hlatch, hheld⟩, hstarted, hm⟩ := hs
  refine ⟨⟨?_, hlatch, hheld⟩, hstarted, hstate ▸ hm⟩
  unfold State.hostLink at hlink ⊢
  rw [hstate]
  exact hlink

/-- A selection copies the whole value (R387). -/
theorem selectBulk_bulk {k : Nat} {e : DictEntry} (hentry : dictEntry? k = some e) (hbulk : e.type.scalar = false) :
    (s.selectBulk (k * 256)).acc.bulk = some ⟨k, s.readBytes k e, s.readBytes k e⟩ := by
  have hkey : k * 256 / 256 = k := Nat.mul_div_cancel k (by decide)
  unfold State.selectBulk
  simp [hkey, entry?_of_open hs, hentry, hbulk]

/-- What a commit does with a selected entry (R387). -/
theorem bulkCommit_of_selected {b : Bulk} {e : DictEntry} (hsel : s.acc.bulk = some b) (hentry : dictEntry? b.key = some e) :
    s.bulkCommit =
      let c := s.checkBulk b.key b.staging
      let c := if c = stOk ∧ s.readBytes b.key e ≠ b.snapshot then stChanged else c
      if c ≠ stOk then (s.refuse b.key c).setReg Key.bulkStatus c
      else (s.applyBulk b.key e b.staging).setReg Key.bulkStatus stOk := by
  unfold State.bulkCommit
  rw [hsel]
  dsimp only
  rw [entry?_of_open hs, hentry]

theorem bulkCommit_of_accepted {b : Bulk} {e : DictEntry} (hsel : s.acc.bulk = some b) (hentry : dictEntry? b.key = some e)
    (hok : s.checkBulk b.key b.staging = stOk) (hsame : s.readBytes b.key e = b.snapshot) :
    s.bulkCommit = (s.applyBulk b.key e b.staging).setReg Key.bulkStatus stOk := by
  rw [bulkCommit_of_selected hs hsel hentry]
  simp [hok, hsame]

/-- A whole value, selected, staged and committed, is applied once where its selection leaves the entry as it was (R387). -/
theorem hostPutBulk_of_accepted {k : Nat} {e : DictEntry} {bs : List Byte} (hk : k < 2 ^ 24) (hentry : dictEntry? k = some e)
    (hbulk : e.type.scalar = false) (hlen : bs.length = e.bytes) (hmax : e.bytes ≤ 0x100000) {u : State}
    (hu : u = (s.selectBulk (k * 256)).modAcc (fun a => { a with bulk := some ⟨k, s.readBytes k e, bs⟩ }))
    (hok : u.checkBulk k bs = stOk) (hsame : u.readBytes k e = s.readBytes k e) :
    s.hostPutBulk k bs = (u.applyBulk k e bs).setReg Key.bulkStatus stOk := by
  have hopen := registersOpen_selectBulk hs (k * 256)
  have hsel := selectBulk_bulk hs hentry hbulk
  have hrange : (bs.length + 3) / 4 * 4 ≤ bs.length + 3 := Nat.div_mul_le_self _ 4
  have hwords := stage_words hopen.1 hsel (bs := bs) ((readBytes_length hbulk).trans hlen.symm) (by omega) ((bs.length + 3) / 4)
    (by omega)
  have hall : bs.take (4 * ((bs.length + 3) / 4)) ++ (s.readBytes k e).drop (4 * ((bs.length + 3) / 4)) = bs := by
    rw [List.take_of_length_le (by omega), List.drop_of_length_le (by rw [readBytes_length hbulk]; omega), List.append_nil]
  have huopen : RegistersOpen u := hu ▸ hopen
  unfold State.hostPutBulk
  rw [hostPut_bulkSelect hs (by omega)]
  dsimp only
  rw [hwords, hall, ← hu, hostPut_bulkCommit huopen]
  exact bulkCommit_of_accepted huopen (b := ⟨k, s.readBytes k e, bs⟩) (hu ▸ rfl) hentry hok hsame

end

/-- Settles O50: the select, the words and the commit are each one access, and a whole value is staged word by word (`stage_words`). -/
theorem bulkValuesAreSelectedStagedAndCommitted : Obligations.BulkValuesAreSelectedStagedAndCommitted := by
  unfold Obligations.BulkValuesAreSelectedStagedAndCommitted
  intro s k off v e p tags bs hs
  refine ⟨fun hk hentry hbulk => ⟨?_, selectBulk_bulk hs hentry hbulk⟩, fun b hsel halign hoff hv => ?_, ?_, fun hnone => ?_,
    fun b hsel hentry => ⟨?_, fun hok hne => ?_, fun hc => ?_⟩, rfl, rfl, rfl, ?_⟩
  · exact congrArg Host.Outcome.next (hostPut_bulkSelect hs (by omega))
  · refine ⟨_, stageBytes off v b.staging, congrArg Host.Outcome.next ((windowWrite_aperture hs.1 halign hoff hv).trans
      (stageWrite_of_selected hsel off v)), rfl, stageBytes_length .., fun i hi => ?_, rfl⟩
    have hi' : i < b.staging.length := by simpa using hi
    rw [List.getD_eq_getElem _ _ hi, getElem_stageBytes, List.getD_eq_getElem _ _ hi']
    split
    · next hin => rw [getD_leBytes v (by omega)]
    · rfl
  · exact congrArg Host.Outcome.next (hostPut_bulkCommit hs)
  · unfold State.bulkCommit
    rw [hnone]
  · exact bulkCommit_of_accepted hs hsel hentry
  · rw [bulkCommit_of_selected hs hsel hentry]
    simp [hok, hne]
  · rw [bulkCommit_of_selected hs hsel hentry]
    simp [hc]
  · intro hk hentry hbulk hlen hmax u hok hsame
    exact hostPutBulk_of_accepted hs hk hentry hbulk hlen hmax rfl hok hsame

/-! ### Transitions between CONFIG and RUN (R378 to R380) -/

section
variable {s : State} (hs : RegistersOpen s)
include hs

theorem hostPut_stateRequest {v : Nat} (hv : 1 ≤ v ∧ v ≤ 2) : s.hostPut Key.stateRequest v = s.stateRequest v := by
  rw [hostPut_of_plain hs (e := ⟨0x1F10, 0x1F10, 0x02, 0x02, .u8, 1, .wo, .val 0, 1, 2⟩) (by decide) hv]
  unfold State.applyScalar State.applyAction
  iterate 13 rw [if_neg (by decide)]
  rw [if_pos rfl]

theorem stateCode_run : s.stateCode 2 = if s.reg Key.configCrcState ≠ crcMatch then 2 else if s.mstate = stRun then 5 else 0 := by
  have hsafe : s.mstate ≠ stSafe := by obtain ⟨-, -, h | h⟩ := hs <;> simp [h]
  unfold State.stateCode
  rw [if_neg (by omega), if_neg (c := 2 = 1 ∧ _) (by omega), if_neg hsafe]
  simp

theorem stateCode_config : s.stateCode 1 =
    if s.anyResident then 1
    else if s.loading.isSome ∨ s.ckpt.run.isSome ∨ s.ckpt.xfer.isSome ∨ s.ckpt.restore.isSome then 3
    else if s.mstate = stConfig then 5 else 0 := by
  have hsafe : s.mstate ≠ stSafe := by obtain ⟨-, -, h | h⟩ := hs <;> simp [h]
  unfold State.stateCode
  rw [if_neg (c := 1 = 2 ∧ _) (by omega), if_neg hsafe]
  simp

end

/-- A request refused changes `STATE_STATUS` alone, to its code (R378). -/
theorem stateRequest_of_refused {s : State} {v code : Nat} (hs : Canonical s) (hcode : s.stateCode v = code) (hpos : 0 < code)
    (hlt : code < 256) :
    (s.stateRequest v).reg Key.stateStatus = code ∧ OnlyRegs [Key.stateStatus] s (s.stateRequest v) ∧
      SameButRegs s (s.stateRequest v) := by
  have h : s.stateRequest v = s.setReg Key.stateStatus code := by
    unfold State.stateRequest
    rw [hcode]
    exact if_pos (Nat.ne_of_gt hpos)
  have hmod : dictModulus Key.stateStatus = 256 := by decide
  rw [h]
  refine ⟨?_, onlyRegs_setReg _ _ _ _ (List.mem_singleton_self _), sameButRegs_setReg _ _ _⟩
  rw [reg_setReg_same _ _ _ hs, hmod, Nat.mod_eq_of_lt hlt]

/-- Settles O53: the code of the request is the lowest that applies (`stateCode_run`, `stateCode_config`). -/
theorem stateRequestsMoveBetweenConfigAndRun : Obligations.StateRequestsMoveBetweenConfigAndRun := by
  unfold Obligations.StateRequestsMoveBetweenConfigAndRun
  intro s hs hcanon busy refused
  have hrun : exec .stateRequestRun s = .next (s.stateRequest 2) := congrArg Host.Outcome.next (hostPut_stateRequest hs (by decide))
  have hconfig : exec .stateRequestConfig s = .next (s.stateRequest 1) := congrArg Host.Outcome.next (hostPut_stateRequest hs (by decide))
  have hbusy : (s.loading.isSome = true ∨ s.ckpt.run.isSome = true ∨ s.ckpt.xfer.isSome = true ∨ s.ckpt.restore.isSome = true) ↔
      busy = true := by
    simp only [busy, Bool.or_eq_true, or_assoc]
  have hcodeRun := stateCode_run hs
  have hcodeConfig := stateCode_config hs
  rw [hrun, hconfig]
  refine ⟨fun hm hmatch => ?_, fun hne => ⟨_, rfl, stateRequest_of_refused hcanon ?_ (by decide) (by decide)⟩,
    fun hmatch hm => ⟨_, rfl, stateRequest_of_refused hcanon ?_ (by decide) (by decide)⟩,
    fun hres => ⟨_, rfl, stateRequest_of_refused hcanon ?_ (by decide) (by decide)⟩,
    fun hres hb => ⟨_, rfl, stateRequest_of_refused hcanon ?_ (by decide) (by decide)⟩,
    fun hres hb hm => ⟨_, rfl, stateRequest_of_refused hcanon ?_ (by decide) (by decide)⟩, fun hres hb hm => ?_⟩
  · have hcode : s.stateCode 2 = 0 := by rw [hcodeRun, hm]; simp [hmatch]
    simp [State.stateRequest, hcode]
  · rw [hcodeRun, if_pos hne]
  · rw [hcodeRun, if_neg (not_not_intro hmatch), if_pos hm]
  · rw [hcodeConfig, if_pos hres]
  · rw [hcodeConfig, if_neg (ne_true_of_eq_false hres), if_pos (hbusy.mpr hb)]
  · rw [hcodeConfig, if_neg (ne_true_of_eq_false hres), if_neg (by rw [hbusy, hb]; decide), if_pos hm]
  · have hcode : s.stateCode 1 = 0 := by
      rw [hcodeConfig, if_neg (ne_true_of_eq_false hres), if_neg (by rw [hbusy, hb]; decide), hm]
      decide
    have h : s.stateRequest 1 = (s.setReg Key.stateStatus 0).setReg Key.moduleState stConfig := by
      simp [State.stateRequest, hcode]
    refine ⟨_, rfl, ?_⟩
    rw [h]
    refine ⟨?_, ?_, ?_, rfl⟩
    · exact (reg_setReg_same _ _ _ (canonical_setReg _ _ _ hcanon)).trans (by decide)
    · exact (reg_setReg_other _ _ _ _ (by decide)).trans ((reg_setReg_same _ _ _ hcanon).trans (by decide))
    · exact onlyRegs_trans (onlyRegs_setReg _ _ _ _ List.mem_cons_self)
        (onlyRegs_setReg _ _ _ _ (List.mem_cons_of_mem _ List.mem_cons_self))

end Sys2Proof.Machine
end

section
/-! SUPPORT. The exchange protocol (R392 to R397): the number of a new session, and what a datagram served, refused or repeated does. -/
-- Elaborated in order: the whole text stays within the memory of one process only so.
set_option Elab.async false
namespace Sys2Proof.Machine
open Sys2Proof.Safety

/-! ### The number of a new session -/

/-- One step of the search for an unused number. -/
def skipUsed (x u : Nat) : Nat := if u ≤ x then x + 1 else x

theorem le_foldl_skipUsed (l : List Nat) (x : Nat) : x ≤ l.foldl skipUsed x := by
  induction l generalizing x with
  | nil => exact le_rfl
  | cons u l ih =>
    refine le_trans ?_ (ih (skipUsed x u))
    unfold skipUsed
    split_ifs <;> omega

theorem foldl_skipUsed_of_lt {l : List Nat} {x : Nat} (h : ∀ u ∈ l, x < u) : l.foldl skipUsed x = x := by
  induction l with
  | nil => rfl
  | cons u l ih =>
    have hu : skipUsed x u = x := if_neg (Nat.not_le.mpr (h u List.mem_cons_self))
    rw [List.foldl_cons, hu]
    exact ih fun v hv => h v (List.mem_cons_of_mem u hv)

/-- Skipping the used numbers in ascending order ends at none of them. -/
theorem foldl_skipUsed_not_mem {l : List Nat} (hl : l.Pairwise (· ≤ ·)) (x : Nat) : l.foldl skipUsed x ∉ l := by
  induction l generalizing x with
  | nil => exact List.not_mem_nil
  | cons u l ih =>
    obtain ⟨hu, hl⟩ := List.pairwise_cons.mp hl
    rw [List.mem_cons, not_or]
    by_cases hle : u ≤ x
    · have hskip : skipUsed x u = x + 1 := if_pos hle
      rw [List.foldl_cons, hskip]
      have := le_foldl_skipUsed l (x + 1)
      exact ⟨by omega, ih hl (x + 1)⟩
    · have hlt : ∀ v ∈ u :: l, x < v := List.forall_mem_cons.mpr ⟨by omega, fun v hv => by have := hu v hv; omega⟩
      have hx := foldl_skipUsed_of_lt hlt
      refine ⟨by rw [hx]; omega, ?_⟩
      rw [hx]
      exact fun hmem => absurd (hlt x (List.mem_cons_of_mem u hmem)) (lt_irrefl x)

theorem unusedNumber_pos (used : List Nat) (n : Nat) : 0 < unusedNumber used n :=
  lt_of_lt_of_le (Nat.succ_pos n) (le_foldl_skipUsed _ (n + 1))

theorem unusedNumber_not_mem (used : List Nat) (n : Nat) : unusedNumber used n ∉ used := by
  have hsorted := sortBy_pairwise (le := fun a b : Nat => decide (a ≤ b)) (l := used)
    (fun a b c h h' => decide_eq_true ((of_decide_eq_true h).trans (of_decide_eq_true h')))
    (List.pairwise_of_forall fun a b => (le_total a b).imp decide_eq_true decide_eq_true)
  have hnot := foldl_skipUsed_not_mem (hsorted.imp of_decide_eq_true) (n + 1)
  exact fun hmem => hnot ((sortBy_perm used).mem_iff.mpr hmem)

/-! ### Datagrams (R392 to R394) -/

/-- The six request rows answer one state. -/
def State.RequestsAnswer (s : State) (d : Dgram) (u : State) : Prop :=
  exec (.dxpRead d) s = .next u ∧ exec (.quoteRead d) s = .next u ∧ exec (.dxpWrite d) s = .next u ∧
    exec (.dxpDescribe d) s = .next u ∧ exec (.dxpClose d) s = .next u ∧ exec (.dxpKeepalive d) s = .next u

/-- The request rows are `dxpRequest` of their kind. -/
theorem requestsAnswer_of_all {s : State} {d : Dgram} {u : State} (h : ∀ k, s.dxpRequest k d = u) : s.RequestsAnswer d u :=
  ⟨congrArg _ (h .read), congrArg _ (h .read), congrArg _ (h .write), congrArg _ (h .describe), congrArg _ (h .close),
    congrArg _ (h .keepalive)⟩

section
variable {s : State} {d : Dgram} (hserved : s.dxpServed d = true)
include hserved

theorem dxpRequest_refused (h : d.good = false ∨ datagramMax < requestSize d ∨ s.dxpAdmits d.src = false) (k : DxpKind) :
    s.dxpRequest k d = s.bump Key.dxpRefusedCount 1 := by
  unfold State.dxpRequest
  rw [hserved, if_neg (by decide), if_pos]
  simpa using h

variable (hgood : d.good = true) (hadmit : s.dxpAdmits d.src = true) (hsize : requestSize d ≤ datagramMax)
include hgood hadmit hsize

theorem dxpRequest_sound (k : DxpKind) : s.dxpRequest k d =
    if d.version / 256 ≠ s.reg Key.dxpVersion / 256 then
      s.sendDxp d (mkResponse d stVersion (d.ops.map (fun o => opFail o stVersion)))
    else s.dxpServe k d := by
  have hno : ¬ ((!d.good) = true ∨ datagramMax < requestSize d ∨ (!s.dxpAdmits d.src) = true) := by
    rw [hgood, hadmit]
    simp only [Bool.not_true, Bool.false_eq_true, false_or, or_false]
    omega
  unfold State.dxpRequest
  rw [hserved, if_neg (by decide), if_neg hno]

end

/-- A request that a session awaits is run once, and its answer kept and sent (R393). -/
def State.serveNext (s : State) (d : Dgram) (x : Session) (k : DxpKind) : State :=
  let u := s.modSession x.number (fun y => { y with idleSince := s.now })
  let r := u.dxpRun k x d
  let a := mkResponse d (responseStatus r.1) r.1
  (r.2.modSession x.number (fun y => { y with seq := d.seq, last := some a })).sendDxp d a

theorem dxpServe_next {s : State} {d : Dgram} {x : Session} (hx : s.session? d.session = some x)
    (hseq : d.seq = (x.seq + 1) % 2 ^ 32) (k : DxpKind) : s.dxpServe k d = s.serveNext d x k := by
  unfold State.dxpServe
  rw [hx]
  exact if_pos hseq

theorem dxpServe_again {s : State} {d : Dgram} {x : Session} {a : Answer} (hx : s.session? d.session = some x) (hseq : d.seq = x.seq)
    (hne : d.seq ≠ (x.seq + 1) % 2 ^ 32) (hlast : x.last = some a) (k : DxpKind) :
    s.dxpServe k d = (s.modSession x.number (fun y => { y with idleSince := s.now })).sendDxp d a := by
  unfold State.dxpServe
  rw [hx]
  dsimp only
  rw [if_neg hne, if_pos hseq, hlast]

theorem dxpServe_none {s : State} {d : Dgram} (hx : s.session? d.session = none) (k : DxpKind) :
    s.dxpServe k d = s.sendDxp d (mkResponse d stSession (d.ops.map (fun o => opFail o stSession))) := by
  unfold State.dxpServe
  rw [hx]

theorem exec_dxpOpen_of_served {s : State} {d : Dgram} {offer : Nat} {want : Bool} (hserved : s.dxpServed d = true) :
    exec (.dxpOpen d offer want) s = .next (
      if !d.good ∨ !s.dxpAdmits d.src then s.bump Key.dxpRefusedCount 1 else s.dxpOpenSession d offer want) :=
  congrArg Host.Outcome.next (if_neg (by rw [hserved]; decide))

/-- A session is opened under a number no other has (R392). -/
theorem dxpOpenSession_opens {s : State} {d : Dgram} {offer : Nat} {want : Bool}
    (hversion : offer / 256 = s.reg Key.dxpVersion / 256) (hroom : s.acc.sessions.length < 8) :
    ∃ n, 0 < n ∧ (∀ x ∈ s.acc.sessions, x.number ≠ n) ∧
      (s.dxpOpenSession d offer want).acc.sessions =
        s.acc.sessions ++ [⟨n, want && !s.acc.sessions.any Session.grant, 0, none, s.now, none⟩] ∧
      (s.dxpOpenSession d offer want).out.dxp = s.out.dxp ++ [(d.src, d.port,
        ⟨0x02, n, d.seq, stOk, min (s.reg Key.dxpVersion) offer, want && !s.acc.sessions.any Session.grant, []⟩)] := by
  let used := s.acc.sessions.map Session.number
  refine ⟨unusedNumber used ((s.free 70).1 % (65535 - used.length)), unusedNumber_pos _ _, fun x hx h => ?_, ?_⟩
  · exact unusedNumber_not_mem used _ (h ▸ List.mem_map_of_mem (f := Session.number) hx)
  · unfold State.dxpOpenSession
    dsimp only
    rw [if_neg (not_not_intro hversion), if_neg (Nat.not_le.mpr hroom)]
    exact ⟨rfl, rfl⟩

theorem session?_endSession (s : State) (n : Nat) : (s.endSession n).session? n = none := by
  unfold State.session? State.endSession
  refine List.find?_eq_none.mpr fun x hx => ?_
  simpa using (List.mem_filter.mp hx).2

theorem exec_dxpSessionTimeout_of_session {s : State} {session dt : Nat} {x : Session} (hx : (s.advance dt).session? session = some x) :
    exec (.dxpSessionTimeout session dt) s = .next (
      let u := s.advance dt
      if x.idleSince + u.reg Key.dxpSessionTimeout * secondTicks ≤ u.now then u.endSession session else u) := by
  change execDxpSessionTimeout session dt s = _
  simp only [execDxpSessionTimeout, hx]

/-- Settles O55: the rows are `dxpRequest` of their kinds, and a new session's number is none in use (`unusedNumber_not_mem`). -/
theorem dxpRequestsAreServedOnceAndAnswered : Obligations.DxpRequestsAreServedOnceAndAnswered := by
  unfold Obligations.DxpRequestsAreServedOnceAndAnswered
  intro s d offer session dt want answered
  refine ⟨fun hserved hgood hadmit => ⟨?_, dxpOpenSession_opens, fun hversion hsize => ?_, fun hversion hsize => ⟨?_, ?_, ?_⟩⟩,
    fun hserved hbad => ⟨s.bump Key.dxpRefusedCount 1, ?_, ?_, ?_, ?_⟩,
    fun hserved hlong => ⟨s.bump Key.dxpRefusedCount 1, ?_, ?_, ?_⟩, fun x hx => ?_, fun n rest hn => ?_⟩
  · rw [exec_dxpOpen_of_served hserved]
    exact congrArg Host.Outcome.next (if_neg (by rw [hgood, hadmit]; decide))
  · refine requestsAnswer_of_all fun k => ?_
    rw [dxpRequest_sound hserved hgood hadmit hsize, if_pos hversion]
  · intro x hx hseq u serve
    have hserve (k : DxpKind) : s.dxpRequest k d = serve k := by
      rw [dxpRequest_sound hserved hgood hadmit hsize, if_neg (not_not_intro hversion), dxpServe_next hx hseq]
      rfl
    exact ⟨congrArg _ (hserve .read), congrArg _ (hserve .read), congrArg _ (hserve .write), congrArg _ (hserve .describe),
      congrArg _ (hserve .close), congrArg _ (hserve .keepalive)⟩
  · intro x a hx hseq hne hlast
    refine requestsAnswer_of_all fun k => ?_
    rw [dxpRequest_sound hserved hgood hadmit hsize, if_neg (not_not_intro hversion), dxpServe_again hx hseq hne hlast]
  · intro hx
    refine requestsAnswer_of_all fun k => ?_
    rw [dxpRequest_sound hserved hgood hadmit hsize, if_neg (not_not_intro hversion), dxpServe_none hx]
  · exact requestsAnswer_of_all (dxpRequest_refused hserved (hbad.imp_right .inr))
  · rw [exec_dxpOpen_of_served hserved]
    exact congrArg Host.Outcome.next (if_pos (by simpa using hbad))
  · exact onlyRegs_bump _ _ _ _ (List.mem_singleton_self _)
  · exact sameButRegs_bump _ _ _
  · exact requestsAnswer_of_all (dxpRequest_refused hserved (.inr (.inl hlong)))
  · exact onlyRegs_bump _ _ _ _ (List.mem_singleton_self _)
  · exact sameButRegs_bump _ _ _
  · rw [exec_dxpSessionTimeout_of_session hx]
    exact ⟨fun hover => ⟨congrArg Host.Outcome.next (if_pos hover), session?_endSession _ _⟩,
      fun hearly => congrArg Host.Outcome.next (if_neg (Nat.not_le.mpr hearly))⟩
  · change execQuoteSigned s = _
    simp only [execQuoteSigned, hn]

end Sys2Proof.Machine
end

section
/-! SUPPORT. The rows of the configuration CRC's passes and grace (R388 to R390), of temperatures (R362, R364, R444), and of supplies,
resets, pins and start-up stages (R414 to R424, R433 to R439, R446). -/
-- Elaborated in order: the whole text stays within the memory of one process only so.
set_option Elab.async false
namespace Sys2Proof.Machine
open Sys2Proof.Safety

/-! ### The configuration CRC (R388 to R390) -/

/-- The state that a pass of the configuration CRC ends in before it is compared (R388). -/
def State.crcPassEnded (s : State) (ms : Nat) : State :=
  ((s.setReg Key.configCrc s.configCrcNow).setReg Key.configCrcPassTime ms).modAcc (fun a => { a with
    crcArmed := false, crcPassArmed := a.crcArmed })

/-- The state with which a pass is compared is that before its end. -/
theorem reg_crcPassEnded_state (s : State) (ms : Nat) :
    (s.crcPassEnded ms).reg Key.configCrcState =
      ((s.setReg Key.configCrc s.configCrcNow).setReg Key.configCrcPassTime ms).reg Key.configCrcState := State.reg_modAcc ..

theorem crcPass_of_uncompared {s : State} {ms : Nat} (harmed : s.acc.crcPassArmed = false)
    (hstale : (s.crcPassEnded ms).reg Key.configCrcState = crcStale) : s.crcPass ms = s.crcPassEnded ms := by
  rw [reg_crcPassEnded_state] at hstale
  unfold State.crcPass State.crcPassEnded
  refine if_pos ?_
  rw [State.setReg_acc, State.setReg_acc, harmed, hstale]
  decide

/-- A pass is compared where a commit armed it, or out of STALE (R389). -/
theorem crcPass_of_compared {s : State} {ms : Nat}
    (h : s.acc.crcPassArmed = true ∨ (s.crcPassEnded ms).reg Key.configCrcState ≠ crcStale) :
    s.crcPass ms =
      if s.configCrcNow = (s.crcPassEnded ms).crcReference then
        ((s.crcPassEnded ms).setReg Key.configCrcState crcMatch).modAcc (fun a => { a with excursion := false, staleSince := none })
      else if (s.crcPassEnded ms).mstate = stConfig ∨ (s.crcPassEnded ms).mstate = stRun then (s.crcPassEnded ms).raiseMismatch
      else s.crcPassEnded ms := by
  rw [reg_crcPassEnded_state] at h
  unfold State.crcPass State.crcPassEnded
  refine if_neg ?_
  simp only [State.setReg_acc, Bool.not_eq_true', Bool.or_eq_false_iff, bne_eq_false_iff_eq, not_and_or, Bool.not_eq_false]
  exact h

theorem exec_configCrcPassEnd {s : State} (ms : Nat) (hstarted : s.started = true) (hrom : s.romStage = false)
    (haux : s.power.aux = true) : exec (.configCrcPassEnd ms) s = .next (s.crcPass ms) :=
  congrArg Host.Outcome.next (if_pos ⟨hstarted, by rw [hrom]; rfl, haux⟩)

theorem exec_configCrcGrace_of_stale {s : State} {dt t : Nat} (h : (s.advance dt).acc.staleSince = some t) :
    exec (.configCrcGrace dt) s = .next (
      let u := s.advance dt
      if u.mstate = stRun ∧ u.reg Key.configCrcState = crcStale ∧ !u.acc.crcArmed ∧ !u.acc.crcPassArmed ∧
        t + u.reg Key.configCrcGrace * 100000 ≤ u.now then u.raiseMismatch else u) := by
  change execConfigCrcGrace dt s = _
  simp only [execConfigCrcGrace, h]

/-- Settles O54: a pass is compared or not (`crcPass_of_compared`, `crcPass_of_uncompared`), and the grace row has its one condition. -/
theorem configurationPassesCompareAndWatch : Obligations.ConfigurationPassesCompareAndWatch := by
  unfold Obligations.ConfigurationPassesCompareAndWatch
  intro s ms dt
  refine ⟨fun hstarted hrom haux => ?_, fun h => ?_, fun h => ?_,
    fun t ht => ⟨fun hrun hstale harmed hpass hover => ?_, fun hearly => ?_⟩⟩
  · have hexec := exec_configCrcPassEnd ms hstarted hrom haux
    refine ⟨fun harmed hstale => ?_, fun hcompared => ?_⟩
    · exact hexec.trans (congrArg Host.Outcome.next (crcPass_of_uncompared harmed hstale))
    · rw [crcPass_of_compared hcompared] at hexec
      refine ⟨fun heq => ?_, fun hne hstate => ?_, fun hne hconfig hrun => ?_⟩
      · exact hexec.trans (congrArg Host.Outcome.next (if_pos heq))
      · exact hexec.trans (congrArg Host.Outcome.next ((if_neg hne).trans (if_pos hstate)))
      · exact hexec.trans (congrArg Host.Outcome.next ((if_neg hne).trans (if_neg (not_or.mpr ⟨hconfig, hrun⟩))))
  · refine congrArg Host.Outcome.next (if_neg ?_)
    simp only [Bool.not_eq_true']
    rintro ⟨hstarted, hrom, haux⟩
    simp [hstarted, hrom, haux] at h
  · change execConfigCrcGrace dt s = _
    simp only [execConfigCrcGrace, h]
  · rw [exec_configCrcGrace_of_stale ht]
    exact congrArg Host.Outcome.next (if_pos ⟨hrun, hstale, by rw [harmed]; rfl, by rw [hpass]; rfl, hover⟩)
  · rw [exec_configCrcGrace_of_stale ht]
    exact congrArg Host.Outcome.next (if_neg fun ⟨_, _, _, _, hover⟩ => absurd hover (Nat.not_le.mpr hearly))

/-! ### Temperatures (R362, R364, R444) -/

section
variable {s : State} {sensor : Fin 16} {mC : Int} (haux : s.power.aux = true)
include haux

theorem exec_thermalEmergency : exec (.thermalEmergency sensor mC) s = .next (
    let r := s.sample sensor mC
    if r.emergencyLimit sensor ≤ mC ∧ !r.emergency ∧ r.power.railsOn ∧ r.mstate ≠ stSafe then r.beginEmergency sensor else r) :=
  congrArg Host.Outcome.next (if_neg (by simp [haux]))

theorem exec_thermalShutdown : exec (.thermalShutdown sensor mC) s = .next (
    let r := s.sample sensor mC
    if r.shutdownLimit sensor ≤ mC ∧ r.power.railsOn ∧ r.mstate ≠ stSafe then
      match r.start.stage with
      | some st => (r.startSafe st [(0xFF, 0, 0)]).modPower (fun p => { p with railsOn := false })
      | none => r.enterSafe false
    else r) :=
  congrArg Host.Outcome.next (if_neg (by simp [haux]))

end

theorem exec_thermalEmergencyEnd_of_cool {s : State} {dt t : Nat} (h : (s.advance dt).power.coolSince = some t) :
    exec (.thermalEmergencyEnd dt) s = .next (
      let u := s.advance dt
      if u.emergency ∧ t + 1000000 ≤ u.now then
        (((u.setReg Key.thermalState 0).setCap u.power.capBefore).logModule 0x80 sevInfo 0x10 Key.thermalState 0).settle
      else u) := by
  change execThermalEmergencyEnd dt s = _
  simp only [execThermalEmergencyEnd, h]

/-- Settles O56: each row samples first, and its threshold then decides. -/
theorem temperaturesThrottleAndShutDown : Obligations.TemperaturesThrottleAndShutDown := by
  unfold Obligations.TemperaturesThrottleAndShutDown
  intro s sensor mC dt
  refine ⟨fun haux => ?_, fun haux => ?_, fun t ht => ⟨fun hem hover => ?_, fun hearly => ?_⟩, fun hcool => ?_, fun hem hwin => ?_,
    fun h => ?_⟩
  · refine ⟨congrArg Host.Outcome.next (if_pos haux), fun hlim hem hrails hsafe => ?_, fun hbelow => ?_, fun hlim hrails hsafe => ?_,
      fun hbelow => ?_⟩
    · rw [exec_thermalEmergency haux]
      exact congrArg Host.Outcome.next (if_pos ⟨hlim, by rw [hem]; rfl, hrails, hsafe⟩)
    · rw [exec_thermalEmergency haux]
      exact congrArg Host.Outcome.next (if_neg fun ⟨hlim, _⟩ => absurd hlim (Int.not_le.mpr hbelow))
    · have hexec := exec_thermalShutdown (sensor := sensor) (mC := mC) haux
      dsimp only at hexec
      rw [if_pos ⟨hlim, hrails, hsafe⟩] at hexec
      exact ⟨fun hnone => by rw [hexec, hnone], fun st hst => by rw [hexec, hst]⟩
    · rw [exec_thermalShutdown haux]
      exact congrArg Host.Outcome.next (if_neg fun ⟨hlim, _⟩ => absurd hlim (Int.not_le.mpr hbelow))
  · have hoff : (!s.power.aux) = true := by rw [haux]; rfl
    exact ⟨congrArg Host.Outcome.next (if_neg (by simp [haux])), congrArg Host.Outcome.next (if_pos hoff),
      congrArg Host.Outcome.next (if_pos hoff)⟩
  · rw [exec_thermalEmergencyEnd_of_cool ht]
    exact congrArg Host.Outcome.next (if_pos ⟨hem, hover⟩)
  · rw [exec_thermalEmergencyEnd_of_cool ht]
    exact congrArg Host.Outcome.next (if_neg fun ⟨_, hover⟩ => absurd hover (Nat.not_le.mpr hearly))
  · change execThermalEmergencyEnd dt s = _
    simp only [execThermalEmergencyEnd, hcool]
  · exact congrArg Host.Outcome.next (if_pos ⟨hem, hwin⟩)
  · refine congrArg Host.Outcome.next (if_neg ?_)
    rintro ⟨hem, hwin⟩
    simp [hem, hwin] at h

/-! ### Supplies, resets, pins and stages (R414 to R424, R433 to R439, R446) -/

/-- The level is written through an open window whatever the module's state (R398). -/
theorem exec_compatLevel_of_open {s : State} {v : Nat} (h : WindowOpen s) (hrom : s.romStage = false)
    (hstage : s.start.stage ≠ some 0) (hmax : v ≤ s.reg Key.compatLevelMax) (hv : v ≤ 1) :
    exec (.compatLevel v) s = .next (s.setReg Key.compatLevel v) := by
  have hentry : dictEntry? Key.compatLevel = some ⟨0x1010, 0x1010, 1, 1, .u8, 1, .rw, .val 0, 0, 1⟩ := by decide
  have hok : s.checkScalar Key.compatLevel v = stOk := by
    have hallowed : s.writeAllowed Key.compatLevel ⟨0x1010, 0x1010, 1, 1, .u8, 1, .rw, .val 0, 0, 1⟩ = true := by
      simpa [State.writeAllowed] using hstage
    have hrange : s.inRange Key.compatLevel ⟨0x1010, 0x1010, 1, 1, .u8, 1, .rw, .val 0, 0, 1⟩ v = true := by
      simp [State.inRange, Key.compatLevel, Key.ckptSlotBytes, Key.partitionRequest, Key.ctxRequest, hmax]
      omega
    unfold State.checkScalar
    rw [if_pos rfl, hentry]
    simp [hallowed, hrange, DictType.scalar]
  have hput : s.hostPut Key.compatLevel v = s.windowWrite (wordAddr Key.compatLevel) v := by
    unfold State.hostPut
    rw [hentry]
    exact if_neg (by decide)
  have hrow : exec (.compatLevel v) s = .next (s.hostPut Key.compatLevel v) := congrArg Host.Outcome.next (if_pos h.1)
  rw [hrow, hput, windowWrite_scalar h hrom hentry (by decide) (by decide) (by decide) (by decide) (by decide) (by omega),
    writeScalar_of_ok hentry hok]
  have hfind : allPorts.find? (fun (p : Fin 16) => Key.compatLevel == Key.portEnable p) = none ∧
      allCtx.find? (fun (c : Fin 4) => Key.compatLevel == Key.completionAck c) = none := by decide
  obtain ⟨hport, hctx⟩ := hfind
  unfold State.applyScalar State.writeRw
  simp only [if_neg (show Key.compatLevel ≠ Key.configCrcRef by decide), if_neg (show Key.compatLevel ≠ Key.powerCap by decide),
    if_neg (show Key.compatLevel ≠ Key.bulkSelect by decide), hport, hctx]

section
variable {s : State} {ms st : Nat} (haux : s.power.aux = true) (hst : (s.advance (msTicks ms)).start.stage = some st)
  (hwaits : (s.advance (msTicks ms)).stageWaits st = false)
include haux hst hwaits

/-- What the end of a stage does where the stage does not wait (R416, R418). -/
theorem exec_stageComplete_of_running (meas : List (List Byte)) (vals : List Nat) : exec (.stageComplete ms meas vals) s = .next (
    let u := s.advance (msTicks ms)
    if u.stageLate st then (u.measure st meas).stageFails st []
    else if !u.stageReady st vals then u
    else u.stageDone st meas vals) := by
  change execStageComplete ms meas vals s = _
  simp only [execStageComplete, haux, hst, hwaits, Bool.not_true, Bool.false_eq_true, if_false]

theorem exec_stageBudgetExpiry_of_running (items : List (Nat × Nat)) (meas : List (List Byte)) :
    exec (.stageBudgetExpiry ms items meas) s = .next (
      let u := s.advance (msTicks ms)
      if items.isEmpty ∧ u.now < u.start.stageSince + msTicks (stageBudget st) then u
      else (u.measure st meas).stageFails st items) := by
  change execStageBudgetExpiry ms items meas s = _
  simp only [execStageBudgetExpiry, haux, hst, hwaits, Bool.not_true, Bool.false_eq_true, if_false]

end

/-- Settles O57: the conditions of each part are those of one branch of its row. -/
theorem suppliesAndPinsAct : Obligations.SuppliesAndPinsAct := by
  unfold Obligations.SuppliesAndPinsAct
  intro s mV straps dt ms up meas vals items results
  refine ⟨fun haux hv => ?auxUp, fun h => ?auxStays, fun haux hlo hhi hin => ⟨fun hab => ?again, fun hab hstage hagain => ?inRange⟩,
    fun haux hv hdt => ?inputLoss, fun haux hlo hhi => ?inputOver, fun haux hv => ?auxLoss, fun haux hlo hhi => ?auxOver,
    fun haux hdt => ?mcReset, fun hdt => ?mcShort, ?perst, fun hperst hstage => ?perstEnd, fun haux => ?field,
    fun st haux hst hwaits => ?stages, fun t ht hover hin => ?startAgain, fun hopen hstage hrom hmax hv => ?compat⟩
  case auxUp => exact congrArg Host.Outcome.next (if_neg (by rw [haux]; simp; omega))
  case auxStays => exact congrArg Host.Outcome.next (if_pos h)
  case again =>
    have hopen : ¬ (mV < 46000 ∨ 56000 < mV ∨ s.power.input = true) := by rw [hin]; simp; omega
    change execInputInRange mV s = _
    unfold execInputInRange
    dsimp only
    rw [if_pos haux]
    exact congrArg Host.Outcome.next ((if_neg hopen).trans (if_pos hab))
  case inRange =>
    have hopen : ¬ (mV < 46000 ∨ 56000 < mV ∨ s.power.input = true) := by rw [hin]; simp; omega
    change execInputInRange mV s = _
    unfold execInputInRange
    dsimp only
    rw [if_pos haux]
    refine congrArg Host.Outcome.next ((if_neg hopen).trans ((if_neg (ne_true_of_eq_false hab)).trans (if_pos ⟨hstage, ?_⟩)))
    exact Option.isNone_iff_eq_none.mpr hagain
  case inputLoss =>
    change execInputLoss mV dt s = _
    unfold execInputLoss
    dsimp only
    rw [if_pos haux, if_pos ⟨hv, hdt⟩]
  case inputOver =>
    change execOvervoltage false mV s = _
    unfold execOvervoltage
    dsimp only
    rw [if_neg (by decide), if_neg (by omega), if_pos haux, if_pos hlo]
  case auxLoss => exact congrArg Host.Outcome.next (if_pos ⟨haux, hv⟩)
  case auxOver =>
    change execOvervoltage true mV s = _
    unfold execOvervoltage
    dsimp only
    rw [if_pos rfl, if_neg (by omega), if_pos ⟨haux, hlo⟩]
  case mcReset => exact congrArg Host.Outcome.next (if_pos ⟨haux, hdt⟩)
  case mcShort => exact congrArg Host.Outcome.next (if_neg fun ⟨_, h⟩ => absurd h (Nat.not_le.mpr hdt))
  case perst =>
    exact ⟨_, rfl, rfl, rfl, onlyRegs_trans (onlyRegs_setReg _ _ _ _ List.mem_cons_self)
      (onlyRegs_setReg _ _ _ _ (List.mem_cons_of_mem _ List.mem_cons_self)), rfl⟩
  case perstEnd => exact congrArg Host.Outcome.next ((if_neg (by rw [hperst]; decide)).trans (if_pos hstage))
  case field => exact congrArg Host.Outcome.next (if_pos haux)
  case stages =>
    have hcomplete := exec_stageComplete_of_running haux hst hwaits meas vals
    have hexpiry := exec_stageBudgetExpiry_of_running haux hst hwaits items meas
    refine ⟨fun hlate => ?_, fun hintime hready => ?_, fun hintime hready => ?_, fun hfail => ?_, fun h1 hup => ?_⟩
    · exact hcomplete.trans (congrArg Host.Outcome.next (if_pos hlate))
    · exact hcomplete.trans (congrArg Host.Outcome.next ((if_neg (ne_true_of_eq_false hintime)).trans (if_neg (by rw [hready]; decide))))
    · exact hcomplete.trans (congrArg Host.Outcome.next ((if_neg (ne_true_of_eq_false hintime)).trans (if_pos (by rw [hready]; decide))))
    · refine hexpiry.trans (congrArg Host.Outcome.next (if_neg ?_))
      rintro ⟨hempty, hearly⟩
      exact hfail.elim (fun hne => hne (List.isEmpty_iff.mp hempty)) (fun hover => absurd hover (Nat.not_le.mpr hearly))
    · subst h1
      exact congrArg Host.Outcome.next (if_pos ⟨hst, by rw [hwaits]; decide, hup⟩)
  case startAgain =>
    change execStartAgain dt s = _
    unfold execStartAgain
    dsimp only
    rw [ht]
    exact congrArg Host.Outcome.next (if_pos ⟨hover, hin⟩)
  case compat => exact exec_compatLevel_of_open hopen hrom hstage hmax hv

end Sys2Proof.Machine
end

section
/-! SUPPORT. The rows of a crew's packets and timers (R63, R275 to R283, R328), and those of the tick clock and of ramps
(R289 to R299). -/
-- Elaborated in order: the whole text stays within the memory of one process only so.
set_option Elab.async false
namespace Sys2Proof.Machine
open Sys2Proof.Safety

/-! ### Packets of a crew (R275, R278, R280) -/

/-- `instLater` is irreflexive. -/
theorem instLater_self (n : Nat) : instLater n n = false := by
  simp [instLater]

/-- The residue check passes where no bit of a sum is in error (R63). -/
theorem residuesOk_nil (k : CrewRun) (stage first : Nat) (elems : List Elem) : k.residuesOk stage first elems [] = true := by
  unfold CrewRun.residuesOk
  refine List.all_eq_true.mpr fun x _ => ?_
  exact beq_iff_eq.mpr (Int.add_emod _ _ _).symm

section
variable {s : State} {j : CollJob} {k : CrewRun} {stage num src first : Nat} {elems : List Elem} {upsets : List (Nat × Nat)}

/-- The additions of an arriving stroke fail where they are made, and the check of sums that are not BF16 does not hold (R63). -/
theorem strokeAdds_snd : (s.strokeAdds (some j) k stage num src first elems upsets).2 = true ↔
    j.adds stage num = true ∧ k.expects stage num src first = true ∧ j.bf16 = false ∧
      k.residuesOk stage first elems upsets = false := by
  unfold State.strokeAdds
  dsimp only
  split_ifs with hadd hbad <;> simp_all

theorem reg_strokeAdds (hadds : j.adds stage num = true) (hexpects : k.expects stage num src first = true)
    (hfits : s.reg Key.rdeAdditions + elems.length < dictModulus Key.rdeAdditions) :
    (s.strokeAdds (some j) k stage num src first elems upsets).1.reg Key.rdeAdditions = s.reg Key.rdeAdditions + elems.length := by
  have hcount : (s.bump Key.rdeAdditions elems.length).reg Key.rdeAdditions = s.reg Key.rdeAdditions + elems.length := by
    by_cases hzero : elems.length = 0
    · rw [hzero]
      rfl
    · exact reg_bump_same s _ _ hzero hfits (by decide)
  unfold State.strokeAdds
  dsimp only
  rw [hadds, hexpects, if_pos (by decide)]
  split
  · exact (onlyRegs_bump _ _ 1 [Key.residueMismatchCount] (List.mem_singleton_self _) _ (by decide)).trans hcount
  · exact hcount

end

section
variable {s : State} {src crew round num stage inst att sig first origin code : Nat} {elems : List Elem} {upsets : List (Nat × Nat)}
  {vals : List ScanVal} (hrestore : s.restoreFor crew inst = none) (hhelped : s.helpedOf crew inst = none)

section
variable {c : Fin 4} {q : Fin 8} {r : Run} {k : CrewRun} (hrun : s.crewRun crew = some (c, q, r, k))
include hhelped hrun

include hrestore in
theorem exec_enter_of_run : exec (.enter src crew round inst att sig) s = .next (
    if k.inst = inst then s.enterRun c q r k ⟨crew, round, inst, att, src, sig⟩
    else if instLater inst k.inst then s.holdEnter ⟨crew, round, inst, att, src, sig⟩
    else s.staleCrew crew) := by
  change execEnter src crew round inst att sig s = _
  simp only [execEnter, hrestore, hhelped, hrun]

include hrestore in
theorem exec_stroke_of_earlier (hinst : k.inst = inst) (hearly : att < k.attempt) :
    exec (.stroke src crew num stage inst att first elems upsets) s = .next (s.staleCrew crew) := by
  change execStroke src crew num stage inst att first elems upsets s = _
  simp only [execStroke, hrestore, hhelped, hrun]
  rw [if_pos (.inr hearly), hinst, instLater_self, if_neg (by decide)]

include hrestore in
theorem exec_stroke_of_job {j : CollJob} (hinst : k.inst = inst) (hatt : k.attempt = att) (hphase : r.phase = .running)
    (hsig : k.sig ≠ 0) (hjob : r.cmd.collRec.bind (s.collJob r.cmd) = some j) :
    exec (.stroke src crew num stage inst att first elems upsets) s = .next (
      let x := s.strokeAdds (some j) k stage num src first elems upsets
      if x.2 then x.1.originateAbort c q 0x50
      else (x.1.modRun c q (fun r => { r with crew := some (k.accept ⟨stage, num, src, first, elems⟩ s.now) })).collPump c q) := by
  change execStroke src crew num stage inst att first elems upsets s = _
  simp only [execStroke, hrestore, hhelped, hrun]
  rw [if_neg (by simp [hinst, hatt]), if_neg (by simp [hatt, hphase, hsig]), hjob]

theorem exec_scan_of_run : exec (.scan src crew round num stage inst att first vals) s = .next (
    if k.inst ≠ inst ∨ att < k.attempt then (if instLater inst k.inst then s else s.staleCrew crew)
    else if k.attempt < att ∨ r.phase ≠ .running then s
    else (s.modRun c q (fun r => { r with
      crew := some (k.acceptScan ⟨round, num, stage, src, first, vals⟩ s.now) })).exchangePump c) := by
  change execScan src crew round num stage inst att first vals s = _
  simp only [execScan, hhelped, hrun]

include hrestore in
theorem exec_crewAbort_of_run : exec (.crewAbort src crew origin inst att code) s = .next (
    if k.inst ≠ inst then s
    else if att < k.attempt then s.lateAbort c q r k att code origin
    else s.abortAt c q code origin) := by
  change execCrewAbort src crew origin inst att code s = _
  simp only [execCrewAbort, hrestore, hhelped, hrun]

end
end

/-- Settles O41: the run that the crew names decides (`exec_enter_of_run` and the lemmas after it). -/
theorem crewPacketsReachTheirRun : Obligations.CrewPacketsReachTheirRun := by
  unfold Obligations.CrewPacketsReachTheirRun
  intro s src crew round num stage inst att sig first origin code elems upsets vals hrestore hhelped
  refine ⟨fun c q r k hrun => ?_, fun hnone => ?_⟩
  · have henter := exec_enter_of_run (src := src) (round := round) (att := att) (sig := sig) hrestore hhelped hrun
    have hscan := exec_scan_of_run (src := src) (round := round) (num := num) (stage := stage) (att := att) (first := first)
      (vals := vals) hhelped hrun
    have habort := exec_crewAbort_of_run (src := src) (att := att) (origin := origin) (code := code) hrestore hhelped hrun
    refine ⟨fun hinst => ?_, fun hne hlater => ?_, fun hne hlater => ?_, fun hinst hearly => ⟨?_, ?_, ?_⟩, fun hinst hatt => ?_,
      fun hinst hatt hphase => ⟨?_, fun j hsig hjob => ⟨fun hok => ?_, fun hbad => ?_, strokeAdds_snd, reg_strokeAdds,
        residuesOk_nil k stage first elems⟩⟩⟩
    · exact henter.trans (congrArg Host.Outcome.next (if_pos hinst))
    · exact henter.trans (congrArg Host.Outcome.next ((if_neg hne).trans (if_pos hlater)))
    · exact henter.trans (congrArg Host.Outcome.next ((if_neg hne).trans (if_neg (ne_true_of_eq_false hlater))))
    · exact exec_stroke_of_earlier hrestore hhelped hrun hinst hearly
    · rw [hscan, if_pos (.inr hearly), hinst, instLater_self, if_neg (by decide)]
    · rw [habort, if_neg (not_not_intro hinst), if_pos hearly]
    · rw [habort, if_neg (not_not_intro hinst), if_neg (Nat.not_lt.mpr hatt)]
    · rw [hscan, if_neg (by simp [hinst, hatt]), if_neg (by simp [hatt, hphase])]
    · exact (exec_stroke_of_job hrestore hhelped hrun hinst hatt hphase hsig hjob).trans (congrArg Host.Outcome.next
        (if_neg (ne_true_of_eq_false hok)))
    · exact (exec_stroke_of_job hrestore hhelped hrun hinst hatt hphase hsig hjob).trans (congrArg Host.Outcome.next (if_pos hbad))
  · refine ⟨?_, ?_, ?_⟩
    · change execStroke src crew num stage inst att first elems upsets s = _
      simp only [execStroke, hrestore, hhelped, hnone]
    · change execScan src crew round num stage inst att first vals s = _
      simp only [execScan, hhelped, hnone]
    · change execCrewAbort src crew origin inst att code s = _
      simp only [execCrewAbort, hrestore, hhelped, hnone]

/-! ### Timers of a crew (R281, R283, R328) -/

section
variable {s : State} {c : Fin 4} {q : Fin 8} {dt : Nat} {r : Run}

theorem exec_strokeTimeout_of_running {k : CrewRun} (hk : r.crew = some k) (hrun : (s.advance dt).run c q = some r)
    (hrestore : (s.advance dt).ckpt.restore = none) (hxch : r.xch = none) (hphase : r.phase = .running) :
    exec (.strokeTimeout c q dt) s = .next (
      if (s.advance dt).strokeExpired r.cmd.target k then (s.advance dt).originateAbort c q 0x22 else s.advance dt) := by
  change execStrokeTimeout c q dt s = _
  simp only [execStrokeTimeout, hrestore, hrun, hk, hxch, hphase, beq_self_eq_true, Bool.true_and]

theorem exec_abortSettle_of_undecided {k : CrewRun} {ab : AbortRun} (hk : r.crew = some k) (hrun : (s.advance dt).run c q = some r)
    (hab : r.abort = some ab) (hdec : ab.decided = false) :
    exec (.abortSettle c q dt) s = .next (
      if (s.advance dt).force Key.abortSettle ≤ (s.advance dt).now - ab.since then (s.advance dt).settleAbort c q r k ab
      else s.advance dt) := by
  change execAbortSettle c q dt s = _
  simp only [execAbortSettle, hrun, hab, hk, hdec, Bool.not_false, Bool.true_and, decide_eq_true_eq]

theorem exec_takeoverWait_of_decided {ab : AbortRun} (hrun : (s.advance dt).releaseReruns.run c q = some r) (hab : r.abort = some ab)
    (hdec : ab.decided = true) :
    exec (.takeoverWait c q dt) s = .next (
      let v := (s.advance dt).releaseReruns
      if ab.since + v.force Key.takeoverWait ≤ v.now then
        (v.bump Key.rerunHoldTicks (v.now - ab.since)).ctxFault c ab.code r.entry.command 0x0C (Key.collAborts c) ab.origin
      else v) := by
  change execTakeoverWait c q dt s = _
  simp only [execTakeoverWait, hrun, hab, hdec, Bool.true_and, decide_eq_true_eq]

end

/-- Settles O42: each timer's row has its limit as its one condition. -/
theorem crewTimersAct : Obligations.CrewTimersAct := by
  unfold Obligations.CrewTimersAct
  intro s c q dt r k hk
  refine ⟨fun hrun hrestore hxch hphase => ?_, fun ab hrun hab hdec => ?_, fun ab hrun hab hdec => ?_⟩
  · rw [exec_strokeTimeout_of_running hk hrun hrestore hxch hphase]
    exact ⟨fun h => congrArg _ (if_pos h), fun h => congrArg _ (if_neg (ne_true_of_eq_false h))⟩
  · rw [exec_abortSettle_of_undecided hk hrun hab hdec]
    exact ⟨fun h => congrArg _ (if_pos h), fun h => congrArg _ (if_neg (Nat.not_le.mpr h))⟩
  · rw [exec_takeoverWait_of_decided hrun hab hdec]
    exact ⟨fun h => congrArg _ (if_pos h), fun h => congrArg _ (if_neg (Nat.not_le.mpr h))⟩

/-! ### The tick clock and ramps (R289 to R299) -/

/-- The ramp of a due entry takes its launch tick, and is counted (R299). -/
theorem exec_rampStart_of_due {s : State} {c : Fin 4} {q : Fin 8} {dt : Nat} {r : Run} (hrun : (s.advance dt).run c q = some r)
    (hflag : bit r.entry.flags 0 = true) (hphase : r.phase = .waiting) (hahead : (s.advance dt).tick < r.entry.launch)
    (hlead : r.entry.launch ≤ (s.advance dt).tick + (s.advance dt).force Key.rampLead) (hramp : (s.advance dt).time.ramp = none)
    (hramped : (s.advance dt).time.ramped.contains (queueNo c q, ((s.advance dt).queue c q).next) = false)
    (hem : (s.advance dt).emergency = false) :
    ∃ v, exec (.rampStart c q dt) s = .next v ∧ v.time.ramp = some r.entry.launch ∧ v.ctxs = (s.advance dt).ctxs ∧
      OnlyRegs [Key.rampCount] (s.advance dt) v := by
  have hpos : 0 < (s.advance dt).force Key.rampLead := by omega
  obtain ⟨w, htime, hctxs, hregs, hexec⟩ : ∃ w : State, w.time.ramp = some r.entry.launch ∧ w.ctxs = (s.advance dt).ctxs ∧
      w.regs = (s.advance dt).regs ∧ exec (.rampStart c q dt) s = .next (w.bump Key.rampCount 1) := by
    change ∃ w : State, _ ∧ _ ∧ _ ∧ execRampStart c q dt s = _
    simp only [execRampStart, hrun, hflag, hphase, hramp, hramped, hem, decide_eq_true hpos, decide_eq_true hlead, decide_eq_true hahead]
    refine ⟨_, ?time, ?ctxs, ?regs, congrArg Host.Outcome.next (if_pos ?due)⟩
    case due => rfl
    all_goals rfl
  refine ⟨_, hexec, ?_, ?_, fun k hk => ?_⟩
  · obtain e | ⟨v, e⟩ := bump_cases w Key.rampCount 1 <;> rw [e] <;> exact htime
  · obtain e | ⟨v, e⟩ := bump_cases w Key.rampCount 1 <;> rw [e] <;> exact hctxs
  · exact (onlyRegs_bump w _ 1 _ (List.mem_singleton_self _) k hk).trans (congrArg (fun l => sparseGet l k (dictDefault k)) hregs)

theorem exec_rampEnd_of_ramp {s : State} {dt launch : Nat} (h : (s.advance dt).time.ramp = some launch) :
    exec (.rampEnd dt) s = .next (
      if launch ≤ (s.advance dt).tick then (s.advance dt).modTime (fun x => { x with ramp := none }) else s.advance dt) := by
  change execRampEnd dt s = _
  simp only [execRampEnd, h]

/-- Settles O43: each row's conditions hold or its time alone passes. -/
theorem timingRowsAct : Obligations.TimingRowsAct := by
  unfold Obligations.TimingRowsAct
  intro s c q t dt launch pll r
  refine ⟨rfl, fun hlink => ⟨_, congrArg Host.Outcome.next (if_pos hlink), rfl,
    onlyRegs_setReg _ _ _ _ (List.mem_singleton_self _), rfl⟩, ?_, fun hgc hsafe hstage => ?_⟩
  · intro u
    refine ⟨fun hlink hen hdue => ?_, fun hdis => ?_, fun hrun hflag hphase hahead hlead hramp hramped hem => ?_,
      fun hramp => ⟨fun h => ?_, fun h => ?_⟩⟩
    · exact congrArg Host.Outcome.next (if_pos ⟨hlink, hen, hdue⟩)
    · exact congrArg Host.Outcome.next (if_neg fun ⟨_, hen, _⟩ => absurd (hdis.symm.trans hen) (by decide))
    · exact exec_rampStart_of_due hrun hflag hphase hahead hlead hramp hramped hem
    · rw [exec_rampEnd_of_ramp hramp]
      exact congrArg Host.Outcome.next (if_pos h)
    · rw [exec_rampEnd_of_ramp hramp]
      exact congrArg Host.Outcome.next (if_neg (Nat.not_le.mpr h))
  · intro u
    change execClockFault pll s = _
    unfold execClockFault
    rw [if_neg (by simp [hgc, hsafe])]
    dsimp only
    have hlog : (u.log sevWarning noCtx 0x0D none32 Key.clockStatus (u.reg Key.clockStatus)).start.stage = none := by
      simpa [u] using hstage
    rw [hlog]

end Sys2Proof.Machine
end

section
/-! SUPPORT. The messages of a coded group (R314 to R336), of takeovers, rebuilds and decodes (R321 to R331). -/
-- Elaborated in order: the whole text stays within the memory of one process only so.
set_option Elab.async false
namespace Sys2Proof.Machine
open Sys2Proof.Safety

/-! ### Deltas and the messages of a coded group (R314, R316, R323, R336) -/

section
variable {s : State} (hmember : s.groupIndex ≠ 0xFF)
include hmember

/-- A delta that its row's member awaits joins the staged delta, and what is staged is applied (R314). -/
theorem exec_parityDelta_of_awaited {src : Addr} {stripe gen slot row first total : Nat} {gs : List (List Byte)}
    (hrow : rowOf stripe s.groupIndex = some row) (hslot : slot < 6) (hsrc : s.indexOfAddr src = dataIndex stripe slot) :
    let same (d : Delta) := d.stripe == stripe && d.row == row && d.slot == slot && d.gen == gen
    let old := (s.coded.staging.find? same).getD ⟨stripe, row, slot, gen, total, []⟩
    let got := ((List.range gs.length).zip gs).map (fun x => (first + x.1, x.2))
    let new := { old with granules := old.granules ++ got.filter (fun x => !old.granules.any (fun y => y.1 == x.1)) }
    let u := s.modCoded (fun c => { c with staging := c.staging.filter (fun x => !same x) ++ [new] })
    s.deltaStale old = false → u.unitLost true (parityUnitOf u.groupIndex stripe) = false →
      exec (.parityDelta src stripe gen slot row first total gs) s = .next u.pumpDeltas := by
  intro same old got new u hstale hlost
  have hwaits : (s.groupIndex == 0xFF && s.reg Key.codedState == cdRebuilding) = false := by
    rw [beq_eq_false_iff_ne.mpr hmember, Bool.false_and]
  change execParityDelta src stripe gen slot row first total gs s = _
  unfold execParityDelta
  simp only [hwaits, Bool.not_false, true_and]
  rw [if_neg (by simp [hmember, hrow, hslot, hsrc]), if_neg (ne_true_of_eq_false hstale)]
  exact congrArg (fun x : State => Host.Outcome.next x.pumpDeltas) (if_neg (ne_true_of_eq_false hlost))

theorem exec_groupDone_of_member {gen index : Nat} (hindex : index < 8) : exec (.groupDone gen index) s = .next
    (s.modCoded (fun c => { c with
      doneFrom := if c.doneFrom.contains (gen, index) then c.doneFrom else c.doneFrom ++ [(gen, index)] })).checkRecord := by
  have hopen : ¬ ((s.groupIndex = 0xFF ∧ s.reg Key.codedState ≠ cdRebuilding) ∨ 8 ≤ index) := by
    simp only [hmember, false_and, false_or]
    omega
  exact congrArg Host.Outcome.next ((if_neg hopen).trans (if_neg hmember))

/-- The state that a survivor reports is noted, and the losses that are open are decided on (R323). -/
theorem exec_groupState_of_open_loss {recorded opened units index flags : Nat} (hindex : index < 8) (hother : index ≠ s.groupIndex)
    (hflag : bit flags 2 = false) (hstate : (s.noteCount index units).reg Key.codedState ≠ cdRebuilding) :
    let u := (s.noteCount index units).modCoded (fun c => { c with
      reports := c.reports.filter (fun r => r.1 != index) ++ [(index, recorded, opened, units, flags % 4)] })
    u.coded.lossSince ≠ [] → exec (.groupState recorded opened units index flags) s = .next u.decideLosses := by
  intro u hloss
  have hopen : ¬ ((s.groupIndex = 0xFF ∧ s.reg Key.codedState ≠ cdRebuilding) ∨ 8 ≤ index ∨ index = s.groupIndex) := by
    simp only [hmember, hother, false_and, false_or, or_false]
    omega
  change execGroupState recorded opened units index flags s = _
  unfold execGroupState
  simp only [if_neg hopen, hflag, Bool.false_eq_true, if_false, hstate, false_and]
  exact congrArg Host.Outcome.next (if_pos (by simpa [u] using hloss))

end

/-- A survivor that is late to report counts as lost (R323). -/
theorem exec_codedReportWait_of_late {s : State} {index dt : Nat} {a : Addr} (hmember : (s.advance dt).groupIndex ≠ 0xFF)
    (hcoord : (s.advance dt).coordinator = (s.advance dt).groupIndex) (hindex : index < 8) (hother : index ≠ (s.advance dt).groupIndex)
    (hheld : (s.advance dt).groupLost index = false) (hsilent : (s.advance dt).coded.reports.any (fun r => r.1 == index) = false)
    (hlate : (s.advance dt).coded.lossSince.any
      (fun x => decide (x.2 + (s.advance dt).force Key.codedReportWait ≤ (s.advance dt).now)) = true)
    (haddr : (s.advance dt).groupAddr index = some a) :
    exec (.codedReportWait index dt) s = .next ((s.advance dt).memberLost a).decideLosses := by
  change execCodedReportWait index dt s = _
  unfold execCodedReportWait
  dsimp only
  rw [if_neg, haddr]
  simp only [hmember, hcoord, hother, hheld, hsilent, hlate]
  simpa using hindex

/-- Settles O44: for a member each message has its row lemma above; a module of no group that does not rebuild takes none. -/
theorem codedGroupMessagesAreTaken : Obligations.CodedGroupMessagesAreTaken := by
  unfold Obligations.CodedGroupMessagesAreTaken
  intro s src stripe gen slot row first total index recorded opened units flags dt gs
  refine ⟨fun hmember => ⟨exec_parityDelta_of_awaited hmember, exec_groupDone_of_member hmember, fun hgen hopen => ?_,
    fun hopen => ?_, exec_groupState_of_open_loss hmember⟩, fun a => exec_codedReportWait_of_late, fun hnone hstate => ?_⟩
  · exact congrArg Host.Outcome.next (if_pos ⟨hmember, hopen, hgen⟩)
  · exact congrArg Host.Outcome.next (if_neg fun ⟨_, h, _⟩ => hopen h)
  · have hidle : s.groupIndex = 0xFF ∧ s.reg Key.codedState ≠ cdRebuilding := ⟨hnone, hstate⟩
    refine ⟨?_, congrArg Host.Outcome.next (if_pos (.inl hidle)), congrArg Host.Outcome.next (if_neg fun ⟨h, _⟩ => h hnone),
      congrArg Host.Outcome.next (if_pos (.inl hidle))⟩
    refine congrArg Host.Outcome.next (if_pos ⟨?_, .inl hnone⟩)
    simp [hstate]

/-! ### Takeovers, rebuilds and decodes (R321, R324, R327, R330, R331) -/

/-- Settles O45: each message's conditions are those of one branch of its row. -/
theorem decodesAndTakeoversProceed : Obligations.DecodesAndTakeoversProceed := by
  unfold Obligations.DecodesAndTakeoversProceed
  intro s line rank copy tick gen view index layout stripe coeff req pos spare next ranks spares data
  refine ⟨fun hseen => ?_, fun hup hnew => ?_, fun hindex hstate hresume => ?_, fun hindex hstate hmember hother => ?_,
    fun hmember hself hlost hpoison => ?_, fun hpos => ?_, fun d hpos hfind hfull => ?_, fun hany hindex => ?_, fun hnone => ?_⟩
  · exact congrArg Host.Outcome.next (if_pos (.inr hseen))
  · exact congrArg Host.Outcome.next (if_neg (by rw [hup, hnew]; decide))
  · exact congrArg Host.Outcome.next (if_pos ⟨hstate, hresume, hindex⟩)
  · exact congrArg Host.Outcome.next ((if_neg fun ⟨h, _⟩ => hstate h).trans (if_pos ⟨hmember, hother, hindex⟩))
  · change execDecodeRead stripe view index coeff req next pos s = _
    unfold execDecodeRead
    rw [if_neg (by simp [hmember, hself]), hlost, hpoison]
    rfl
  · exact congrArg Host.Outcome.next (if_pos hpos)
  · change execDecodeTerm req stripe pos data s = _
    unfold execDecodeTerm
    rw [if_neg (Nat.not_lt.mpr hpos), hfind]
    exact congrArg Host.Outcome.next (if_pos hfull)
  · exact congrArg Host.Outcome.next (if_pos ⟨hany, hindex⟩)
  · exact congrArg Host.Outcome.next (if_neg fun ⟨h, _⟩ => absurd (hnone.symm.trans h) (by decide))

end Sys2Proof.Machine
end

section
/-! SUPPORT. The rows of checkpoints, of early warnings and of flash (R339 to R347), and of transfers and restores
(R348 to R352, R413). -/
-- Elaborated in order: the whole text stays within the memory of one process only so.
set_option Elab.async false
namespace Sys2Proof.Machine
open Sys2Proof.Safety

/-! ### Checkpoints, early warnings and program failures (R339 to R347) -/

/-- A checkpoint with nothing left to read writes its shard and ends (R346). -/
theorem exec_ckptWriteDone_of_read {s : State} {k : CkptRun} (hrun : s.ckpt.run = some k) (hread : k.toRead = [])
    (hstate : s.reg Key.ckptState = 2) :
    let v := (s.writeShard k).modCkpt (fun x => { x with run := none })
    exec .ckptWriteDone s = .next (((((v.setReg Key.ckptState 0).setReg Key.ckptLastStatus 1).setReg Key.ckptLastTicks
      (v.now - k.startNow)).bump Key.ckptCount 1).noteSlots) := by
  change execCkptWriteDone s = _
  simp only [execCkptWriteDone, hrun, hstate, hread, State.forEach, List.foldl_nil]
  rfl

section
variable {s : State} (hup : s.hubUp = true)
include hup

/-- A program failure that takes one of the spare blocks changes its count and theirs (R347). -/
theorem exec_flashProgramFail_of_spare (hspare : 0 < s.reg Key.flashSpareBlocks) : exec (.flashProgramFail true) s = .next
    ((s.bump Key.flashProgramFails 1).setReg Key.flashSpareBlocks ((s.bump Key.flashProgramFails 1).reg Key.flashSpareBlocks - 1)) := by
  have hsame : (s.bump Key.flashProgramFails 1).reg Key.flashSpareBlocks = s.reg Key.flashSpareBlocks :=
    onlyRegs_bump s _ 1 [Key.flashProgramFails] (List.mem_singleton_self _) _ (by decide)
  change execFlashProgramFail true s = _
  unfold execFlashProgramFail
  simp only [hup, hsame, hspare, decide_true]
  rfl

/-- A program failure that finds no spare block ends the checkpoint in progress (R347). -/
theorem exec_flashProgramFail_of_none {remapped : Bool} (hrun : (s.bump Key.flashProgramFails 1).ckpt.run.isSome = true)
    (hnone : remapped = true → s.reg Key.flashSpareBlocks = 0) : exec (.flashProgramFail remapped) s =
      .next (((s.bump Key.flashProgramFails 1).ckptDrop 3).log sevWarning noCtx 0x0F none32 Key.ckptLastStatus 3) := by
  have hsame : (s.bump Key.flashProgramFails 1).reg Key.flashSpareBlocks = s.reg Key.flashSpareBlocks :=
    onlyRegs_bump s _ 1 [Key.flashProgramFails] (List.mem_singleton_self _) _ (by decide)
  have hspare : (remapped && decide (0 < s.reg Key.flashSpareBlocks)) = false := by
    cases remapped with
    | false => rfl
    | true => simp [hnone rfl]
  have hsome : ¬ (false = true ∨ (s.bump Key.flashProgramFails 1).ckpt.run.isNone = true) := by
    rw [← Option.not_isSome, hrun]
    decide
  change execFlashProgramFail remapped s = _
  unfold execFlashProgramFail
  simp only [hup, hsame, hspare]
  exact congrArg Host.Outcome.next (if_neg hsome)

end

section
variable {s : State} {dt : Nat}

theorem exec_earlyWarningCheck_of_early (h : (s.advance dt).now < (s.advance dt).ckpt.ewChecked + secondTicks) :
    exec (.earlyWarningCheck dt) s = .next (s.advance dt) :=
  congrArg Host.Outcome.next (if_pos (.inr h))

variable (hup : (s.advance dt).hubUp = true) (hdue : (s.advance dt).ckpt.ewChecked + secondTicks ≤ (s.advance dt).now)
include hup hdue

/-- A check that is due with no warning settles what has cleared (R341). -/
theorem exec_earlyWarningCheck_of_clear :
    let v := (s.advance dt).modCkpt (fun k => { k with ewChecked := (s.advance dt).now })
    v.warnings = [] → exec (.earlyWarningCheck dt) s = .next (v.ewSettle v.warnings.isEmpty) := by
  intro v hnone
  change execEarlyWarningCheck dt s = _
  unfold execEarlyWarningCheck
  dsimp only
  rw [if_neg (by rw [hup]; simpa using hdue), if_pos (.inl (List.isEmpty_iff.mpr hnone))]

/-- A check that is due with warnings that hold, outside the holdoff, logs them and asks for a checkpoint (R341). -/
theorem exec_earlyWarningCheck_of_warnings :
    let v := (s.advance dt).modCkpt (fun k => { k with ewChecked := (s.advance dt).now })
    let w := v.ewSettle v.warnings.isEmpty
    v.warnings ≠ [] → w.reg Key.ckptEwEnable = 1 → w.reg Key.ckptPhase = 0 → w.ckpt.ewLast = none →
      exec (.earlyWarningCheck dt) s = .next (((w.modCkpt (fun k => { k with ewLast := some w.now })).forEach v.warnings (fun s x =>
        (s.setReg Key.ckptEwStatus (s.reg Key.ckptEwStatus ||| 2 ^ x.1)).log sevWarning noCtx 0x0F none32 x.2
          (s.reg x.2))).ckptRequestNow 1) := by
  intro v w hsome hen hphase hlast
  have hacts : ¬ (v.warnings.isEmpty = true ∨ w.reg Key.ckptEwEnable ≠ 1) := by
    simp only [List.isEmpty_iff, hsome, hen, ne_eq, not_true, or_false, not_false_eq_true]
  change execEarlyWarningCheck dt s = _
  unfold execEarlyWarningCheck
  dsimp only
  rw [if_neg (by rw [hup]; simpa using hdue), if_neg hacts, if_neg (not_not_intro hphase)]
  refine congrArg Host.Outcome.next (if_neg ?_)
  rw [show (State.ewSettle _ _).ckpt.ewLast = none from hlast]
  exact Bool.false_ne_true

end

/-- Settles O46: the conditions of each part are those of one branch of its row, as the lemmas above give them. -/
theorem checkpointRequestsAndWritesProceed : Obligations.CheckpointRequestsAndWritesProceed := by
  unfold Obligations.CheckpointRequestsAndWritesProceed
  intro s line target origin reason copy tick handle unit dt
  refine ⟨fun hseen => ?_, fun hup hnew => ?_, rfl, fun k => exec_ckptWriteDone_of_read, fun hnone => ?_, fun hup hspare => ?_,
    fun remapped hup => exec_flashProgramFail_of_none hup, exec_earlyWarningCheck_of_early, fun hup hdue => ?_⟩
  · exact congrArg Host.Outcome.next (if_pos (.inr hseen))
  · exact congrArg Host.Outcome.next (if_neg (by rw [hup, hnew]; decide))
  · change execCkptWriteDone s = _
    simp only [execCkptWriteDone, hnone]
  · exact ⟨_, exec_flashProgramFail_of_spare hup hspare,
      onlyRegs_trans (onlyRegs_bump _ _ _ _ List.mem_cons_self) (onlyRegs_setReg _ _ _ _ (List.mem_cons_of_mem _ List.mem_cons_self)),
      sameButRegs_trans (sameButRegs_bump _ _ _) (sameButRegs_setReg _ _ _)⟩
  · exact ⟨exec_earlyWarningCheck_of_clear hup hdue, exec_earlyWarningCheck_of_warnings hup hdue⟩

/-! ### Transfers, restores and the flash (R348, R351, R352, R413) -/

/-- What a restore does once its step is chosen and held in a slot (R352). -/
theorem exec_restoreComplete_of_held {s : State} {step i : Nat} {r : RestoreRun} (hr : s.restoreTake.ckpt.restore = some r)
    (hstep : r.step = some step) (hslot : s.restoreTake.restoreSlot step = some i) :
    let u := s.restoreTake
    let n := u.slotNat i 0xA8 8
    let p := u.putShard i n 0
    (u.slotNat i 6 1 = 1 → p.2 = none → exec (.restoreComplete true) s = .next (p.1.restoreDone i step r.refused)) ∧
    (∀ t, u.slotNat i 6 1 = 1 → p.2 = some t → exec (.restoreComplete true) s = .next (p.1.restoreBad t)) ∧
    (u.slotNat i 6 1 ≠ 1 → (List.range n).all (fun t => r.got.any (fun g => g.1 == t && g.2.1 == tileDone)) = true →
      exec (.restoreComplete true) s = .next (u.restoreDone i step r.refused)) := by
  intro u n p
  change (_ → _ → execRestoreComplete true s = _) ∧ (∀ t, _ → _ → execRestoreComplete true s = _) ∧
    (_ → _ → execRestoreComplete true s = _)
  simp only [execRestoreComplete, hr, hstep, hslot, Bool.not_true, Bool.false_eq_true, if_false]
  refine ⟨fun hfull hp => ?_, fun t hfull hp => ?_, fun href hall => ?_⟩
  · rw [if_pos hfull]
    exact congrArg Host.Outcome.next (by rw [show (State.putShard _ _ _ _).2 = none from hp])
  · rw [if_pos hfull]
    exact congrArg Host.Outcome.next (by rw [show (State.putShard _ _ _ _).2 = some t from hp])
  · rw [if_neg href]
    exact congrArg Host.Outcome.next (if_neg (by rw [hall]; decide))

/-- Settles O47: the transfer, the restore or the flash that the row finds decides its branch. -/
theorem transfersAndRestoresProceed : Obligations.TransfersAndRestoresProceed := by
  unfold Obligations.TransfersAndRestoresProceed
  intro s shard step tile piece data
  refine ⟨fun d slot off len host hxfer => ⟨fun hup => ?_, fun hdown hvalid => ?_⟩, fun hnone => ?_,
    fun r hr hshard hreplica hpiece hstep hnew => ?_, fun hnone => ?_, fun r i => exec_restoreComplete_of_held,
    fun hatt hrun hxfer => ?_, fun hdet => ?_⟩
  · change execXferComplete data s = _
    simp only [execXferComplete, hxfer, if_pos hup]
  · change execXferComplete data s = _
    simp only [execXferComplete, hxfer, if_neg hdown]
    exact congrArg Host.Outcome.next (if_neg (ne_true_of_eq_false hvalid))
  · change execXferComplete data s = _
    simp only [execXferComplete, hnone]
  · have hwanted : (match r.step with | some t => t != step | none => false) = false := by
      obtain h | h := hstep <;> simp [h]
    change execCkptTile shard step tile piece data s = _
    simp only [execCkptTile, hr]
    refine congrArg Host.Outcome.next (if_neg ?_)
    simp only [hshard, hreplica, hnew, not_true, Bool.false_eq_true, false_or, or_false, ne_eq, not_or]
    exact ⟨Nat.not_le.mpr hpiece, ne_true_of_eq_false hwanted⟩
  · change execCkptTile shard step tile piece data s = _
    simp only [execCkptTile, hnone]
  · have hrun' : ¬ (s.setReg Key.flashState 0).ckpt.run.isSome = true := by simp [hrun]
    change execFlashDetached s = _
    unfold execFlashDetached
    rw [hatt, if_neg (by decide)]
    dsimp only
    rw [if_neg hrun', show (s.setReg Key.flashState 0).ckpt.xfer = none from hxfer]
  · exact congrArg Host.Outcome.next (if_pos (by rw [hdet]; rfl))

end Sys2Proof.Machine
end
